-- ==== Sys2Proof/Word.lean ====
section
/-! DEFINITION. The word and byte types, and the sparse map that registers, tables and memories are kept in. -/

namespace Sys2Proof

/-- A register word: 32 bits (00_scope.md R3). -/
abbrev Word := BitVec 32

/-- A byte of a wire structure or of a memory. -/
abbrev Byte := BitVec 8

/-- A sparse map from numbers: entries by strictly rising key, nothing stored for a key at its default. -/
abbrev SMap (α : Type) := List (Nat × α)

end Sys2Proof
end

