-- ==== Sys2Proof/Types.lean ====
section
/-! DEFINITION. What commands carry and State holds that is no single number: partners, packets, frames, training
records. Identifiers, fields and counts are natural numbers; what software reads as a word is a `Word`. -/

namespace Sys2Proof

/-- A partner that reads and writes registers (00_scope.md R4, R6): the hosts and Belfry, which also acts for the BMC
and for the fabric manager (16 R411). -/
inductive Partner where
  | hostA | hostB | belfry
deriving DecidableEq, Repr

/-- The number of a host: 0 Host A, 1 Host B (19 R471). -/
def Partner.host : Partner → Option Nat
  | .hostA => some 0
  | .hostB => some 1
  | .belfry => none

/-- The number of a partner. -/
def Partner.num : Partner → Nat
  | .hostA => 0
  | .hostB => 1
  | .belfry => 2

/-- What a host's memory answers to a read of a ring engine (13 R341): the bytes, or none where the PCIe read ends in an
error. Memory of a host is outside the device, so the answer comes with the command; it is not read where the ring's
space is not a host's. -/
abbrev HostData : Type := Option (List Byte)

/-- A native packet (03 R72, R74, Table 3-4), with the VC it travels on. `len` is the header's length field;
`payload` the payload bytes held so far; `rsvA` and `rsvB` the reserved header bits, forwarded unchanged (R74). -/
structure Pkt where
  op : Nat := 0
  hops : Nat := 0
  tclass : Nat := 0
  gen : Nat := 0
  ce : Bool := false
  spray : Bool := false
  rsvA : Nat := 0
  len : Nat := 0
  did : Nat := 0
  sid : Nat := 0
  tenant : Nat := 0
  rsvB : Nat := 0
  flow : Nat := 0
  tag : Nat := 0
  opf : Nat := 0
  vc : Nat := 0
  payload : List Byte := []
deriving DecidableEq, Repr

/-- What rule R84 reads in a TS_IDENT record (Table 3-12): the arrival lane, the lane the record names, the device
identity and word 16 and word 20 as they stand. -/
structure Ident where
  lane : Nat
  named : Nat
  version : Nat
  devId : Nat
  word16 : Nat
  word20 : Nat
deriving DecidableEq, Repr

/-- The colour of a packet at ingress (07 R197). -/
inductive Colour where
  | green | yellow | red
deriving DecidableEq, Repr

/-- What power-good finds on the board (19 R474, R477, Table 16-17): the boot flash and the record store with their JEDEC
IDs, the straps, and how many writes the store takes before it fails, if it does, with whether it reports the error. -/
structure PowerUp where
  flash : Bool
  flashId : Nat
  store : Bool
  storeId : Nat
  cls : Fin 8
  slot : Fin 64
  provision : Bool
  fault : Option (Nat × Bool)
deriving DecidableEq, Repr

/-- A unit of power management (Table 18-4): the lane group of a logical port, a tile, a die's compute domain, a stack. -/
inductive PwrUnit where
  | lanes (lp : Fin 2048)
  | tile (ct : Fin 64)
  | die (n : Fin 8)
  | stack (hs : Fin 32)
deriving DecidableEq, Repr

/-- A channel to Belfry (Table 16-1): a half of the mailbox, the DOE mailbox of a host function, an I3C bus, the in-band
queue. -/
inductive Channel where
  | mailbox (h : Fin 2)
  | doe (h : Fin 2)
  | i3c (b : Fin 2)
  | inband
deriving DecidableEq, Repr

/-- What a vendor-defined message asks (16 R426, R430): register reads and writes, of which TAP operations and commits are
some, or bytes of the staging area. -/
inductive VdmOp where
  | read (off : Nat)
  | write (off : Nat) (v : Word)
  | stage (off : Nat) (bytes : List Byte)
  /-- A memory request that Belfry makes while it serves the message (11 R290). -/
  | memory (p : Pkt)
  /-- A PCIe read or write of a host's memory that Belfry makes (16 Table 16-12), with what the host answers. -/
  | hostRead (h : Fin 2) (addr n : Nat) (answer : List Byte)
  | hostWrite (h : Fin 2) (addr : Nat) (bytes : List Byte)
  /-- A write of Belfry's own to bytes of the boot flash's protected region (16 R413). -/
  | protect (off n : Nat)
deriving DecidableEq, Repr

/-- A PCIe configuration request to a function (19 R466, R467): a read of the identity of Table 19-1, or a write that
MSI-X, LTR, or the size of BAR4 as a power of two, takes. -/
inductive CfgReq where
  | identity
  | msix (enable maskAll : Bool)
  | ltrEnable (on : Bool)
  | bar4Size (log : Nat)
deriving DecidableEq, Repr

/-- What a tile does wrong while it works on a slot (08 R230, 15 R400): the single-bit errors of slot memory that it corrects,
whether a word of it is uncorrectable, and the bits of its result that come out wrong without its knowledge, as a number in
little-endian byte order. A correct tile has none of them. -/
structure SlotFault where
  corr : Nat := 0
  unc : Bool := false
  flip : Nat := 0
deriving DecidableEq, Repr

/-- What the tile of a die does wrong in the runs of a pattern vector (15 R406): the vector's place in its pack, and the faults
of its run and of the two repeats. -/
structure VectorRun where
  die : Nat
  vec : Nat
  bad : List SlotFault
deriving DecidableEq, Repr

/-- A PATTERN_RUN on the Sentinels: what goes wrong in its vectors, and of each die the temperature and the load that its
records carry. -/
structure PackRun where
  runs : List VectorRun
  env : List (Nat × Nat)
deriving DecidableEq, Repr

/-- An idle pattern on one tile: what goes wrong in its vectors, and the temperature and load of the tile. -/
structure IdleRun where
  runs : List VectorRun
  temp : Nat
  load : Nat
deriving DecidableEq, Repr

/-- A contribution, and what the tile does wrong with its slot. -/
structure UpPacket where
  pkt : Pkt
  bad : SlotFault
deriving DecidableEq, Repr

/-- A register access as the bus carries it: the offset and the width in bytes (00 R3). -/
structure Access where
  off : Nat
  width : Nat
deriving DecidableEq, Repr

/-- What becomes of a cell on its way out: whether the egress CRC check finds it corrupt as it is read (06 R169), and how many
mesh groups that carry it arrive with a bad CRC-32C on each link it crosses (06 R168). -/
structure Crossing where
  corrupt : Bool
  mesh : Nat
deriving DecidableEq, Repr

/-- What a stack's controller finds on the channel of an offset: command and address parity errors and CRC retries (12
R334). -/
structure ChannelErrs where
  off : Nat
  parity : Nat
  retries : Nat
deriving DecidableEq, Repr

/-- A MIG_ABORT record (14 Table 14-4): the direction of the sender's spare, the position, and its rec_seq. -/
structure AbortRec where
  dir : Fin 2
  pos : Fin 8
  recSeq : Fin 256
deriving DecidableEq, Repr

/-- A scan of CMIS for a laser source module (14 R369): whether it is found, and what the two-wire bus met: transfers not
acknowledged and timeouts. -/
structure ModuleScan where
  m : Fin 32
  found : Bool
  naks : Nat
  timeouts : Nat
deriving DecidableEq, Repr

end Sys2Proof
end

