-- ==== Sys2Proof/Syntax.lean ====
section
/-! DEFINITION. The commands of the device: one constructor per row of spec/opcode_table.json, with the row's operands. -/

namespace Sys2Proof

/-- A command that a partner, a far end, a pin or a timer of the device gives it. -/
inductive Instr where
  /-- BELL (R45). At each bell the device performs the ordered work of Table 2-2 on every die in the same switch cycle. -/
  | bell (watts : Nat)
  /-- TIM_INC_HI_WRITE (R33). A write of TIM_INC_HI applies the new fabric-time increment from the next switch cycle and clears holdover. -/
  | timIncHiWrite (who : Partner) (v : Word)
  /-- STEP (R33). TIM_CTRL.step adds the signed TIM_STEP value to fabric time, sets time_valid and adjusts or withholds bells. -/
  | step (who : Partner)
  /-- HOLDOVER_SET (R34). TIM_CTRL.holdover_set puts fabric time into holdover and writes a NOTICE record. -/
  | holdoverSet (who : Partner)
  /-- HOLDOVER_TIMEOUT (R34). No increment write or step for timeout_ms milliseconds puts the device into holdover. -/
  | holdoverTimeout
  /-- TIM_COMMIT (R40). A write of TIM_COMMIT captures the shadows of the named domains and starts one joint commit, or is refused as busy or LATE. -/
  | timCommit (who : Partner) (mask : Word)
  /-- COMMIT_VALIDATION (R41). Validation of a joint commit completes and the commit becomes PENDING or FAILED with its error and record. -/
  | commitValidation (d : Fin 9)
  /-- TIM_CMT_CANCEL (R44). TIM_CMT_CANCEL discards validating or pending commits of the named domains, which report CANCELLED. -/
  | timCmtCancel (who : Partner) (mask : Word)
  /-- TIM_CMT_DISCARD (R44). TIM_CMT_DISCARD reloads the shadows of the named domains from the values in force. -/
  | timCmtDiscard (who : Partner) (mask : Word)
  /-- PPS_IN_EDGE (R52). A rising edge of PPS_IN latches fabric time and sets pps_valid, and pps_overrun if already valid. -/
  | ppsInEdge
  /-- PPS_OUT_PULSE (R52). At each whole second of fabric time PPS_OUT is driven high when pps_out_en = 1. -/
  | ppsOutPulse
  /-- PPS_OUT_END (R52). After TIM_PPS_CFG microseconds the PPS_OUT pulse ends. -/
  | ppsOutEnd
  /-- BELFRY_PTP_SEND (R51). Belfry sends a PTP message through the bell and time unit, which returns the egress timestamp for event messages. -/
  | belfryPtpSend (lp : Fin 2048) (p : Pkt)
  /-- GROUP_RECEIVED (R62). A received codeword pair is decoded and each valid sequenced group is accepted in order, delivering its cells and credits. -/
  | groupReceived (lp : Fin 2048) (lane : Fin 9) (pair : List Byte)
  /-- SEND_GROUP (R58). The link sends its next stripe of cell groups, sequenced or unsequenced, with acknowledgement in each trailer. -/
  | sendGroup (lp : Fin 2048)
  /-- REPLAY (R64). At the next group boundary the sender resends groups in order from the NAKed sequence number with replay = 1. -/
  | replay (lp : Fin 2048)
  /-- ACK_STALL_TIMEOUT (R64). No acknowledgement progress for 12 µs replays from the oldest unacknowledged group, and the eighth expiry takes the link down. -/
  | ackStallTimeout (lp : Fin 2048)
  /-- TS_ALIGN (R83). A TS_ALIGN maintenance record is received during training or migration. -/
  | tsAlign (lp : Fin 2048) (lane : Fin 9) (named : Nat) (version : Nat) (recSeq : Fin 256) (skew : Nat)
  /-- TS_IDENT (R84). A received TS_IDENT is checked for lane, breakout, bell period and expected identity, advancing or failing training. -/
  | tsIdent (lp : Fin 2048) (r : Ident) (recSeq : Fin 256)
  /-- TS_PARAM (R71). A received TS_PARAM sets the far end's initial credits per VC. -/
  | tsParam (lp : Fin 2048) (version : Nat) (recSeq : Fin 256) (credits : List Nat)
  /-- TS_ACK (R82). A received TS_ACK acknowledges a training or lane-control record, stopping its resend and advancing the state. -/
  | tsAck (lp : Fin 2048) (version : Nat) (recType : Fin 256) (ackSeq : Fin 256)
  /-- LINK_DOWN (R86). A received LINK_DOWN record takes the logical port to DOWN at once with fail_reason FAR_DOWN. -/
  | linkDown (lp : Fin 2048) (version : Nat) (reason : Fin 256)
  /-- TRAINING_RESEND (R82). Each 1 µs an unacknowledged training or lane-control record is sent again. -/
  | trainingResend (lp : Fin 2048)
  /-- TRAINING_TIMEOUT (R82). Training not reaching ACTIVE within 500 µs of FEC_ALIGN sends the link to HOLDOFF with reason TIMEOUT. -/
  | trainingTimeout (lp : Fin 2048)
  /-- FEC_ALIGN_TIMEOUT (R82). A port still in FEC_ALIGN after 100 µs goes to HOLDOFF with reason FEC_NO_LOCK. -/
  | fecAlignTimeout (lp : Fin 2048)
  /-- HEARTBEAT_TIMEOUT (R85). A lane without a valid group for 2 µs takes its ACTIVE port to HOLDOFF and propagates the loss. -/
  | heartbeatTimeout (lp : Fin 2048)
  /-- HOLDOFF_END (R487). After 1 ms of HOLDOFF the port goes to DOWN. -/
  | holdoffEnd (lp : Fin 2048)
  /-- LEAVE_DOWN (R487). A DOWN port that is enabled, allowed to leave and has all lanes locked starts training at FEC_ALIGN. -/
  | leaveDown (lp : Fin 2048)
  /-- LNK_CTRL_DOWN (R86). PLN_LNK_CTRL.down sends 16 LINK_DOWN records and takes the port down with ADMIN_DOWN. -/
  | lnkCtrlDown (who : Partner) (lp : Fin 2048)
  /-- LNK_CTRL_RETRAIN (R487). PLN_LNK_CTRL.retrain takes an enabled port from DOWN or ACTIVE to FEC_ALIGN. -/
  | lnkCtrlRetrain (who : Partner) (lp : Fin 2048)
  /-- CLR_COUNTERS (R92). A clr_counters bit of a block clears that block's counters. -/
  | clrCounters (who : Partner) (off : Nat)
  /-- ETH_FRAME_HEAD (R109). An Ethernet frame head is checked, metered, fixed in length and routed or bridged to a next-hop group. -/
  | ethFrameHead (lp : Fin 2048) (head : List Byte)
  /-- ETH_FRAME_END (R89). The end of an Ethernet frame is checked for FCS and length, and the frame is dropped, inverted or aborted if bad. -/
  | ethFrameEnd (lp : Fin 2048) (rest : List Byte)
  /-- PCS_ALIGNED (R87). An Ethernet-framed port's PCS gains alignment and the port is up. -/
  | pcsAligned (lp : Fin 2048)
  /-- PCS_ALIGN_LOST (R117). An Ethernet-framed port's PCS loses alignment and the port leaves service. -/
  | pcsAlignLost (lp : Fin 2048)
  /-- HEAD_LOOKUP (R94). A native packet head is checked, consumed, dropped or forwarded through the decisions of Table 4-1. -/
  | headLookup (lp : Fin 2048) (vc : Fin 8)
  /-- GEN_DRAIN_END (R112). When drain_left reaches 0 the draining generation becomes IDLE. -/
  | genDrainEnd (die : Fin 8)
  /-- REJOIN (R119). After the rejoin hold of continuous service the port's live bit is set and a PORT_REJOIN record written. -/
  | rejoin (lp : Fin 2048)
  /-- FLUSH_FLOWLETS (R106). PLN_FWD_CTRL.flush_flowlets clears the pipeline's flowlet table. -/
  | flushFlowlets (who : Partner) (pl : Fin 64)
  /-- TAP_READ (R131). A TAP READ returns the key and contents of a slot. -/
  | tapRead (who : Partner) (tap : Fin 9) (cmd : Word)
  /-- TAP_WRITE (R131). A TAP WRITE writes an indexed table slot, or queues it on the broadcast TAP. -/
  | tapWrite (who : Partner) (tap : Fin 9) (cmd : Word)
  /-- TAP_INSERT (R138). A TAP INSERT places a key and data in a keyed table, or queues it on the broadcast TAP. -/
  | tapInsert (who : Partner) (tap : Fin 9) (cmd : Word)
  /-- TAP_DELETE (R131). A TAP DELETE removes the entry with the given key. -/
  | tapDelete (who : Partner) (tap : Fin 9) (cmd : Word)
  /-- TAP_SEARCH (R131). A TAP SEARCH finds an exact key and returns its contents. -/
  | tapSearch (who : Partner) (tap : Fin 9) (cmd : Word)
  /-- TAP_AGE_SCAN (R142). A TAP AGE_SCAN removes expired learned LET entries over a slot range. -/
  | tapAgeScan (who : Partner) (tap : Fin 9) (cmd : Word)
  /-- TAP_FLUSH (R132). A TAP FLUSH invalidates a slot range matching the filter. -/
  | tapFlush (who : Partner) (tap : Fin 9) (cmd : Word)
  /-- TAP_BAD_OP (R131). A TAP command with op 7–15 is refused with BAD_OP. -/
  | tapBadOp (who : Partner) (tap : Fin 9) (cmd : Word)
  /-- TAP_DONE (R133). A running TAP operation ends, clearing busy and setting done and err. -/
  | tapDone (tap : Fin 9)
  /-- TABLE_SCRUB (R127). The die scrubber reads a table entry and handles any bad entry found. -/
  | tableScrub (die : Fin 8) (table : Fin 13) (gen : Fin 2) (pipe : Fin 8) (idx : Nat) (upset : Bool)
  /-- LET_AGER (R142). The background ager visits a LET slot and removes it if expired. -/
  | letAger (pl : Fin 64) (slot : Nat)
  /-- LEARN_INSERT (R145). A pending insertion from the learn queue is placed in the LET or fails. -/
  | learnInsert (pl : Fin 64)
  /-- LET_CACHE_FILL (R143). A LET lookup that missed the on-die cache completes from HBM and the entry is cached. -/
  | letCacheFill (lp : Fin 2048)
  /-- ADMISSION_RECHECK (R157). Every 8 cycles a waiting lossless head's admission check is repeated. -/
  | admissionRecheck (lp : Fin 2048) (vc : Fin 8)
  /-- SCHEDULER_SELECT (R190). When a port's VC slot is empty the scheduler selects the next ready packet and charges the shapers. -/
  | schedulerSelect (lp : Fin 2048) (vc : Fin 6)
  /-- CELL_TRANSMIT (R166). An egress port sends the next cell of a VC's slot packet, or a null cell, and finishes copies at the tail. -/
  | cellTransmit (lp : Fin 2048) (way : Crossing)
  /-- DEPTH_EXCHANGE (R160). Every 64 switch cycles each die sends its egress queue depths to every other die. -/
  | depthExchange
  /-- CONG_ECHO (R175). A CONG_ECHO for the device creates or lowers the rate limiter of the named flow. -/
  | congEcho (lp : Fin 2048) (p : Pkt)
  /-- ECHO_INTERVAL (R174). At the end of the coalescing interval the device sends the CONG_ECHO covering marked packets. -/
  | echoInterval (die : Fin 8)
  /-- LIMITER_INCREASE (R175). After ai_bells bells without an echo a limiter's rate rises by ai_step and is freed at port rate. -/
  | limiterIncrease (die : Fin 8) (i : Nat)
  /-- SPILL_WRITE (R176). Once its tail has arrived a spilled packet is written to the spill region and its stage cells freed. -/
  | spillWrite (die : Fin 8) (pid : Nat)
  /-- SPILL_READBACK (R176). A spilled packet nearing the front of its queue is read back into the spill stage. -/
  | spillReadback (die : Fin 8) (pid : Nat)
  /-- MESH_FENCE (R168). A mesh link failing retraining three times is fenced and its traffic relayed. -/
  | meshFence (die : Fin 8) (peer : Fin 8)
  /-- D2D_RETRAIN (R183). A D2D_CTRL retrain bit retrains the link to a peer die and clears its fence on success. -/
  | d2dRetrain (who : Partner) (die : Fin 8) (mask : Word) (ok : Nat)
  /-- COLL_UP (R246). A contribution is checked, refused, discarded or accepted into a slot, or forwarded for gather and broadcast. -/
  | collUp (lp : Fin 2048) (p : UpPacket)
  /-- CHUNK_CLOSE (R248). When every child has contributed the chunk is rounded once and sent up or down. -/
  | chunkClose (g : Fin 8192) (seq : Nat) (chunk : Nat) (bad : SlotFault)
  /-- COLL_DOWN (R249). A COLL_DOWN from the parent is accepted and forwarded to the named children, or discarded. -/
  | collDown (lp : Fin 2048) (p : Pkt)
  /-- COLL_ABORT (R254). A COLL_ABORT from an endpoint child ends the group's armed operations. -/
  | collAbort (lp : Fin 2048) (p : Pkt)
  /-- FAULT_BEACON (R398). A FAULT_BEACON from a chip neighbour ends the group's operations or is discarded. -/
  | faultBeacon (lp : Fin 2048) (p : Pkt)
  /-- SKEW_TIMEOUT (R256). An open chunk not closed within skew_to ends the group with cause SKEW and the missing bitmap. -/
  | skewTimeout (g : Fin 8192) (seq : Nat) (chunk : Nat)
  /-- GROUP_ACTIVATE (R237). GROUP_ACTIVATE checks a group and reserves its slots, making it RESIDENT. -/
  | groupActivate (ring : Fin 16384) (host : HostData)
  /-- GROUP_DEACTIVATE (R237). GROUP_DEACTIVATE frees a group's slots and makes it DORMANT. -/
  | groupDeactivate (ring : Fin 16384) (host : HostData)
  /-- COLLECTIVE_DESCRIPTOR (R240). A collective descriptor is checked and armed with the next sequence number, or completes INVALID. -/
  | collectiveDescriptor (ring : Fin 16384) (host : HostData)
  /-- COLLECTIVE_ARM (R242). When the older operation has finished every chunk the next collective descriptor is armed. -/
  | collectiveArm (g : Fin 8192) (host : HostData)
  /-- EMB_LOOKUP (R264). A lookup is checked, admitted and bound to a slot, and its rows are gathered. -/
  | embLookup (lp : Fin 2048) (p : Pkt)
  /-- LOOKUP_COMPLETE (R267). When the last row is added the pooled result is formed and sent as EMB_RESULT or EMB_NAK. -/
  | lookupComplete (die : Fin 8) (i : Nat) (bad : SlotFault)
  /-- EMB_ADD (R274). An EMB_UPDATE ADD is checked on the home die and its gradients staged as integer sums. -/
  | embAdd (lp : Fin 2048) (p : Pkt)
  /-- EMB_UPDATE_COMMIT (R275). An EMB_UPDATE COMMIT starts applying every staged entry of the open batch. -/
  | embUpdateCommit (lp : Fin 2048) (p : Pkt)
  /-- EMB_DISCARD (R276). An EMB_UPDATE DISCARD clears every entry of the batch and answers EMB_ACK. -/
  | embDiscard (lp : Fin 2048) (p : Pkt)
  /-- COMMIT_DONE (R276). A commit pass ends, returning the batch to IDLE with EMB_ACK or to OPEN with EMB_NAK. -/
  | commitDone (table : Fin 4096)
  /-- SNAPSHOT (R279). A SNAPSHOT ring command starts copying a table to its snapshot region. -/
  | snapshot (ring : Fin 16384) (host : HostData)
  /-- SNAPSHOT_GRANULE (R279). A 64 KiB snapshot granule is copied, and the last one makes the snapshot VALID. -/
  | snapshotGranule (table : Fin 4096)
  /-- MIRROR_GRANULE (R280). A snapshot granule is sent as MSG_PUT packets to the mirror, and the last makes it MIRRORED. -/
  | mirrorGranule (table : Fin 4096)
  /-- RESTORE (R281). A RESTORE ring command starts copying the snapshot back to the table. -/
  | restore (ring : Fin 16384) (host : HostData)
  /-- EMB_COMMIT (R277). An EMB_COMMIT ring descriptor acts as a COMMIT packet and completes with a ring status. -/
  | embCommit (ring : Fin 16384) (host : HostData)
  /-- MEM_RD (R294). A MEM_RD is checked, translated and queued at its performing unit. -/
  | memRd (lp : Fin 2048) (p : Pkt)
  /-- MEM_RD_NARROW (R294). A MEM_RD_NARROW is checked, translated and queued at its performing unit. -/
  | memRdNarrow (lp : Fin 2048) (p : Pkt)
  /-- MEM_WR (R294). A MEM_WR is checked, translated and queued, possibly absorbing earlier stores. -/
  | memWr (lp : Fin 2048) (p : Pkt)
  /-- MEM_WR_NARROW (R294). A MEM_WR_NARROW is checked, translated and queued. -/
  | memWrNarrow (lp : Fin 2048) (p : Pkt)
  /-- MEM_ATOMIC (R295). A MEM_ATOMIC is checked, translated and queued. -/
  | memAtomic (lp : Fin 2048) (p : Pkt)
  /-- MEM_RED (R295). A MEM_RED is checked, translated and queued without an answer. -/
  | memRed (lp : Fin 2048) (p : Pkt)
  /-- MEM_FENCE (R305). A MEM_FENCE is held until every earlier request of its source is performed. -/
  | memFence (lp : Fin 2048) (p : Pkt)
  /-- MEM_RSP_DATA (R301). A peer's MEM_RSP_DATA is matched by tag and relayed to the requester. -/
  | memRspData (lp : Fin 2048) (p : Pkt)
  /-- MEM_RSP_DONE (R301). A peer's MEM_RSP_DONE is matched by tag and relayed, except for MEM_RED. -/
  | memRspDone (lp : Fin 2048) (p : Pkt)
  /-- MEM_NAK (R301). A peer's MEM_NAK is matched by tag and relayed to the requester. -/
  | memNak (lp : Fin 2048) (p : Pkt)
  /-- MEM_ACCESS_DONE (R306). An HBM access for a request completes and the request is answered. -/
  | memAccessDone (die : Fin 8) (i : Nat) (upset : Fin 3)
  /-- COMBINE_ISSUE (R308). When a combine-mode line becomes free its queue head is issued with its combined run. -/
  | combineIssue (die : Fin 8) (line : Nat)
  /-- ORDER_HOLD_RELEASE (R305). A head held for release, fence or acquire order is released once the requests it waits for are performed. -/
  | orderHoldRelease (die : Fin 8)
  /-- MEM_PEER_TIMEOUT (R301). An unanswered peer entry is answered MEM_NAK(LINK_DOWN, TIMEOUT) and quarantined. -/
  | memPeerTimeout (die : Fin 8) (i : Nat)
  /-- QUARANTINE_END (R301). After one further timeout period a timed-out pending entry may be reused. -/
  | quarantineEnd (die : Fin 8) (i : Nat)
  /-- PATROL_SCRUB (R328). The patrol scrubber reads a 32-byte block and handles any error found. -/
  | patrolScrub (hs : Fin 32) (block : Nat) (upset : Fin 3) (last : Bool)
  /-- HBM_TEMP_READ (R329). A stack temperature reading may change its thermal level, refresh and paused classes. -/
  | hbmTempRead (hs : Fin 32) (temp : Fin 256)
  /-- STACK_TRAINING_DONE (R332). Full training of a stack ends, making it ACTIVE with its size or FENCED. -/
  | stackTrainingDone (hs : Fin 32) (bad : List Nat) (spares : Nat)
  /-- CHANNEL_FAIL (R334). Too many parity errors or CRC retries within a bell fence the stack. -/
  | channelFail (hs : Fin 32) (found : ChannelErrs)
  /-- HBM_FENCE (R335). HBM_CTRL.fence fences an ACTIVE stack with reason SOFTWARE. -/
  | hbmFence (who : Partner) (hs : Fin 32)
  /-- HBM_RETRAIN (R332). HBM_CTRL.retrain starts full training of the stack, losing its contents. -/
  | hbmRetrain (who : Partner) (hs : Fin 32)
  /-- RNG_DB_SQ (R347). An SQ doorbell posts, withdraws or exits a loop, or is rejected. -/
  | rngDbSq (who : Partner) (ring : Fin 16384) (w : Word)
  /-- RNG_DB_CQ (R347). A CQ doorbell advances cq_head, freeing completion entries. -/
  | rngDbCq (who : Partner) (ring : Fin 16384) (w : Word)
  /-- SUSPEND (R354). SUSPEND takes an ACTIVE ring to SUSPENDING. -/
  | suspend (who : Partner) (ring : Fin 16384)
  /-- RESUME (R356). RESUME continues a held descriptor, or the next one from ERROR. -/
  | resume (who : Partner) (ring : Fin 16384)
  /-- CANCEL (R357). CANCEL ends the current descriptor with CANCELLED, skipping the others when all = 1. -/
  | cancel (who : Partner) (ring : Fin 16384) (all : Bool)
  /-- CTRL_UNKNOWN (R347). A control doorbell with an unlisted cmd is ignored and counted. -/
  | ctrlUnknown (who : Partner) (ring : Fin 16384) (w : Word)
  /-- RING_DOORBELL (R348). A RING_DOORBELL packet is checked and applies its doorbell word. -/
  | ringDoorbell (lp : Fin 2048) (p : Pkt)
  /-- COPY (R351). A COPY descriptor starts moving bytes between spaces. -/
  | copy (ring : Fin 16384) (host : HostData)
  /-- FILL (R351). A FILL descriptor starts writing a repeated pattern. -/
  | fill (ring : Fin 16384) (host : HostData)
  /-- CHECKSUM (R351). A CHECKSUM descriptor starts computing CRC-32C over a range. -/
  | checksum (ring : Fin 16384) (host : HostData)
  /-- TABLE_LOAD (R350). A TABLE_LOAD descriptor starts issuing TAP records. -/
  | tableLoad (ring : Fin 16384) (host : HostData)
  /-- SCRUB (R351). A SCRUB descriptor starts zeroing a range. -/
  | scrub (ring : Fin 16384) (host : HostData)
  /-- IMAGE_STAGE (R422). An IMAGE_STAGE descriptor starts writing the staging area. -/
  | imageStage (ring : Fin 16384) (host : HostData)
  /-- PATTERN_RUN (R406). A PATTERN_RUN descriptor runs a pattern pack on the Sentinels. -/
  | patternRun (ring : Fin 16384) (host : HostData) (run : PackRun)
  /-- INVALID_DESCRIPTOR (R351). A descriptor of reserved kind completes at once with INVALID. -/
  | invalidDescriptor (ring : Fin 16384) (host : HostData)
  /-- PROGRESS_UNIT_DONE (R354). A progress unit ends, advancing the descriptor, or suspending or faulting the ring. -/
  | progressUnitDone (ring : Fin 16384) (host : HostData)
  /-- MSG_PUT (R358). A MSG_PUT to the device is written in the tenant's pool or discarded. -/
  | msgPut (lp : Fin 2048) (p : Pkt)
  /-- MSG_GET_REQ (R358). A MSG_GET_REQ is answered with data or an ABORT reply. -/
  | msgGetReq (lp : Fin 2048) (p : Pkt)
  /-- MSG_GET_RSP (R358). A MSG_GET_RSP is matched to an outstanding get and written, faulted or discarded. -/
  | msgGetRsp (lp : Fin 2048) (p : Pkt) (abort : Bool)
  /-- GET_TIMEOUT (R358). An outstanding get without a reply within get_timeout faults its unit with REMOTE. -/
  | getTimeout (die : Fin 8) (slot : Nat)
  /-- HUB_RECLAIM_START (R361). HUB_RECLAIM_CMD start requests the reclaim of a tenant at the next bell. -/
  | hubReclaimStart (who : Partner) (w : Word)
  /-- RECLAIM_QUIESCE_BOUND (R361). At b + 50 µs open PEER requests are answered PREEMPTED. -/
  | reclaimQuiesceBound
  /-- RECLAIM_DRAIN_BOUND (R361). At b + 200 µs units still waiting on a host are abandoned and scrub or DONE follows. -/
  | reclaimDrainBound
  /-- RECLAIM_SCRUB_DONE (R361). The tenant scrub ends, busy clears and a NOTICE record and MSI-X follow. -/
  | reclaimScrubDone
  /-- HUB_RECLAIM_REL (R363). A write of HUB_RECLAIM_REL clears reclaimed on every ring of the tenant. -/
  | hubReclaimRel (who : Partner) (w : Word)
  /-- ELS_FAULT (R369). An enabled laser module faults and fibres using it switch source or go dark. -/
  | elsFault (m : Fin 32) (status : Fin 256)
  /-- SOURCE_READY (R369). A laser module reports ready with all line taps present and serves its fibres. -/
  | sourceReady (m : Fin 32) (tones : Bool)
  /-- ACQUIRE_DONE (R374). A ring's sweep from cold ends at its peak, or finds too few peaks. -/
  | acquireDone (fp : Fin 256) (dir : Fin 2) (lane : Fin 9) (peaks : Nat) (heater : Fin 65536)
  /-- RETUNE_DONE (R374). A ring reaches its stored heater setting and goes to VERIFY. -/
  | retuneDone (fp : Fin 256) (dir : Fin 2) (lane : Fin 9) (found : Bool) (heater : Fin 65536)
  /-- VERIFY_DONE (R376). A ring's line checks complete and it becomes LOCKED or goes DARK. -/
  | verifyDone (fp : Fin 256) (dir : Fin 2) (lane : Fin 9) (tone : Option (Fin 16))
  /-- WRONG_CNT_RESET (R377). After 1 s locked with the port ACTIVE a ring's wrong_cnt returns to 0. -/
  | wrongCntReset (fp : Fin 256) (dir : Fin 2) (lane : Fin 9)
  /-- LOCK_LOSS (R374). Drop power below half for 1 µs sends a LOCKED ring to ACQUIRE. -/
  | lockLoss (fp : Fin 256) (dir : Fin 2) (lane : Fin 9)
  /-- LANTERN_CALIBRATION (R375). Each ring acquires each usable line on each READY source and stores its heater setting. -/
  | lanternCalibration (l : Fin 16) (settings : List Nat)
  /-- MONITOR_READING (R381). A tap monitor integration completes and updates its reading register. -/
  | monitorReading (l : Fin 16) (kind : Fin 3) (i : Nat) (code : Fin 65536)
  /-- MIG_REQ (R383). A received MIG_REQ makes the far end move its receive spare and answer READY or ABORT. -/
  | migReq (lp : Fin 2048) (pos : Fin 8) (bell : Nat) (recSeq : Fin 256)
  /-- MIG_READY (R383). A received MIG_READY lets dual sending begin at the switch bell. -/
  | migReady (lp : Fin 2048) (recSeq : Fin 256)
  /-- MIG_DONE (R383). A received MIG_DONE lets the near end park its lane. -/
  | migDone (lp : Fin 2048) (recSeq : Fin 256)
  /-- MIG_ABORT (R383). A received MIG_ABORT ends the migration and keeps the lane. -/
  | migAbort (lp : Fin 2048) (r : AbortRec)
  /-- SPARE_MAP (R378). A received SPARE_MAP announces a spare substitution in training. -/
  | spareMap (lp : Fin 2048) (dir : Fin 2) (pos : Fin 8) (recSeq : Fin 256)
  /-- HOLD (R380). A received HOLD suspends the heartbeat for the named interval. -/
  | hold (lp : Fin 2048) (bell : Nat) (dur : Nat) (recSeq : Fin 256)
  /-- MIG_DONE_TIMEOUT (R383). Without MIG_DONE after done_wait bells the migration is aborted. -/
  | migDoneTimeout (fp : Fin 256)
  /-- MIG_RETRY (R383). 1,024 bells after an abort the migration is tried again. -/
  | migRetry (fp : Fin 256)
  /-- LAN_UNSPARE (R384). LAN_FIB_CTRL.unspare runs the migration back to the original lane. -/
  | lanUnspare (who : Partner) (fp : Fin 256)
  /-- LAN_UNFENCE (R378). LAN_FIB_CTRL.unfence clears fenced rings at the fibre's next retrain. -/
  | lanUnfence (who : Partner) (fp : Fin 256)
  /-- EYE_RX_LOSS (R386). Receive signal lost for 10 µs closes the shutter to Class 1 within 50 µs. -/
  | eyeRxLoss (fp : Fin 256)
  /-- PROBE (R387). A Class 1 probe pulse is sent on a fibre in PROBE. -/
  | probe (fp : Fin 256)
  /-- PROBE_RECEIVED (R387). A valid probe sets seen, and one with seen = 1 opens the fibre. -/
  | probeReceived (fp : Fin 256) (seen : Bool)
  /-- TILE_WDT (R389). A tile idle with work pending for the limit is reset with TILE_WDT. -/
  | tileWdt (ct : Fin 64)
  /-- RING_WDT (R389). A ring descriptor active beyond age_ms is reported or cancelled. -/
  | ringWdt (ring : Fin 16384)
  /-- HEAD_STALL (R389). A lossless head waiting beyond stall_us is reported or its port retrained. -/
  | headStall (lp : Fin 2048) (vc : Fin 8)
  /-- BELFRY_WDT (R389). Belfry not petting its watchdog is reset, escalating after three trips. -/
  | belfryWdt
  /-- HUB_BWDT_PET (R390). A Belfry write of HUB_BWDT_PET restarts the Belfry watchdog. -/
  | hubBwdtPet (who : Partner)
  /-- TILE_RESET (R392). A reset of one tile's slots and pipeline. -/
  | tileReset (who : Partner) (ct : Fin 64) (capture : Bool)
  /-- DIE_COMPUTE_RESET (R393). A reset of a die's compute engines, after capture, ending work in flight. -/
  | dieComputeReset (who : Partner) (die : Fin 8) (capture : Bool)
  /-- BELFRY_RESET (R392). A reset of the Belfry processor, the data path continuing. -/
  | belfryReset (who : Partner) (capture : Bool)
  /-- LOGICAL_PORT_RESET (R392). A reset of one logical port's link state. -/
  | logicalPortReset (who : Partner) (lp : Fin 2048) (capture : Bool)
  /-- FIBRE_PORT_RESET (R392). A reset of every logical port of a fibre, rings relocking by RETUNE. -/
  | fibrePortReset (who : Partner) (fp : Fin 256) (capture : Bool)
  /-- HBM_STACK_RESET (R392). A reset retraining one HBM stack. -/
  | hbmStackReset (who : Partner) (hs : Fin 32) (capture : Bool)
  /-- DATA_PATH_RESET (R392). A reset of the whole data path after capture, reapplying the image. -/
  | dataPathReset (who : Partner) (capture : Bool)
  /-- WARM_CHIP_RESET (R392). A reset of everything but HBM contents, the record store and kept state, rerunning boot. -/
  | warmChipReset (who : Partner) (capture : Bool)
  /-- COLD_RESET (R392). A power-cycle reset of the device. -/
  | coldReset (who : Partner) (capture : Bool)
  /-- RESET_DONE (R392). A reset sequence completes and its domain serves again. -/
  | resetDone (dom : Fin 10) (target : Nat)
  /-- ESCALATION (R395). A domain not quiet within its bound escalates to the next larger reset. -/
  | escalation (dom : Fin 10) (target : Nat)
  /-- CAPTURE_DONE (R396). A capture ends or hits its 200 µs bound, a summary record is written and the reset follows. -/
  | captureDone (dom : Fin 10) (target : Nat) (sections : Fin 512)
  /-- CAPTURE_RELEASE (R397). HUB_CAP_CTRL.release frees a held capture. -/
  | captureRelease (who : Partner)
  /-- SENTINEL_ROTATION (R399). At each 2^20-bell boundary the Sentinel role moves to the next eligible tile. -/
  | sentinelRotation
  /-- CUP_SEN_ROTATE (R399). CUP_SEN_CTRL.rotate moves the Sentinel role at the next bell. -/
  | cupSenRotate (who : Partner) (die : Fin 8)
  /-- SENTINEL_COMPARE (R401). Both results of a sampled chunk are compared and a mismatch recorded and replayed. -/
  | sentinelCompare (die : Fin 8) (k : Fin 8) (bad : SlotFault) (temp : Nat) (mv : Nat) (load : Nat)
  /-- SENTINEL_REPLAY (R402). A replay of retained inputs completes and the mismatch may be classified. -/
  | sentinelReplay (die : Fin 8) (k : Fin 8) (bad : SlotFault)
  /-- REPLAY_WAIT_TIMEOUT (R402). A replay without a free slot within replay_wait bells makes the outcome UNRESOLVED. -/
  | replayWaitTimeout (die : Fin 8) (k : Fin 8)
  /-- FENCE_CMD (R404). HUB_FENCE_CMD FENCE fences a named tile at the next bell. -/
  | fenceCmd (who : Partner) (ct : Fin 64)
  /-- UNFENCE_CMD (R405). HUB_FENCE_CMD UNFENCE removes a tile from the device fence log. -/
  | unfenceCmd (who : Partner) (ct : Fin 64)
  /-- FENCE_LOG_WRITE (R404). Belfry writes a fenced tile into the flash fence log. -/
  | fenceLogWrite (ct : Fin 64) (ok : Bool)
  /-- IDLE_PATTERN (R406). A serving tile idle for a bell runs pattern vectors in a free slot. -/
  | idlePattern (ct : Fin 64) (run : IdleRun)
  /-- POWER_GOOD (R416). PWR_GOOD rises, straps are sampled and the boot ROM checks the image. -/
  | powerGood (p : PowerUp)
  /-- PWR_GOOD_DEASSERT (R454). PWR_GOOD falling stops the device at once as at a cold reset. -/
  | pwrGoodDeassert
  /-- SECTION_STREAM (R416). Belfry streams, hashes and applies a PRELOAD, PATTERN or FENCE section. -/
  | sectionStream
  /-- LINKS_DIE_ENABLE (R420). At 400 + 25n ms die n's ports are enabled in one commit. -/
  | linksDieEnable (die : Fin 8)
  /-- FIBRE_OPEN_STEP (R420). Every 0.5 ms the next fibre of a die leaves eye state CLOSED. -/
  | fibreOpenStep (die : Fin 8)
  /-- FORWARD_ENTRY (R419). The device enters FORWARD and returns credits. -/
  | forwardEntry
  /-- READY_ENTRY (R419). The device enters READY once every engine has opened. -/
  | readyEntry (ms : Nat)
  /-- VERIFY (R422). SEC_UPD_CMD VERIFY checks the staged image. -/
  | verify (who : Partner) (len : Nat)
  /-- VERIFY_WRITE (R422). SEC_UPD_CMD VERIFY_WRITE checks and writes the staged image to flash. -/
  | verifyWrite (who : Partner) (len : Nat)
  /-- PROVISION (R418). SEC_UPD_CMD PROVISION replaces the operator key and writes its image. -/
  | provision (who : Partner) (len : Nat)
  /-- RECOVER_NEXT (R422). SEC_UPD_CMD RECOVER_NEXT makes the next reset enter the Recovery Service. -/
  | recoverNext (who : Partner)
  /-- UPDATE_DONE (R423). An update operation ends with its result and busy clears. -/
  | updateDone (fail : Bool)
  /-- MGMT_MCTP (R426). An in-band MGMT_MCTP packet is queued for Belfry or discarded. -/
  | mgmtMctp (lp : Fin 2048) (p : Pkt)
  /-- HUB_MBX_CMD (R430). A mailbox go passes the request message to Belfry. -/
  | hubMbxCmd (who : Partner) (half : Fin 2) (w : Word)
  /-- MBX_RESPONSE (R430). Belfry's answer is written, done is set and MSI-X sent. -/
  | mbxResponse (half : Fin 2) (msg : List Byte)
  /-- MBX_TIMEOUT (R430). A mailbox exchange unanswered in 1 s, or cut by a Belfry reset, ends with TIMEOUT. -/
  | mbxTimeout (half : Fin 2)
  /-- MCTP_CONTROL (R426). An MCTP control message is served by Belfry. -/
  | mctpControl (ch : Channel)
  /-- PLDM_REQUEST (R421). A PLDM request is served or answered ERROR_NOT_READY. -/
  | pldmRequest (ch : Channel) (sensor : Bool)
  /-- VENDOR_DEFINED_MESSAGE (R426). A vendor-defined MCTP message is executed only in an authorised session or for the owner. -/
  | vendorDefinedMessage (ch : Channel) (ops : List VdmOp)
  /-- GET_VERSION (R425). SPDM GET_VERSION is answered. -/
  | getVersion (ch : Channel)
  /-- GET_CAPABILITIES (R425). SPDM GET_CAPABILITIES is answered. -/
  | getCapabilities (ch : Channel)
  /-- NEGOTIATE_ALGORITHMS (R425). SPDM NEGOTIATE_ALGORITHMS is answered. -/
  | negotiateAlgorithms (ch : Channel) (supported : Bool)
  /-- GET_DIGESTS (R425). SPDM GET_DIGESTS is answered. -/
  | getDigests (ch : Channel) (slot : Nat)
  /-- GET_CERTIFICATE (R425). SPDM GET_CERTIFICATE returns the chain of slot 0, or an error on id_fault. -/
  | getCertificate (ch : Channel) (slot : Nat)
  /-- CHALLENGE (R425). SPDM CHALLENGE is answered with a signature. -/
  | challenge (ch : Channel) (slot : Nat)
  /-- GET_MEASUREMENTS (R425). SPDM GET_MEASUREMENTS returns the digests of Table 16-11. -/
  | getMeasurements (ch : Channel) (index : Nat)
  /-- KEY_EXCHANGE (R425). SPDM KEY_EXCHANGE starts a secured session. -/
  | keyExchange (ch : Channel)
  /-- FINISH (R425). SPDM FINISH completes a secured session. -/
  | finish (ch : Channel) (ok : Bool) (operator : Bool)
  /-- HEARTBEAT (R425). SPDM HEARTBEAT keeps a session alive. -/
  | heartbeat (ch : Channel)
  /-- KEY_UPDATE (R425). SPDM KEY_UPDATE updates session keys. -/
  | keyUpdate (ch : Channel)
  /-- END_SESSION (R425). SPDM END_SESSION closes a session. -/
  | endSession (ch : Channel)
  /-- CLAIM (R472). HUB_OWN CLAIM takes or renews ownership, or sets claim_fail. -/
  | claim (who : Partner) (token : Fin 65536)
  /-- RELEASE (R472). HUB_OWN RELEASE with the matching token frees ownership. -/
  | release (who : Partner) (token : Fin 65536)
  /-- FORCE_RELEASE (R472). HUB_OWN FORCE_RELEASE from Belfry frees ownership. -/
  | forceRelease (who : Partner)
  /-- HOST_PORT_RESET (R470). FLR, PERST or Data Link Down resets a host's function, windows, LTR and ownership and faults its transfers. -/
  | hostPortReset (h : Fin 2) (down : Bool)
  /-- BAR4_READ (R468). A host read of BAR4 reads HBM through the host's window. -/
  | bar4Read (h : Fin 2) (off : Nat) (n : Nat)
  /-- BAR4_WRITE (R468). A host write of BAR4 writes HBM through the host's window, or is dropped. -/
  | bar4Write (h : Fin 2) (off : Nat) (data : List Byte) (poisoned : Bool)
  /-- REGISTER_WRITE (R6). A write to a register with no row of its own takes effect by its access type. -/
  | registerWrite (who : Partner) (acc : Access) (v : Word)
  /-- READ_CLEAR (R6). A read of an RC field returns it and clears it for every partner. -/
  | readClear (who : Partner) (acc : Access)
  /-- LOW_HALF_READ (R4). A read of the low half of a 64-bit pair latches the high half for the reading partner. -/
  | lowHalfRead (who : Partner) (acc : Access)
  /-- MSIX_UNMASK (R469). Unmasking a vector with its pending bit set sends its message. -/
  | msixUnmask (h : Fin 2) (vec : Fin 2048)
  /-- RESET_N (R479). RESET_N asserted for 1 µs starts a warm chip reset with cause PIN. -/
  | resetN
  /-- SYSCLK_LOST (R480). SYSCLK absent for 1 µs sets sysclk_lost and enters PROTECT. -/
  | sysclkLost
  /-- RECORD_WRITE (R436). The recorder takes a queued event and writes it as a repeat or a new record in a slot. -/
  | recordWrite (origin : Fin 9)
  /-- FLUSH (R439). A flush writes unflushed records to the record store and then its header. -/
  | flush
  /-- FLUSH_MS_EXPIRY (R439). flush_ms after the last flush a new flush starts. -/
  | flushMsExpiry
  /-- EVR_FLUSH (R439). EVR_CTRL.flush starts a flush. -/
  | evrFlush (who : Partner)
  /-- PWR_WARN_N (R440). PWR_WARN_N assertion stops recording and writes the most severe unflushed records. -/
  | pwrWarnN
  /-- PWR_WARN_DEASSERT (R440). PWR_WARN_N deasserting without power loss resumes recording. -/
  | pwrWarnDeassert
  /-- EVR_FIND_SEQ (R438). A write of EVR_FIND_SEQ searches for the slot holding a sequence number. -/
  | evrFindSeq (who : Partner) (v : Word)
  /-- OCU_PEAK_CLR (R448). OCU_PEAK_CLR clears one port's PEAK values. -/
  | ocuPeakClr (who : Partner) (die : Fin 8) (v : Word)
  /-- PEAK_CLR_ALL (R448). OCU_CTRL.peak_clr_all clears every port's PEAK values. -/
  | peakClrAll (who : Partner) (die : Fin 8)
  /-- CLR_FIXED (R453). OCU_CTRL.clr_fixed clears the fixed port counters. -/
  | clrFixed (who : Partner) (die : Fin 8)
  /-- CLR_PROG (R453). OCU_CTRL.clr_prog clears programmable counters, snapshots and OVF. -/
  | clrProg (who : Partner) (die : Fin 8)
  /-- UNIT_WAKE (R460). A demand or tighter tolerance starts a unit's exit from its power state. -/
  | unitWake (unit : PwrUnit)
  /-- UNIT_EXIT_DONE (R456). A waking unit completes its exit and serves. -/
  | unitExitDone (unit : PwrUnit) (ok : Bool)
  /-- LAT_TOL (R459). A LAT_TOL packet sets the tolerance of its arrival port. -/
  | latTol (lp : Fin 2048) (p : Pkt)
  /-- HOST_LTR (R458). A host's LTR setting changes the service tolerance. -/
  | hostLtr (h : Fin 2) (ns : Nat)
  /-- THERMAL_SENSOR_READ (R463). A thermal sensor reading is compared with the Guard's fixed limits. -/
  | thermalSensorRead (k : Fin 96) (temp : Int)
  /-- RAIL_FAULT (R455). A rail out of range for 1 µs latches its fault and enters PROTECT. -/
  | railFault (r : Fin 42) (mv : Fin 65536)
  /-- COLL_NAK (R20). A COLL_NAK arrives from the parent chip, refusing a COLL_UP that this chip sent up the tree, and is consumed by the collective engine of the die holding the group context. -/
  | collNak (lp : Fin 2048) (p : Pkt)
  /-- MODULE_ABSENT (R369). CMIS finds no laser source module, so the source enters ABSENT and fibres using it switch to the other source or go dark. -/
  | moduleAbsent (m : ModuleScan)
  /-- CONFIGURATION_REQUEST (R421). A PCIe configuration request reaches a host function and is answered with Configuration Request Retry Status before READY, or is served normally, including LTR, MSI-X Enable and BAR4 size settings. -/
  | configurationRequest (h : Fin 2) (r : CfgReq)
  /-- HOST_LINK_UP (R466). A host port's PCIe link completes training and comes up, so ring transfers to that host's space no longer fault with HOST. -/
  | hostLinkUp (h : Fin 2) (rate : Fin 7) (width : Fin 17)
  /-- DYNAMIC_ADDRESS_ASSIGNMENT (R431). The I3C controller assigns the device a dynamic address with ENTDAA, which HUB_I3C_STATUS then shows. -/
  | dynamicAddressAssignment (b : Fin 2) (addr : Fin 128)
deriving DecidableEq, Repr

end Sys2Proof
end

