-- ==== Sys2Proof/Config.lean ====
section
/-! DEFINITION. What the spec leaves open: free values, constants without a body that no proof can look into. -/

namespace Sys2Proof

/-- The n-th free value that the device takes (assumption 1): the undefined bits of a read (00 R6), a choice the
spec leaves to the device (05 R138) or a result it does not state. A use cuts it down to the width it needs. -/
opaque Config.freeNat : Nat → Nat

/-- The Ed25519 public key, as its 32 bytes read least significant first, of the key that the PUF of this one part yields
(16 R417): fixed, and unknown to any proof. -/
opaque Config.pufKey : Nat

/-- The SHA-512 hashes of the four vendor keys in the boot ROM, as numbers whose first byte is the most significant
(16 R416): the spec does not give them. -/
opaque Config.vendorHash : Nat → Nat

/-- The tenant that ingress policy assigns to the Ethernet frames of a logical port (03 R90): the spec names no register
for it (assumption 11). A use reduces it to 0 to 0xFFFE. -/
opaque Config.frameTenant : Nat → Nat

end Sys2Proof
end

