-- ==== Sys2Proof/Machine/Bits.lean ====
section
/-! DEFINITION. Bit fields, byte order and sparse maps: the helpers every chapter's meaning is written with. -/

namespace Sys2Proof.Machine

/-! Bit fields (00_scope.md R2: [msb:lsb], inclusive, bit 0 least significant). -/

/-- Bits [hi:lo] of a number. -/
def bits (n hi lo : Nat) : Nat := n / 2 ^ lo % 2 ^ (hi + 1 - lo)

/-- Bit b of a number. -/
def bit (n b : Nat) : Bool := n / 2 ^ b % 2 == 1

/-- Bits [hi:lo] of a word. -/
def fld (w : Word) (hi lo : Nat) : Nat := bits w.toNat hi lo

/-- Bit b of a word. -/
def wbit (w : Word) (b : Nat) : Bool := bit w.toNat b

/-- A number as a word. -/
def word (n : Nat) : Word := BitVec.ofNat 32 n

/-- The number n with its bits [hi:lo] replaced by the low bits of v. -/
def putBits (n hi lo v : Nat) : Nat :=
  n / 2 ^ (hi + 1) * 2 ^ (hi + 1) + v % 2 ^ (hi + 1 - lo) * 2 ^ lo + n % 2 ^ lo

/-- The word w with its bits [hi:lo] replaced by the low bits of v. -/
def putFld (w : Word) (hi lo v : Nat) : Word := word (putBits w.toNat hi lo v)

/-- A flag as a number. -/
def b2n (b : Bool) : Nat := if b then 1 else 0

/-- The word w with bit b set or cleared. -/
def putBit (w : Word) (b : Nat) (v : Bool) : Word := putFld w b b (b2n v)

/-- A number as a two's complement value of w bits. -/
def toSigned (w n : Nat) : Int :=
  if n % 2 ^ w < 2 ^ (w - 1) then (n % 2 ^ w : Nat) else (n % 2 ^ w : Nat) - (2 ^ w : Nat)

/-- An integer in two's complement of w bits. -/
def ofSigned (w : Nat) (i : Int) : Nat := (i % (2 ^ w : Nat)).toNat

/-! Byte order. -/

/-- The bytes of a number, least significant first (registers, descriptors, payload data: 00_scope.md R2). -/
def toLE : Nat → Nat → List Byte
  | 0, _ => []
  | k + 1, n => BitVec.ofNat 8 n :: toLE k (n / 256)

/-- The number that bytes spell, least significant first. -/
def ofLE : List Byte → Nat
  | [] => 0
  | b :: bs => b.toNat + 256 * ofLE bs

/-- The bytes of a number, most significant first (wire structures: 03_cells_and_links.md R54). -/
def toBE (k n : Nat) : List Byte := (toLE k n).reverse

/-- The number that bytes spell, most significant first. -/
def ofBE (bs : List Byte) : Nat := ofLE bs.reverse

/-- Bytes at offset o, n of them, padded with zeros past the end. -/
def slice (bs : List Byte) (o n : Nat) : List Byte :=
  let t := (bs.drop o).take n
  t ++ List.replicate (n - t.length) 0

/-- A little-endian field of n bytes at offset o. -/
def leAt (bs : List Byte) (o n : Nat) : Nat := ofLE (slice bs o n)

/-- A big-endian field of n bytes at offset o. -/
def beAt (bs : List Byte) (o n : Nat) : Nat := ofBE (slice bs o n)

/-! Sparse maps. -/

/-- The entry of a key. -/
def SMap.find? {α : Type} : SMap α → Nat → Option α
  | [], _ => none
  | (k, v) :: t, i => if i = k then some v else SMap.find? t i

/-- The entry of a key, or the default of the map. -/
def SMap.getD {α : Type} (m : SMap α) (i : Nat) (d : α) : α := (SMap.find? m i).getD d

/-- The map with an entry put at its place. -/
def SMap.insert {α : Type} (i : Nat) (a : α) : SMap α → SMap α
  | [] => [(i, a)]
  | (k, v) :: t =>
    if i < k then (i, a) :: (k, v) :: t
    else if i = k then (i, a) :: t
    else (k, v) :: SMap.insert i a t

/-- The map without the entry of a key. -/
def SMap.erase {α : Type} (m : SMap α) (i : Nat) : SMap α := m.filter (fun e => e.1 != i)

/-- The map with an entry put, or removed where the value is the default: a default is never stored. -/
def SMap.put {α : Type} [DecidableEq α] (m : SMap α) (i : Nat) (d a : α) : SMap α :=
  if a = d then SMap.erase m i else SMap.insert i a m

/-- Whether keys rise strictly. -/
def SMap.rising {α : Type} : SMap α → Bool
  | [] => true
  | [_] => true
  | a :: b :: t => decide (a.1 < b.1) && SMap.rising (b :: t)

/-- The canonical form of a map with default d: keys rise strictly and no entry equals the default. -/
def SMap.canon {α : Type} [DecidableEq α] (m : SMap α) (d : α) : Bool :=
  SMap.rising m && m.all (fun e => decide (e.2 ≠ d))

/-- The entries whose keys are accepted. -/
def SMap.keep {α : Type} (m : SMap α) (p : Nat → Bool) : SMap α := m.filter (fun e => p e.1)

/-- One entry changed by a function of its value or of the default. -/
def SMap.modify {α : Type} [DecidableEq α] (m : SMap α) (i : Nat) (d : α) (f : α → α) : SMap α :=
  SMap.put m i d (f (SMap.getD m i d))

/-! Lists used as queues. -/

/-- The i-th element replaced. -/
def setAt {α : Type} : List α → Nat → α → List α
  | [], _, _ => []
  | _ :: t, 0, a => a :: t
  | x :: t, i + 1, a => x :: setAt t i a

/-- Numbers 0 to n-1. -/
def upto (n : Nat) : List Nat := List.range n

/-- The set bits below n of a mask. -/
def maskBits (n m : Nat) : List Nat := (upto n).filter (fun b => bit m b)

/-- A mask with the bits of a list set. -/
def maskOf (bs : List Nat) : Nat := bs.foldl (fun m b => if bit m b then m else m + 2 ^ b) 0

/-- How many bits below n are set. -/
def popcount (n m : Nat) : Nat := (maskBits n m).length

/-- Bitwise operations on numbers, by the core's own definitions. -/
def andN (a b : Nat) : Nat := a &&& b
def orN (a b : Nat) : Nat := a ||| b
def xorN (a b : Nat) : Nat := a ^^^ b
/-- a with the bits of b cleared. -/
def clearN (a b : Nat) : Nat := a - (a &&& b)

end Sys2Proof.Machine
end

