-- ==== Sys2Proof/Machine/Cupola.lean ====
section
/-! DEFINITION. Cupola arithmetic (08_cupola_arithmetic.md R208 to R226): formats, the exact accumulator in units of
2^-152, rounding and encoding. Nothing here touches the state. -/

namespace Sys2Proof.Machine

/-! Formats (Table 8-2). -/

/-- A float layout: exponent and mantissa bits, bias, and whether the all-ones exponent holds Inf and NaN. -/
structure FloatFmt where
  e : Nat
  m : Nat
  bias : Nat
  ieee : Bool
  /-- S.1..1.1..1 alone is NaN (E4M3). -/
  fnNan : Bool
  /-- The largest finite magnitude is this multiple of 2^(k - m), as (significand, exponent k). -/
  topSig : Nat
  topExp : Int

/-- The layout of a float format's elements; none for integers and MXINT8. -/
def floatFmt : Nat → Option FloatFmt
  | 0 => some ⟨8, 23, 127, true, false, 2 ^ 24 - 1, 127⟩
  | 1 => some ⟨8, 7, 127, true, false, 2 ^ 8 - 1, 127⟩
  | 2 => some ⟨5, 10, 15, true, false, 2 ^ 11 - 1, 15⟩
  | 3 | 5 => some ⟨4, 3, 7, false, true, 14, 8⟩
  | 4 | 6 => some ⟨5, 2, 15, true, false, 7, 15⟩
  | 7 => some ⟨3, 2, 3, false, false, 7, 4⟩
  | 8 => some ⟨2, 3, 1, false, false, 15, 2⟩
  | 9 => some ⟨2, 1, 1, false, false, 3, 2⟩
  | _ => none

def isMx (f : Nat) : Bool := decide (5 ≤ f) && decide (f ≤ 10)
def isInt (f : Nat) : Bool := decide (11 ≤ f) && decide (f ≤ 14)

/-- Bits of one element. -/
def elemBits : Nat → Nat
  | 0 | 13 => 32
  | 1 | 2 | 12 => 16
  | 7 | 8 => 6
  | 9 => 4
  | 14 => 64
  | _ => 8

/-- Bytes of an MX block (R210). -/
def blockBytes (f : Nat) : Nat := 1 + elemBits f * 4

/-- Bytes of n elements; an MX format's last block is whole. -/
def fmtBytes (f n : Nat) : Nat := if isMx f then (n + 31) / 32 * blockBytes f else n * (elemBits f / 8)

/-- emax of an MX scale. -/
def mxEmax : Nat → Int
  | 5 => 8
  | 6 => 15
  | 7 => 4
  | 8 | 9 => 2
  | _ => 0

/-! The control word (R211, R212). -/

def opSum : Nat := 0
def opAvg : Nat := 1
def opMin : Nat := 2
def opMax : Nat := 3

/-- Fields of Table 8-3. -/
def cwOp (w : Nat) : Nat := bits w 31 28
def cwFmt (w : Nat) : Nat := bits w 27 24
def cwCarrier (w : Nat) : Nat :=
  match bits w 23 22 with
  | 1 => 0
  | 2 => 1
  | _ => cwFmt w
def cwDown (w : Nat) : Nat := if bit w 21 then cwCarrier w else cwFmt w
def cwSr (w : Nat) : Bool := bit w 20
def cwE4m3Nan (w : Nat) : Bool := bit w 19
def cwIntSat (w : Nat) : Bool := bit w 18

/-- The conditions of rule R212 that end an operation INVALID. -/
def cwBad (w : Nat) : Bool :=
  decide (6 < cwOp w) || cwFmt w == 15 || bits w 23 22 == 3 || bits w 17 0 != 0 ||
  (decide (4 ≤ cwOp w) && !isInt (cwFmt w)) ||
  (bits w 23 22 == 1 && isInt (cwFmt w)) ||
  (bits w 23 22 == 2 && !(cwFmt w == 3 || cwFmt w == 4 || isMx (cwFmt w)))

/-- A format whose slot may be compact (R216). -/
def compactFmt (f : Nat) : Bool := f == 3 || f == 4 || f == 11

/-- Elements of a format that fit in a packet; 64 blocks for MX. -/
def fmtLimit (f : Nat) : Nat := if isMx f then 2048 else 4096 / (elemBits f / 8)

/-- E, the largest chunk (R208). -/
def chunkLimit (w : Nat) : Nat :=
  let cap := if compactFmt (cwFmt w) && compactFmt (cwCarrier w) then 4096 else 2048
  min cap (min (fmtLimit (cwFmt w)) (min (fmtLimit (cwCarrier w)) (fmtLimit (cwDown w))))

/-! Decoding (R209, R210, R214). -/

/-- The value of an element: units of 2^-152 where finite. -/
inductive Elem where
  | nan
  | inf (neg : Bool)
  | fin (v : Int)
deriving DecidableEq, Repr

/-- A finite magnitude with a sign. -/
def signed (neg : Bool) (n : Nat) : Int := if neg then -(n : Int) else (n : Int)

/-- A float element's bits, its weight scaled by 2^sc. -/
def decodeFloat (f : FloatFmt) (sc : Int) (x : Nat) : Elem :=
  let neg := bit x (f.e + f.m)
  let ex := bits x (f.e + f.m - 1) f.m
  let mant := x % 2 ^ f.m
  if f.ieee && ex == 2 ^ f.e - 1 then (if mant = 0 then .inf neg else .nan)
  else if f.fnNan && ex == 2 ^ f.e - 1 && mant == 2 ^ f.m - 1 then .nan
  else
    let sig := if ex = 0 then mant else 2 ^ f.m + mant
    let sh := (152 : Int) + (max 1 ex : Nat) - f.bias - f.m + sc
    .fin (signed neg (sig * 2 ^ sh.toNat))

/-- One MX element under its scale byte. -/
def decodeMx (f s x : Nat) : Elem :=
  if s = 0xFF then .nan
  else match floatFmt f with
    | some l => decodeFloat l ((s : Int) - 127) x
    | none => .fin (toSigned 8 x * (2 ^ (152 - 6 + s - 127 : Nat) : Nat))

/-- Element i of the packed bits of a block (R210). -/
def packedBits (w i : Nat) (bs : List Byte) : Nat := ofLE bs / 2 ^ (w * i) % 2 ^ w

/-- The 32 elements of a block. -/
def decodeBlock (f : Nat) (b : List Byte) : List Elem :=
  let s := (b.headD 0).toNat
  let n := ofLE b.tail
  (upto 32).map fun i => decodeMx f s (n / 2 ^ (elemBits f * i) % 2 ^ elemBits f)

/-- A list cut into pieces of w. -/
def pieces {α : Type} (w : Nat) : Nat → List α → List (List α)
  | 0, _ => []
  | k + 1, l => l.take w :: pieces w k (l.drop w)

/-- One scalar element of a format. -/
def decodeScalar (f : Nat) (x : Nat) : Elem :=
  match floatFmt f with
  | some l => decodeFloat l 0 x
  | none => .fin (toSigned (elemBits f) x * (2 ^ 152 : Nat))

/-- n elements of a payload. -/
def decodeElems (f n : Nat) (bs : List Byte) : List Elem :=
  if isMx f then ((pieces (blockBytes f) ((n + 31) / 32) bs).flatMap (decodeBlock f)).take n
  else (pieces (elemBits f / 8) n bs).map fun b => decodeScalar f (ofLE b)

/-! The accumulator (R214, R224, R225). -/

/-- One element's accumulator and its flags. AND, OR and XOR hold the pattern in `val`. -/
structure Acc where
  val : Int := 0
  nan : Bool := false
  pinf : Bool := false
  ninf : Bool := false
  fin : Bool := false
deriving DecidableEq, Repr

/-- An element added by an operation. -/
def Acc.add (op w : Nat) (a : Acc) (e : Elem) : Acc :=
  match e with
  | .nan => { a with nan := true }
  | .inf false => { a with pinf := true }
  | .inf true => { a with ninf := true }
  | .fin v =>
    let i := ofSigned w (v.fdiv (2 ^ 152 : Nat))
    let val : Int :=
      match op with
      | 0 | 1 => a.val + v
      | 2 => if a.fin then min a.val v else v
      | 3 => if a.fin then max a.val v else v
      | 4 => if a.fin then (andN a.val.toNat i : Nat) else (i : Nat)
      | 5 => (orN a.val.toNat i : Nat)
      | _ => (xorN a.val.toNat i : Nat)
    { a with val := val, fin := true }

/-! Rounding (R220, R221, R223). -/

/-- num / den rounded at bit u: nearest even, or stochastic with a draw. The result is in units of 2^u. -/
def roundAt (num : Int) (den u : Nat) (draw : Option Nat) : Int :=
  let d : Int := (den * 2 ^ u : Nat)
  let q := num.fdiv d
  let rem := num - q * d
  match draw with
  | none => if d < 2 * rem ∨ (2 * rem = d ∧ q % 2 ≠ 0) then q + 1 else q
  | some r => if ((2 ^ 32 : Nat) : Int) ≤ (rem * (2 ^ 32 : Nat)).fdiv d + r then q + 1 else q

/-- The index of the most significant 1 of |num| / den. -/
def topBit (num : Int) (den : Nat) : Int := (Nat.log2 (num.natAbs * 2 ^ 64 / den) : Nat) - 64

/-- What an encoded result counts as (R220, R222, R225). -/
structure Tally where
  nan : Nat := 0
  inf : Nat := 0
  sat : Nat := 0
  wrap : Nat := 0
  zero : Nat := 0
  nanBlk : Nat := 0
deriving DecidableEq, Repr

def Tally.add (a b : Tally) : Tally :=
  ⟨a.nan + b.nan, a.inf + b.inf, a.sat + b.sat, a.wrap + b.wrap, a.zero + b.zero, a.nanBlk + b.nanBlk⟩

/-- The bits of a finite magnitude of a float layout, w units of 2^-152 scaled by 2^sc. -/
def encodeMag (f : FloatFmt) (sc : Int) (w : Nat) : Nat :=
  let emin : Int := 1 - f.bias
  let k := (Nat.log2 w : Int) - 152 - sc
  if w = 0 then 0
  else if k < emin then w / 2 ^ (152 + emin + sc - f.m).toNat
  else (k + f.bias).toNat * 2 ^ f.m + (w / 2 ^ (Nat.log2 w - f.m) - 2 ^ f.m)

/-- The largest finite magnitude, in units of 2^-152 scaled by 2^sc. -/
def topMag (f : FloatFmt) (sc : Int) : Nat := f.topSig * 2 ^ (152 + f.topExp + sc - f.m).toNat

/-- A nonzero value rounded at the precision of a layout: its magnitude in units of 2^-152. -/
def roundFloat (f : FloatFmt) (sc : Int) (num : Int) (den : Nat) (draw : Option Nat) : Nat :=
  let emin : Int := 1 - f.bias
  let u := (max (topBit num den - f.m) (152 + sc + emin - f.m)).toNat
  (roundAt num den u draw).natAbs * 2 ^ u

/-- A result before encoding (R219, R224). -/
inductive Res where
  | nan
  | inf (neg : Bool)
  | val (num : Int) (den : Nat)

/-- The result of an accumulator, with AVG's divisor at the root (1 elsewhere). -/
def Acc.result (a : Acc) (op den : Nat) : Res :=
  if a.nan then .nan
  else match op with
    | 2 => if a.ninf then .inf true else if a.fin then .val a.val 1 else .inf false
    | 3 => if a.pinf then .inf false else if a.fin then .val a.val 1 else .inf true
    | _ =>
      if a.pinf && a.ninf then .nan
      else if a.pinf then .inf false
      else if a.ninf then .inf true
      else .val a.val (if op = 1 then den else 1)

/-- The canonical NaN of a non-MX float format. -/
def canonNan : Nat → Nat
  | 0 => 0x7FC00000
  | 1 => 0x7FC0
  | 2 => 0x7E00
  | 3 => 0x7F
  | _ => 0x7E

/-- An infinite or overflowing result of a float format (Table 8-4, R220). -/
def overflow (code : Nat) (f : FloatFmt) (neg nanMode : Bool) : Nat × Tally :=
  let s := b2n neg * 2 ^ (f.e + f.m)
  if f.ieee then (s + (2 ^ f.e - 1) * 2 ^ f.m, { inf := 1 })
  else if nanMode then (canonNan code, { nan := 1 })
  else (s + 0x7E, { sat := 1 })

/-- A non-MX float result. -/
def encodeFloat (code : Nat) (f : FloatFmt) (nanMode : Bool) (r : Res) (draw : Option Nat) : Nat × Tally :=
  match r with
  | .nan => (canonNan code, { nan := 1 })
  | .inf neg => overflow code f neg nanMode
  | .val num den =>
    if num = 0 then (0, {})
    else
      let neg := decide (num < 0)
      let w := roundFloat f 0 num den draw
      let s := b2n neg * 2 ^ (f.e + f.m)
      if w = 0 then (s, { zero := 1 })
      else if topMag f 0 < w then overflow code f neg nanMode
      else (s + encodeMag f 0 w, {})

/-- An integer result of w bits (R225). -/
def encodeInt (w op : Nat) (sat : Bool) (r : Res) (draw : Option Nat) : Nat × Tally :=
  match r with
  | .val num den =>
    if 4 ≤ op then (num.toNat % 2 ^ w, {})
    else
      let i := roundAt num den 152 draw
      let lim : Int := (2 ^ (w - 1) : Nat)
      if -lim ≤ i ∧ i < lim then (ofSigned w i, {})
      else if sat then (ofSigned w (if i < 0 then -lim else lim - 1), { sat := 1 })
      else (ofSigned w i, { wrap := 1 })
  | _ => (0, {})

/-- One element of an MX block under scale 2^x (R222): nearest even, saturated. -/
def encodeMxElem (code : Nat) (x : Int) (num : Int) (den : Nat) : Nat × Tally :=
  if num = 0 then (0, {})
  else
    let neg := decide (num < 0)
    match floatFmt code with
    | some f =>
      let w := roundFloat f x num den none
      let s := b2n neg * 2 ^ (f.e + f.m)
      if w = 0 then (s, { zero := 1 })
      else if topMag f x < w then (s + encodeMag f x (topMag f x), { sat := 1 })
      else (s + encodeMag f x w, {})
    | none =>
      let i := roundAt num den (152 - 6 + x).toNat none
      if i = 0 then (0, { zero := 1 })
      else if i > 127 then (127, { sat := 1 })
      else if i < -127 then (ofSigned 8 (-127), { sat := 1 })
      else (ofSigned 8 i, {})

/-- Elements packed w bits each, little-endian. -/
def packElems (w : Nat) (xs : List Nat) : Nat := xs.foldr (fun x n => x + n * 2 ^ w) 0

/-- An MX block of 32 results (R222). -/
def encodeBlock (code : Nat) (rs : List Res) : List Byte × Tally :=
  let n := blockBytes code - 1
  let special := rs.any fun r => match r with
    | .val _ _ => false
    | _ => true
  let vals := rs.filterMap fun r => match r with
    | .val a b => if a = 0 then none else some (topBit a b)
    | _ => none
  if special then ((0xFF : Byte) :: List.replicate n 0, { nanBlk := 1 })
  else match vals with
    | [] => ((0x7F : Byte) :: List.replicate n 0, {})
    | t :: ts =>
      let top := ts.foldl max t - 152
      let x := min 127 (max (-127) (top - mxEmax code))
      let es := rs.map fun r => match r with
        | .val a b => encodeMxElem code x a b
        | _ => (0, {})
      (BitVec.ofNat 8 (x + 127).toNat :: toLE n (packElems (elemBits code) (es.map (·.1))),
       es.foldl (fun t e => t.add e.2) {})

/-- The arithmetic of one rounding: operation, result format, AVG's divisor and the modes. -/
structure RoundCfg where
  op : Nat
  fmt : Nat
  den : Nat
  sr : Bool
  nanMode : Bool
  sat : Bool
deriving DecidableEq, Repr

/-- The payload of a closed chunk (R219 to R225); `draw i` is the stochastic draw of element i. -/
def roundChunk (c : RoundCfg) (accs : List Acc) (draw : Nat → Nat) : List Byte × Tally :=
  if isMx c.fmt then
    ((pieces 32 ((accs.length + 31) / 32) accs).map fun b => encodeBlock c.fmt (b.map fun a => a.result c.op c.den)).foldl
      (fun t b => (t.1 ++ b.1, t.2.add b.2)) ([], {})
  else
    ((upto accs.length).zip accs).foldl (fun t e =>
      let r := e.2.result c.op c.den
      let rnd := if c.sr then some (draw e.1) else none
      let x := match floatFmt c.fmt with
        | some f => encodeFloat c.fmt f c.nanMode r rnd
        | none => encodeInt (elemBits c.fmt) c.op c.sat r rnd
      (t.1 ++ toLE (elemBits c.fmt / 8) x.1, t.2.add x.2)) ([], {})

/-! Stochastic draws (R221). -/

def cupMix (x : Nat) : Nat :=
  let x := xorN x (x / 2 ^ 29)
  let x := x * 0x9B1F4C2D7E35A6C1 % 2 ^ 64
  let x := xorN x (x / 2 ^ 32)
  let x := x * 0xD6E8F3A51B274C93 % 2 ^ 64
  xorN x (x / 2 ^ 29)

/-- sr_draw of a seed, a sequence number and an element index. -/
def srDraw (seed seq idx : Nat) : Nat :=
  let x := cupMix (xorN seed (seq % 2 ^ 32 * 2 ^ 32 + idx % 2 ^ 32))
  cupMix ((x + 0x5C3E8A712D94B0F7) % 2 ^ 64) / 2 ^ 32

end Sys2Proof.Machine
end

