-- ==== Sys2Proof/Machine/Regs.lean ====
section
/-! DEFINITION. Every register of BAR0 (19_host_pins_map.md R483 and the register tables of the chapters): its name,
its place, its access types and its reset value. -/

namespace Sys2Proof.Machine

/-- The registers of BAR0 by name. A register that exists once per die, port or lane is one name with an index;
a 64-bit pair (00_scope.md R4) is two registers, `Lo` and `Hi`. Names that begin `bc` are the broadcast TAP. -/
inductive Reg where
  | timBellLo | timBellHi | timBellCfg | timNowSecLo | timNowSecHi | timNowNs | timNowFrac | timIncLo
  | timIncHi | timStepLo | timStepHi | timCtrl | timStatus | timHoldCfg | timPpsSecLo | timPpsSecHi
  | timPpsNs | timPpsFrac | timPpsCfg | timCmtTgtLo | timCmtTgtHi | timCommit | timCmtCancel
  | timCmtDiscard | timCmtStatus | timCmtErrAddr | timCmtBellLo | timCmtBellHi | timTcSkip | timPtpDrop
  | plnFibCfg | plnLnkCfg | plnLnkEthCfg | plnLnkPcpMap | plnLnkExpIdLo | plnLnkExpIdHi | plnLnkExpPort
  | plnLnkCtrl | plnLnkStatus | plnLnkFarIdLo | plnLnkFarIdHi | plnLnkFarPort | plnLnkCrdAdv
  | plnLnkCrdAvail | plnLnkGrpRxLo | plnLnkGrpRxHi | plnLnkCrcErr | plnLnkFecCorr | plnLnkFecUnc
  | plnLnkReplay | plnLnkNakTx | plnLnkMalformed | plnLnkCrdOvr | plnLnkDownCnt | plnLnkAbortRx
  | plnLnkEthFcs | plnLnkEthOversize | plnLnkEthRunt | plnFwdSelf | plnFwdGen | plnFwdGenStatus
  | plnFwdGenDrain | plnFwdHashSeed | plnFwdSpray | plnFwdFlowlet | plnFwdRejoin | plnFwdRmacLo
  | plnFwdRmacHi | plnFwdDrop | plnFwdCtrl | plnFwdLpCfg | plnFwdLpStatus | plnWdtCfg | plnWdtTrip | tapCmd
  | bcTapCmd | tapStatus | bcTapStatus | tapResult | bcTapResult | tapKey | bcTapKey | tapData | bcTapData
  | tapPerrCnt | tapPerrLoc | tapScrub | tapBcPend | tapBcSeq | tapBcLandErr | plnLetBaseLo | plnLetBaseHi
  | plnLetCfg | plnLetCtrl | plnLetLearned | plnLetMove | plnLetAged | plnLetLimit | plnLetInsFail
  | plnLetLearnOvf | plnLetCacheMiss | plnLetLpCfg | plnLetLpCount | kepCrdPool | kepRsvVc1 | kepRsvVc5
  | kepRsvVc6 | kepRsvVc7 | kepSpillStage | kepSharedFree | kepSpillBaseLo | kepSpillBaseHi | kepSpillSize
  | kepSpillRate | kepSpillUsed | kepLimCfg | kepLimActive | kepCtrl | kepEchoCfg | kepDropThresh
  | kepDropWredG | kepDropWredY | kepDropRed | kepDropMcast | kepDropNotEct | kepDropAbort | kepCrcIn
  | kepCrcInt | kepMarked | kepEchoTx | kepEchoRx | kepEchoNolim | kepSpillPkts | kepUnderrun | kepProfCfg
  | kepProfGreen | kepProfYellow | kepVcwLo | kepVcwHi | d2dStatus | d2dCrcErr | d2dRetry | d2dCtrl
  | schCtrl | schGateWait | schGateOverrun | schExcessSel | schPortShape | schPortBurst | schGateCfg
  | schGatePhase | schGateEnt | plnPolGreen | plnPolYellow | plnPolRed | plnPolCtrl | plnPolLpCfg | cupCfg
  | cupStatus | cupCtrl | cupAddsLo | cupAddsHi | cupRoundsLo | cupRoundsHi | cupNanOut | cupInfOut
  | cupSatOut | cupWrapOut | cupZeroOut | cupMxNanblk | cupEccCorr | cupEccUnc | cupMalformed | colCfg
  | colRecBaseLo | colRecBaseHi | colStatus | colCtrl | colLastEnd | colUpAccept | colNakNotArmed
  | colNakBusy | colNakOther | colDiscard | colDup | colBroken | colTimeout | colBeaconTx | colBeaconRx
  | embCfg | embRate | embAdmDflt | embCtrl | embStatus | embLookupLo | embLookupHi | embRowsLo | embRowsHi
  | embPairsLo | embPairsHi | embUpdSat | embCommits | embCommitSat | embSnapGran | embMirrorGran
  | embBatchLost | embDiscard | embAddendOvf | embNakCnt | embAdm | embAdmUse | memCfg | memHotCfg
  | memPeerCfg | memTenDflt | memPmapBaseLo | memPmapBaseHi | memCtrl | memStatus | memPmapCount | memReqLo
  | memReqHi | memCombRd | memCombAt | memAbsorb | memHotEnter | memPeerTo | memOrdHold | memDiscard
  | memNakCnt | memTen | memTenUse | hbmCfg | hbmWeight | hbmScrubCfg | hbmCtrl | hbmStatus | hbmStackSize
  | hbmChOut | hbmFenceInfo | hbmSpareLo | hbmSpareHi | hbmCeCnt | hbmUeCnt | hbmCeLocLo | hbmCeLocHi
  | hbmUeLocLo | hbmUeLocHi | hbmScrubPass | hbmThermEvt | hbmSpillLost | hbmBytesLo | hbmBytesHi | rngCfg
  | rngCtrl | rngStatus | rngWdtCfg | rngDescLo | rngDescHi | rngBytesLo | rngBytesHi | rngFaults
  | rngInvalid | rngDbReject | rngCtrlIgn | rngCqStall | rngEventDrop | rngMsgPut | rngMsgDrop | rngMsgGet
  | rngGetAbort | rngWdtTrip | hubReclaimCmd | hubReclaimStatus | hubReclaimTime | hubReclaimScrub
  | hubReclaimCfg | hubReclaimRel | lanCtrl | lanStatus | lanCircCfg | lanMigCfg | lanMonCfg | lanFibCfg
  | lanFibStatus | lanFibCtrl | lanCirc | lanWrongLine | lanMigCnt | lanMigAbort | lanSrcSw | lanEyeTrip
  | lanCircSw | lanLockLoss | lanLaneStatus | lanMonSrc | lanMonTx | lanMonRx | lanElsCfg | lanElsStatus
  | lanElsFade | lanSrcProv | hubBwdtCfg | hubBwdtPet | hubResetCmd | hubResetStatus | hubResetDrop
  | hubCapBaseLo | hubCapBaseHi | hubCapCtrl | hubCapStatus | hubFaultCtx | hubFenceCmd | hubFenceStatus
  | hubFenceMapLo | hubFenceMapHi | cupSenCfg | cupSenStatus | cupSenBaseLo | cupSenBaseHi | cupWdtCfg
  | cupSenCtrl | cupSenSampled | cupSenSkipped | cupSenMismatch | cupSenTransient | cupSenPermanent
  | cupSenSentinel | cupSenUnresolved | cupWdtTrip | cupSenBin | secBootStatus | secStatus | secDevIdLo
  | secDevIdHi | secSvn | secMinSvn | secKeys | secRebind | secStageBaseLo | secStageBaseHi | secUpdCmd
  | secUpdStatus | secBuildLo | secBuildHi | secPreloadErr | secStageDrop | secOpkHash | grdStatus
  | grdCtrl | grdBfTxDrop | grdConsentRefuse | grdPcieRefuse | grdFlashRefuse | grdWinBaseLo | grdWinBaseHi
  | grdWinCtl | hubMbxReq | hubMbxRsp | hubMbxCmd | hubMbxStatus | hubMbxIrq | hubMbxBelfry
  | hubMbxMctpDrop | hubMbxMctpRx | hubFlsStatus | hubFlsRsId | hubFlsErr | hubFlsProgKb | hubI3cCfg
  | hubI3cStatus | hubElsBusErr | evrCfg | evrCtrl | evrTest | evrStatus | evrSeqNext | evrUnflushed
  | evrDrop | evrDropFull | evrDropIn | evrLost | evrWinSel | evrFindSeq | evrFindSlot | evrStSel | evrWin
  | evrStWin | ocuCtrl | ocuFabBaseLo | ocuFabBaseHi | ocuOvf | ocuSel | ocuFlt | ocuCntLo | ocuCntHi
  | ocuSnapLo | ocuSnapHi | ocuPortLo | ocuPortHi | ocuBwLo | ocuBwHi | ocuBwCfg | ocuPeakClr | ocuTpg
  | pwrCfg | pwrThrCfg | pwrThermCfg | pwrUnitCfg | pwrTolDflt | pwrTolCap | pwrLatAdv | pwrStatus | pwrInW
  | pwrPeakW | pwrTolNow | pwrHostTol | pwrLightCnt | pwrThrEvt | pwrTripCnt | pwrDie | pwrSensor | pwrRail
  | hubId | hubRev | hubStraps | hubSubsys | hubClkStatus | hubOwn | hubOwnStatus | hubOwnViol | hubHostCfg
  | hubBar4BaseLo | hubBar4BaseHi | hubEvtIrq | hubHpStatus | hubHpCeCnt | hubHpUeCnt | hubHpCtoCnt
  | hubHpCtrl | hubMsixPba | hubMsixTable
deriving DecidableEq, Repr

/-- The number of registers by name. -/
def regNames : Nat := 512

/-- The key of register r, index i, in the maps of State. -/
def rk (r : Reg) (i : Nat) : Nat := r.ctorIdx + 512 * i

/-- The reset value of register r, index i (the Reset columns of the register tables). -/
def regReset (r : Reg) (i : Nat) : Word :=
  match r with
  | .timBellCfg => 0x1
  | .timIncLo => 0xAAAAAAAB
  | .timIncHi => 0xAA
  | .timCtrl => 0x10
  | .timHoldCfg => 0x7D0
  | .timPpsCfg => 0x3E8
  | .plnLnkCfg => 0x1004
  | .plnLnkEthCfg => 0xC0002400
  | .plnLnkPcpMap => 0xFAC688
  | .plnFwdGenStatus => 0x3
  | .plnFwdGenDrain => 0x19
  | .plnFwdSpray => 0x60404
  | .plnFwdFlowlet => 0x40
  | .plnFwdRejoin => 0x1313
  | .plnWdtCfg => 0x1F4
  | .tapScrub => 0x3C
  | .plnLetCfg => 0x8BB
  | .kepCrdPool => 0x20000
  | .kepRsvVc1 => 0x8000
  | .kepRsvVc5 => 0x8000
  | .kepRsvVc6 => 0x2000
  | .kepRsvVc7 => 0x800
  | .kepSpillStage => 0x4000
  | .kepSharedFree => 0x89800
  | .kepSpillRate => 0x7D0
  | .kepLimCfg => 0x2080400A
  | .kepEchoCfg => 0x10
  | .kepProfCfg => 0x40800408
  | .kepProfGreen => 0x8000200
  | .kepProfYellow => 0x4000100
  | .kepVcwLo => 0x40402020
  | .kepVcwHi => 0x2020
  | .schPortBurst => 0x10000
  | .cupCfg => 0x1
  | .colCfg => 0x101
  | .embCfg => 0x101
  | .embRate => 0x1900064
  | .embAdmDflt => 0x1000
  | .memCfg => 0x4001
  | .memHotCfg => 0x4
  | .memPeerCfg => 0x3E8
  | .memTenDflt => 0x2000
  | .hbmCfg => 0x80046
  | .hbmWeight => 0x80401
  | .hbmScrubCfg => 0x18
  | .rngCfg => 0x3E8
  | .rngWdtCfg => 0x3E8
  | .lanCircCfg => 0x4
  | .lanMigCfg => 0x820
  | .lanMonCfg => 0x802
  | .lanFibCfg => (if i % 16 < 8 then 0 else 0x100)
  | .lanFibStatus => 0xFF00
  | .lanCirc => BitVec.ofNat 32 (0x11 * (i % 8))
  | .hubBwdtCfg => 0x3E8
  | .cupSenCfg => 0x440020A
  | .cupWdtCfg => 0x64
  | .hubI3cCfg => 0x3A3A
  | .evrCfg => 0x6441
  | .evrSeqNext => 0x1
  | .ocuBwCfg => 0xA
  | .pwrThrCfg => 0x400103
  | .pwrThermCfg => 0x64
  | .pwrUnitCfg => 0x40F
  | .pwrTolDflt => 0x3E8
  | .pwrTolCap => 0xFFFFFFFF
  | .pwrLatAdv => 0xFFFFFFFF
  | .pwrTolNow => 0xFFFFFFFF
  | .pwrHostTol => 0xFFFFFFFF
  | .hubId => 0x92561F6B
  | .hubRev => 0x4101
  | .hubMsixTable => (if i % 4 = 3 then 1 else 0)
  | _ => 0

/-- One row of the catalogue: the BAR0 offset of index 0, the index's dimensions (count, stride), outermost first, and
the bits of each access type of Table 0-3. `zero` are the bits that read 0 (W1P and WO). Bits of no type are RSV. -/
structure RegDef where
  reg : Reg
  base : Nat
  dims : List (Nat × Nat)
  rw : Nat
  stg : Nat
  w1c : Nat
  rc : Nat
  ro : Nat
  zero : Nat
deriving DecidableEq, Repr

/-- Catalogue, part 1. -/
def catalogue1 : List RegDef := [
  ⟨.timBellLo, 0x10000, [], 0x0, 0x0, 0x0, 0x0, 0xFFFFFFFF, 0x0⟩,
  ⟨.timBellHi, 0x10004, [], 0x0, 0x0, 0x0, 0x0, 0xFFFFFFFF, 0x0⟩,
  ⟨.timBellCfg, 0x10008, [], 0x0, 0x7, 0x0, 0x0, 0x0, 0x0⟩,
  ⟨.timNowSecLo, 0x10010, [], 0x0, 0x0, 0x0, 0x0, 0xFFFFFFFF, 0x0⟩,
  ⟨.timNowSecHi, 0x10014, [], 0x0, 0x0, 0x0, 0x0, 0xFFFF, 0x0⟩,
  ⟨.timNowNs, 0x10018, [], 0x0, 0x0, 0x0, 0x0, 0xFFFFFFFF, 0x0⟩,
  ⟨.timNowFrac, 0x1001C, [], 0x0, 0x0, 0x0, 0x0, 0xFFFF, 0x0⟩,
  ⟨.timIncLo, 0x10020, [], 0xFFFFFFFF, 0x0, 0x0, 0x0, 0x0, 0x0⟩,
  ⟨.timIncHi, 0x10024, [], 0xFFFF, 0x0, 0x0, 0x0, 0x0, 0x0⟩,
  ⟨.timStepLo, 0x10028, [], 0xFFFFFFFF, 0x0, 0x0, 0x0, 0x0, 0x0⟩,
  ⟨.timStepHi, 0x1002C, [], 0xFFFFFFFF, 0x0, 0x0, 0x0, 0x0, 0x0⟩,
  ⟨.timCtrl, 0x10030, [], 0x1C, 0x0, 0x0, 0x0, 0x0, 0x3⟩,
  ⟨.timStatus, 0x10034, [], 0x0, 0x0, 0xC, 0x0, 0x3, 0x0⟩,
  ⟨.timHoldCfg, 0x10038, [], 0xFFFF, 0x0, 0x0, 0x0, 0x0, 0x0⟩,
  ⟨.timPpsSecLo, 0x10040, [], 0x0, 0x0, 0x0, 0x0, 0xFFFFFFFF, 0x0⟩,
  ⟨.timPpsSecHi, 0x10044, [], 0x0, 0x0, 0x0, 0x0, 0xFFFF, 0x0⟩,
  ⟨.timPpsNs, 0x10048, [], 0x0, 0x0, 0x0, 0x0, 0xFFFFFFFF, 0x0⟩,
  ⟨.timPpsFrac, 0x1004C, [], 0x0, 0x0, 0x0, 0x0, 0xFFFF, 0x0⟩,
  ⟨.timPpsCfg, 0x10050, [], 0xFFFF, 0x0, 0x0, 0x0, 0x0, 0x0⟩,
  ⟨.timCmtTgtLo, 0x10060, [], 0xFFFFFFFF, 0x0, 0x0, 0x0, 0x0, 0x0⟩,
  ⟨.timCmtTgtHi, 0x10064, [], 0xFFFFFFFF, 0x0, 0x0, 0x0, 0x0, 0x0⟩,
  ⟨.timCommit, 0x10068, [], 0x0, 0x0, 0x0, 0x0, 0x0, 0xFFFFFFFF⟩,
  ⟨.timCmtCancel, 0x1006C, [], 0x0, 0x0, 0x0, 0x0, 0x0, 0xFFFFFFFF⟩,
  ⟨.timCmtDiscard, 0x10070, [], 0x0, 0x0, 0x0, 0x0, 0x0, 0xFFFFFFFF⟩,
  ⟨.timCmtStatus, 0x10080, [(9, 0x10)], 0x0, 0x0, 0x100, 0x0, 0xF7, 0x0⟩,
  ⟨.timCmtErrAddr, 0x10084, [(9, 0x10)], 0x0, 0x0, 0x0, 0x0, 0xFFFFFFFF, 0x0⟩,
  ⟨.timCmtBellLo, 0x10088, [(9, 0x10)], 0x0, 0x0, 0x0, 0x0, 0xFFFFFFFF, 0x0⟩,
  ⟨.timCmtBellHi, 0x1008C, [(9, 0x10)], 0x0, 0x0, 0x0, 0x0, 0xFFFFFFFF, 0x0⟩,
  ⟨.timTcSkip, 0x10120, [], 0x0, 0x0, 0x0, 0xFFFFFFFF, 0x0, 0x0⟩,
  ⟨.timPtpDrop, 0x10124, [], 0x0, 0x0, 0x0, 0xFFFFFFFF, 0x0, 0x0⟩,
  ⟨.plnFibCfg, 0x1013000, [(8, 0x400000), (8, 0x8000), (4, 0x40)], 0x0, 0xF, 0x0, 0x0, 0x0, 0x0⟩,
  ⟨.plnLnkCfg, 0x1014000, [(8, 0x400000), (8, 0x8000), (32, 0x200)], 0x0, 0xFF07, 0x0, 0x0, 0x0, 0x0⟩,
  ⟨.plnLnkEthCfg, 0x1014004, [(8, 0x400000), (8, 0x8000), (32, 0x200)], 0x0, 0xFF003FFF, 0x0, 0x0, 0x0, 0x0⟩,
  ⟨.plnLnkPcpMap, 0x1014008, [(8, 0x400000), (8, 0x8000), (32, 0x200)], 0x0, 0xFFFFFF, 0x0, 0x0, 0x0, 0x0⟩,
  ⟨.plnLnkExpIdLo, 0x1014010, [(8, 0x400000), (8, 0x8000), (32, 0x200)], 0x0, 0xFFFFFFFF, 0x0, 0x0, 0x0, 0x0⟩,
  ⟨.plnLnkExpIdHi, 0x1014014, [(8, 0x400000), (8, 0x8000), (32, 0x200)], 0x0, 0xFFFFFFFF, 0x0, 0x0, 0x0, 0x0⟩,
  ⟨.plnLnkExpPort, 0x1014018, [(8, 0x400000), (8, 0x8000), (32, 0x200)], 0x0, 0x7FF, 0x0, 0x0, 0x0, 0x0⟩,
  ⟨.plnLnkCtrl, 0x1014020, [(8, 0x400000), (8, 0x8000), (32, 0x200)], 0x0, 0x0, 0x0, 0x0, 0x0, 0x7⟩,
  ⟨.plnLnkStatus, 0x1014024, [(8, 0x400000), (8, 0x8000), (32, 0x200)], 0x0, 0x0, 0x0, 0x0, 0x3FFF, 0x0⟩,
  ⟨.plnLnkFarIdLo, 0x1014028, [(8, 0x400000), (8, 0x8000), (32, 0x200)], 0x0, 0x0, 0x0, 0x0, 0xFFFFFFFF, 0x0⟩]

/-- Catalogue, part 2. -/
def catalogue2 : List RegDef := [
  ⟨.plnLnkFarIdHi, 0x101402C, [(8, 0x400000), (8, 0x8000), (32, 0x200)], 0x0, 0x0, 0x0, 0x0, 0xFFFFFFFF, 0x0⟩,
  ⟨.plnLnkFarPort, 0x1014030, [(8, 0x400000), (8, 0x8000), (32, 0x200)], 0x0, 0x0, 0x0, 0x0, 0xFFFFFFFF, 0x0⟩,
  ⟨.plnLnkCrdAdv, 0x1014040, [(8, 0x400000), (8, 0x8000), (32, 0x200), (8, 0x4)], 0x0, 0xFFFF, 0x0, 0x0, 0x0, 0x0⟩,
  ⟨.plnLnkCrdAvail, 0x1014060, [(8, 0x400000), (8, 0x8000), (32, 0x200), (8, 0x4)], 0x0, 0x0, 0x0, 0x0, 0x1FFFF, 0x0⟩,
  ⟨.plnLnkGrpRxLo, 0x1014080, [(8, 0x400000), (8, 0x8000), (32, 0x200)], 0x0, 0x0, 0x0, 0x0, 0xFFFFFFFF, 0x0⟩,
  ⟨.plnLnkGrpRxHi, 0x1014084, [(8, 0x400000), (8, 0x8000), (32, 0x200)], 0x0, 0x0, 0x0, 0x0, 0xFFFFFFFF, 0x0⟩,
  ⟨.plnLnkCrcErr, 0x1014088, [(8, 0x400000), (8, 0x8000), (32, 0x200)], 0x0, 0x0, 0x0, 0x0, 0xFFFFFFFF, 0x0⟩,
  ⟨.plnLnkFecCorr, 0x101408C, [(8, 0x400000), (8, 0x8000), (32, 0x200)], 0x0, 0x0, 0x0, 0x0, 0xFFFFFFFF, 0x0⟩,
  ⟨.plnLnkFecUnc, 0x1014090, [(8, 0x400000), (8, 0x8000), (32, 0x200)], 0x0, 0x0, 0x0, 0x0, 0xFFFFFFFF, 0x0⟩,
  ⟨.plnLnkReplay, 0x1014094, [(8, 0x400000), (8, 0x8000), (32, 0x200)], 0x0, 0x0, 0x0, 0x0, 0xFFFFFFFF, 0x0⟩,
  ⟨.plnLnkNakTx, 0x1014098, [(8, 0x400000), (8, 0x8000), (32, 0x200)], 0x0, 0x0, 0x0, 0x0, 0xFFFFFFFF, 0x0⟩,
  ⟨.plnLnkMalformed, 0x101409C, [(8, 0x400000), (8, 0x8000), (32, 0x200)], 0x0, 0x0, 0x0, 0x0, 0xFFFFFFFF, 0x0⟩,
  ⟨.plnLnkCrdOvr, 0x10140A0, [(8, 0x400000), (8, 0x8000), (32, 0x200)], 0x0, 0x0, 0x0, 0x0, 0xFFFFFFFF, 0x0⟩,
  ⟨.plnLnkDownCnt, 0x10140A4, [(8, 0x400000), (8, 0x8000), (32, 0x200)], 0x0, 0x0, 0x0, 0x0, 0xFFFFFFFF, 0x0⟩,
  ⟨.plnLnkAbortRx, 0x10140A8, [(8, 0x400000), (8, 0x8000), (32, 0x200)], 0x0, 0x0, 0x0, 0x0, 0xFFFFFFFF, 0x0⟩,
  ⟨.plnLnkEthFcs, 0x10140AC, [(8, 0x400000), (8, 0x8000), (32, 0x200)], 0x0, 0x0, 0x0, 0x0, 0xFFFFFFFF, 0x0⟩,
  ⟨.plnLnkEthOversize, 0x10140B0, [(8, 0x400000), (8, 0x8000), (32, 0x200)], 0x0, 0x0, 0x0, 0x0, 0xFFFFFFFF, 0x0⟩,
  ⟨.plnLnkEthRunt, 0x10140B4, [(8, 0x400000), (8, 0x8000), (32, 0x200)], 0x0, 0x0, 0x0, 0x0, 0xFFFFFFFF, 0x0⟩,
  ⟨.plnFwdSelf, 0x1001000, [(8, 0x400000)], 0x0, 0xFFFFF, 0x0, 0x0, 0x0, 0x0⟩,
  ⟨.plnFwdGen, 0x1001004, [(8, 0x400000)], 0x0, 0x3, 0x0, 0x0, 0x0, 0x0⟩,
  ⟨.plnFwdGenStatus, 0x1001008, [(8, 0x400000)], 0x0, 0x0, 0x0, 0x0, 0xFFFF000F, 0x0⟩,
  ⟨.plnFwdGenDrain, 0x100100C, [(8, 0x400000)], 0x0, 0xFFFF, 0x0, 0x0, 0x0, 0x0⟩,
  ⟨.plnFwdHashSeed, 0x1001010, [(8, 0x400000)], 0x0, 0xFFFFFFFF, 0x0, 0x0, 0x0, 0x0⟩,
  ⟨.plnFwdSpray, 0x1001014, [(8, 0x400000)], 0x0, 0xF0F0F, 0x0, 0x0, 0x0, 0x0⟩,
  ⟨.plnFwdFlowlet, 0x1001018, [(8, 0x400000)], 0x0, 0xFFFF, 0x0, 0x0, 0x0, 0x0⟩,
  ⟨.plnFwdRejoin, 0x100101C, [(8, 0x400000)], 0x0, 0xFFFFFF, 0x0, 0x0, 0x0, 0x0⟩,
  ⟨.plnFwdRmacLo, 0x1001020, [(8, 0x400000)], 0x0, 0xFFFFFFFF, 0x0, 0x0, 0x0, 0x0⟩,
  ⟨.plnFwdRmacHi, 0x1001024, [(8, 0x400000)], 0x0, 0xFFFF, 0x0, 0x0, 0x0, 0x0⟩,
  ⟨.plnFwdDrop, 0x1011000, [(8, 0x400000), (8, 0x8000), (10, 0x4)], 0x0, 0x0, 0x0, 0x0, 0xFFFFFFFF, 0x0⟩,
  ⟨.plnFwdCtrl, 0x1011040, [(8, 0x400000), (8, 0x8000)], 0x0, 0x0, 0x0, 0x0, 0x0, 0x3⟩,
  ⟨.plnFwdLpCfg, 0x1014100, [(8, 0x400000), (8, 0x8000), (32, 0x200)], 0x0, 0x7, 0x0, 0x0, 0x0, 0x0⟩,
  ⟨.plnFwdLpStatus, 0x1014104, [(8, 0x400000), (8, 0x8000), (32, 0x200)], 0x0, 0x0, 0x0, 0x0, 0xFFFFFF01, 0x0⟩,
  ⟨.plnWdtCfg, 0x1011100, [(8, 0x400000), (8, 0x8000)], 0x0, 0x8000FFFF, 0x0, 0x0, 0x0, 0x0⟩,
  ⟨.plnWdtTrip, 0x1011104, [(8, 0x400000), (8, 0x8000)], 0x0, 0x0, 0x0, 0x0, 0xFFFFFFFF, 0x0⟩,
  ⟨.tapCmd, 0x10A0000, [(8, 0x400000)], 0x0, 0x0, 0x0, 0x0, 0x0, 0xFFFFFFFF⟩,
  ⟨.bcTapCmd, 0x80000, [], 0x0, 0x0, 0x0, 0x0, 0x0, 0xFFFFFFFF⟩,
  ⟨.tapStatus, 0x10A0004, [(8, 0x400000)], 0x0, 0x0, 0x4, 0x0, 0xFF03, 0x0⟩,
  ⟨.bcTapStatus, 0x80004, [], 0x0, 0x0, 0x4, 0x0, 0xFF03, 0x0⟩,
  ⟨.tapResult, 0x10A0008, [(8, 0x400000)], 0x0, 0x0, 0x0, 0x0, 0xFFFFFFFF, 0x0⟩,
  ⟨.bcTapResult, 0x80008, [], 0x0, 0x0, 0x0, 0x0, 0xFFFFFFFF, 0x0⟩]

/-- Catalogue, part 3. -/
def catalogue3 : List RegDef := [
  ⟨.tapKey, 0x10A0010, [(8, 0x400000), (8, 0x4)], 0xFFFFFFFF, 0x0, 0x0, 0x0, 0x0, 0x0⟩,
  ⟨.bcTapKey, 0x80010, [(8, 0x4)], 0xFFFFFFFF, 0x0, 0x0, 0x0, 0x0, 0x0⟩,
  ⟨.tapData, 0x10A0040, [(8, 0x400000), (16, 0x4)], 0xFFFFFFFF, 0x0, 0x0, 0x0, 0x0, 0x0⟩,
  ⟨.bcTapData, 0x80040, [(16, 0x4)], 0xFFFFFFFF, 0x0, 0x0, 0x0, 0x0, 0x0⟩,
  ⟨.tapPerrCnt, 0x10A0080, [(8, 0x400000)], 0x0, 0x0, 0x0, 0xFFFFFFFF, 0x0, 0x0⟩,
  ⟨.tapPerrLoc, 0x10A0084, [(8, 0x400000)], 0x0, 0x0, 0x0, 0xFFFFFFFF, 0x0, 0x0⟩,
  ⟨.tapScrub, 0x10A0088, [(8, 0x400000)], 0x0, 0xFFFF, 0x0, 0x0, 0x0, 0x0⟩,
  ⟨.tapBcPend, 0x80090, [], 0x0, 0x0, 0x0, 0x0, 0x1FFF, 0x0⟩,
  ⟨.tapBcSeq, 0x80094, [], 0x0, 0x0, 0x0, 0x0, 0xFFFFFFFF, 0x0⟩,
  ⟨.tapBcLandErr, 0x80098, [], 0x0, 0x0, 0x0, 0xFFFFFFFF, 0x0, 0x0⟩,
  ⟨.plnLetBaseLo, 0x1012000, [(8, 0x400000), (8, 0x8000)], 0x0, 0xFFFFFFFF, 0x0, 0x0, 0x0, 0x0⟩,
  ⟨.plnLetBaseHi, 0x1012004, [(8, 0x400000), (8, 0x8000)], 0x0, 0x800001FF, 0x0, 0x0, 0x0, 0x0⟩,
  ⟨.plnLetCfg, 0x1012008, [(8, 0x400000), (8, 0x8000)], 0x0, 0xFFFF, 0x0, 0x0, 0x0, 0x0⟩,
  ⟨.plnLetCtrl, 0x101200C, [(8, 0x400000), (8, 0x8000)], 0x0, 0x0, 0x0, 0x0, 0x0, 0x1⟩,
  ⟨.plnLetLearned, 0x1012010, [(8, 0x400000), (8, 0x8000)], 0x0, 0x0, 0x0, 0x0, 0xFFFFFFFF, 0x0⟩,
  ⟨.plnLetMove, 0x1012014, [(8, 0x400000), (8, 0x8000)], 0x0, 0x0, 0x0, 0x0, 0xFFFFFFFF, 0x0⟩,
  ⟨.plnLetAged, 0x1012018, [(8, 0x400000), (8, 0x8000)], 0x0, 0x0, 0x0, 0x0, 0xFFFFFFFF, 0x0⟩,
  ⟨.plnLetLimit, 0x101201C, [(8, 0x400000), (8, 0x8000)], 0x0, 0x0, 0x0, 0x0, 0xFFFFFFFF, 0x0⟩,
  ⟨.plnLetInsFail, 0x1012020, [(8, 0x400000), (8, 0x8000)], 0x0, 0x0, 0x0, 0x0, 0xFFFFFFFF, 0x0⟩,
  ⟨.plnLetLearnOvf, 0x1012024, [(8, 0x400000), (8, 0x8000)], 0x0, 0x0, 0x0, 0x0, 0xFFFFFFFF, 0x0⟩,
  ⟨.plnLetCacheMiss, 0x1012028, [(8, 0x400000), (8, 0x8000)], 0x0, 0x0, 0x0, 0x0, 0xFFFFFFFF, 0x0⟩,
  ⟨.plnLetLpCfg, 0x1014140, [(8, 0x400000), (8, 0x8000), (32, 0x200)], 0x0, 0xFFFFFFFF, 0x0, 0x0, 0x0, 0x0⟩,
  ⟨.plnLetLpCount, 0x1014144, [(8, 0x400000), (8, 0x8000), (32, 0x200)], 0x0, 0x0, 0x0, 0x0, 0x3FFFFFF, 0x0⟩,
  ⟨.kepCrdPool, 0x1050000, [(8, 0x400000)], 0x0, 0xFFFFF, 0x0, 0x0, 0x0, 0x0⟩,
  ⟨.kepRsvVc1, 0x1050004, [(8, 0x400000)], 0x0, 0xFFFFF, 0x0, 0x0, 0x0, 0x0⟩,
  ⟨.kepRsvVc5, 0x1050008, [(8, 0x400000)], 0x0, 0xFFFFF, 0x0, 0x0, 0x0, 0x0⟩,
  ⟨.kepRsvVc6, 0x105000C, [(8, 0x400000)], 0x0, 0xFFFFF, 0x0, 0x0, 0x0, 0x0⟩,
  ⟨.kepRsvVc7, 0x1050010, [(8, 0x400000)], 0x0, 0xFFFFF, 0x0, 0x0, 0x0, 0x0⟩,
  ⟨.kepSpillStage, 0x1050014, [(8, 0x400000)], 0x0, 0xFFFFF, 0x0, 0x0, 0x0, 0x0⟩,
  ⟨.kepSharedFree, 0x1050020, [(8, 0x400000)], 0x0, 0x0, 0x0, 0x0, 0xFFFFF, 0x0⟩,
  ⟨.kepSpillBaseLo, 0x1050030, [(8, 0x400000)], 0x0, 0xFFFFFFFF, 0x0, 0x0, 0x0, 0x0⟩,
  ⟨.kepSpillBaseHi, 0x1050034, [(8, 0x400000)], 0x0, 0x800001FF, 0x0, 0x0, 0x0, 0x0⟩,
  ⟨.kepSpillSize, 0x1050038, [(8, 0x400000)], 0x0, 0xFF, 0x0, 0x0, 0x0, 0x0⟩,
  ⟨.kepSpillRate, 0x105003C, [(8, 0x400000)], 0x0, 0xFFF, 0x0, 0x0, 0x0, 0x0⟩,
  ⟨.kepSpillUsed, 0x1050040, [(8, 0x400000)], 0x0, 0x0, 0x0, 0x0, 0xFFFFFFFF, 0x0⟩,
  ⟨.kepLimCfg, 0x1050044, [(8, 0x400000)], 0x0, 0xFFFFFFFF, 0x0, 0x0, 0x0, 0x0⟩,
  ⟨.kepLimActive, 0x1050048, [(8, 0x400000)], 0x0, 0x0, 0x0, 0x0, 0x1FFF, 0x0⟩,
  ⟨.kepCtrl, 0x105004C, [(8, 0x400000)], 0x0, 0x0, 0x0, 0x0, 0x0, 0x1⟩,
  ⟨.kepEchoCfg, 0x1050050, [(8, 0x400000)], 0x0, 0xFFFF, 0x0, 0x0, 0x0, 0x0⟩,
  ⟨.kepDropThresh, 0x1050080, [(8, 0x400000)], 0x0, 0x0, 0x0, 0x0, 0xFFFFFFFF, 0x0⟩]

/-- Catalogue, part 4. -/
def catalogue4 : List RegDef := [
  ⟨.kepDropWredG, 0x1050084, [(8, 0x400000)], 0x0, 0x0, 0x0, 0x0, 0xFFFFFFFF, 0x0⟩,
  ⟨.kepDropWredY, 0x1050088, [(8, 0x400000)], 0x0, 0x0, 0x0, 0x0, 0xFFFFFFFF, 0x0⟩,
  ⟨.kepDropRed, 0x105008C, [(8, 0x400000)], 0x0, 0x0, 0x0, 0x0, 0xFFFFFFFF, 0x0⟩,
  ⟨.kepDropMcast, 0x1050090, [(8, 0x400000)], 0x0, 0x0, 0x0, 0x0, 0xFFFFFFFF, 0x0⟩,
  ⟨.kepDropNotEct, 0x1050094, [(8, 0x400000)], 0x0, 0x0, 0x0, 0x0, 0xFFFFFFFF, 0x0⟩,
  ⟨.kepDropAbort, 0x1050098, [(8, 0x400000)], 0x0, 0x0, 0x0, 0x0, 0xFFFFFFFF, 0x0⟩,
  ⟨.kepCrcIn, 0x10500A0, [(8, 0x400000)], 0x0, 0x0, 0x0, 0x0, 0xFFFFFFFF, 0x0⟩,
  ⟨.kepCrcInt, 0x10500A4, [(8, 0x400000)], 0x0, 0x0, 0x0, 0x0, 0xFFFFFFFF, 0x0⟩,
  ⟨.kepMarked, 0x10500A8, [(8, 0x400000)], 0x0, 0x0, 0x0, 0x0, 0xFFFFFFFF, 0x0⟩,
  ⟨.kepEchoTx, 0x10500AC, [(8, 0x400000)], 0x0, 0x0, 0x0, 0x0, 0xFFFFFFFF, 0x0⟩,
  ⟨.kepEchoRx, 0x10500B0, [(8, 0x400000)], 0x0, 0x0, 0x0, 0x0, 0xFFFFFFFF, 0x0⟩,
  ⟨.kepEchoNolim, 0x10500B4, [(8, 0x400000)], 0x0, 0x0, 0x0, 0x0, 0xFFFFFFFF, 0x0⟩,
  ⟨.kepSpillPkts, 0x10500B8, [(8, 0x400000)], 0x0, 0x0, 0x0, 0x0, 0xFFFFFFFF, 0x0⟩,
  ⟨.kepUnderrun, 0x10500BC, [(8, 0x400000)], 0x0, 0x0, 0x0, 0x0, 0xFFFFFFFF, 0x0⟩,
  ⟨.kepProfCfg, 0x1050100, [(8, 0x400000), (8, 0x10)], 0x0, 0xFFFFFE0F, 0x0, 0x0, 0x0, 0x0⟩,
  ⟨.kepProfGreen, 0x1050104, [(8, 0x400000), (8, 0x10)], 0x0, 0xFFFFFFFF, 0x0, 0x0, 0x0, 0x0⟩,
  ⟨.kepProfYellow, 0x1050108, [(8, 0x400000), (8, 0x10)], 0x0, 0xFFFFFFFF, 0x0, 0x0, 0x0, 0x0⟩,
  ⟨.kepVcwLo, 0x1051000, [(8, 0x400000), (256, 0x8)], 0x0, 0xFFFFFFFF, 0x0, 0x0, 0x0, 0x0⟩,
  ⟨.kepVcwHi, 0x1051004, [(8, 0x400000), (256, 0x8)], 0x0, 0xFFFF, 0x0, 0x0, 0x0, 0x0⟩,
  ⟨.d2dStatus, 0x11A0000, [(8, 0x400000), (8, 0x4)], 0x0, 0x0, 0x0, 0x0, 0x3FF, 0x0⟩,
  ⟨.d2dCrcErr, 0x11A0040, [(8, 0x400000), (8, 0x4)], 0x0, 0x0, 0x0, 0x0, 0xFFFFFFFF, 0x0⟩,
  ⟨.d2dRetry, 0x11A0080, [(8, 0x400000), (8, 0x4)], 0x0, 0x0, 0x0, 0x0, 0xFFFFFFFF, 0x0⟩,
  ⟨.d2dCtrl, 0x11A00C0, [(8, 0x400000)], 0x0, 0x0, 0x0, 0x0, 0x0, 0x1FF⟩,
  ⟨.schCtrl, 0x1060000, [(8, 0x400000)], 0x0, 0x0, 0x0, 0x0, 0x0, 0x1⟩,
  ⟨.schGateWait, 0x1060010, [(8, 0x400000)], 0x0, 0x0, 0x0, 0x0, 0xFFFFFFFF, 0x0⟩,
  ⟨.schGateOverrun, 0x1060014, [(8, 0x400000)], 0x0, 0x0, 0x0, 0x0, 0xFFFFFFFF, 0x0⟩,
  ⟨.schExcessSel, 0x1060018, [(8, 0x400000)], 0x0, 0x0, 0x0, 0x0, 0xFFFFFFFF, 0x0⟩,
  ⟨.schPortShape, 0x1061000, [(8, 0x400000), (256, 0x10)], 0x0, 0x803FFFFF, 0x0, 0x0, 0x0, 0x0⟩,
  ⟨.schPortBurst, 0x1061004, [(8, 0x400000), (256, 0x10)], 0x0, 0xFFFFFF, 0x0, 0x0, 0x0, 0x0⟩,
  ⟨.schGateCfg, 0x1061008, [(8, 0x400000), (256, 0x10)], 0x0, 0x9FFF0FFF, 0x0, 0x0, 0x0, 0x0⟩,
  ⟨.schGatePhase, 0x1062000, [(8, 0x400000), (256, 0x4)], 0x0, 0xFFFFFFFF, 0x0, 0x0, 0x0, 0x0⟩,
  ⟨.schGateEnt, 0x1064000, [(8, 0x400000), (4096, 0x4)], 0x0, 0xFFFFFF, 0x0, 0x0, 0x0, 0x0⟩,
  ⟨.plnPolGreen, 0x1012100, [(8, 0x400000), (8, 0x8000)], 0x0, 0x0, 0x0, 0x0, 0xFFFFFFFF, 0x0⟩,
  ⟨.plnPolYellow, 0x1012104, [(8, 0x400000), (8, 0x8000)], 0x0, 0x0, 0x0, 0x0, 0xFFFFFFFF, 0x0⟩,
  ⟨.plnPolRed, 0x1012108, [(8, 0x400000), (8, 0x8000)], 0x0, 0x0, 0x0, 0x0, 0xFFFFFFFF, 0x0⟩,
  ⟨.plnPolCtrl, 0x101210C, [(8, 0x400000), (8, 0x8000)], 0x0, 0x0, 0x0, 0x0, 0x0, 0x1⟩,
  ⟨.plnPolLpCfg, 0x1014180, [(8, 0x400000), (8, 0x8000), (32, 0x200)], 0x0, 0xCFFF0FFF, 0x0, 0x0, 0x0, 0x0⟩,
  ⟨.cupCfg, 0x10C0000, [(8, 0x400000), (8, 0x4000)], 0x0, 0x1, 0x0, 0x0, 0x0, 0x0⟩,
  ⟨.cupStatus, 0x10C0004, [(8, 0x400000), (8, 0x4000)], 0x0, 0x0, 0x0, 0x0, 0x3F000F, 0x0⟩,
  ⟨.cupCtrl, 0x10C0008, [(8, 0x400000), (8, 0x4000)], 0x0, 0x0, 0x0, 0x0, 0x0, 0x1⟩]

/-- Catalogue, part 5. -/
def catalogue5 : List RegDef := [
  ⟨.cupAddsLo, 0x10C0010, [(8, 0x400000), (8, 0x4000)], 0x0, 0x0, 0x0, 0x0, 0xFFFFFFFF, 0x0⟩,
  ⟨.cupAddsHi, 0x10C0014, [(8, 0x400000), (8, 0x4000)], 0x0, 0x0, 0x0, 0x0, 0xFFFFFFFF, 0x0⟩,
  ⟨.cupRoundsLo, 0x10C0018, [(8, 0x400000), (8, 0x4000)], 0x0, 0x0, 0x0, 0x0, 0xFFFFFFFF, 0x0⟩,
  ⟨.cupRoundsHi, 0x10C001C, [(8, 0x400000), (8, 0x4000)], 0x0, 0x0, 0x0, 0x0, 0xFFFFFFFF, 0x0⟩,
  ⟨.cupNanOut, 0x10C0020, [(8, 0x400000), (8, 0x4000)], 0x0, 0x0, 0x0, 0x0, 0xFFFFFFFF, 0x0⟩,
  ⟨.cupInfOut, 0x10C0024, [(8, 0x400000), (8, 0x4000)], 0x0, 0x0, 0x0, 0x0, 0xFFFFFFFF, 0x0⟩,
  ⟨.cupSatOut, 0x10C0028, [(8, 0x400000), (8, 0x4000)], 0x0, 0x0, 0x0, 0x0, 0xFFFFFFFF, 0x0⟩,
  ⟨.cupWrapOut, 0x10C002C, [(8, 0x400000), (8, 0x4000)], 0x0, 0x0, 0x0, 0x0, 0xFFFFFFFF, 0x0⟩,
  ⟨.cupZeroOut, 0x10C0030, [(8, 0x400000), (8, 0x4000)], 0x0, 0x0, 0x0, 0x0, 0xFFFFFFFF, 0x0⟩,
  ⟨.cupMxNanblk, 0x10C0034, [(8, 0x400000), (8, 0x4000)], 0x0, 0x0, 0x0, 0x0, 0xFFFFFFFF, 0x0⟩,
  ⟨.cupEccCorr, 0x10C0038, [(8, 0x400000), (8, 0x4000)], 0x0, 0x0, 0x0, 0x0, 0xFFFFFFFF, 0x0⟩,
  ⟨.cupEccUnc, 0x10C003C, [(8, 0x400000), (8, 0x4000)], 0x0, 0x0, 0x0, 0x0, 0xFFFFFFFF, 0x0⟩,
  ⟨.cupMalformed, 0x10C0040, [(8, 0x400000), (8, 0x4000)], 0x0, 0x0, 0x0, 0x0, 0xFFFFFFFF, 0x0⟩,
  ⟨.colCfg, 0x10E0000, [(8, 0x400000)], 0x0, 0xFFFF, 0x0, 0x0, 0x0, 0x0⟩,
  ⟨.colRecBaseLo, 0x10E0008, [(8, 0x400000)], 0x0, 0xFFFFFFFF, 0x0, 0x0, 0x0, 0x0⟩,
  ⟨.colRecBaseHi, 0x10E000C, [(8, 0x400000)], 0x0, 0x800001FF, 0x0, 0x0, 0x0, 0x0⟩,
  ⟨.colStatus, 0x10E0010, [(8, 0x400000)], 0x0, 0x0, 0x0, 0x0, 0x7FF01FF, 0x0⟩,
  ⟨.colCtrl, 0x10E0014, [(8, 0x400000)], 0x0, 0x0, 0x0, 0x0, 0x0, 0x1⟩,
  ⟨.colLastEnd, 0x10E0018, [(8, 0x400000)], 0x0, 0x0, 0x0, 0x0, 0xF0001FFF, 0x0⟩,
  ⟨.colUpAccept, 0x10E0040, [(8, 0x400000)], 0x0, 0x0, 0x0, 0x0, 0xFFFFFFFF, 0x0⟩,
  ⟨.colNakNotArmed, 0x10E0044, [(8, 0x400000)], 0x0, 0x0, 0x0, 0x0, 0xFFFFFFFF, 0x0⟩,
  ⟨.colNakBusy, 0x10E0048, [(8, 0x400000)], 0x0, 0x0, 0x0, 0x0, 0xFFFFFFFF, 0x0⟩,
  ⟨.colNakOther, 0x10E004C, [(8, 0x400000)], 0x0, 0x0, 0x0, 0x0, 0xFFFFFFFF, 0x0⟩,
  ⟨.colDiscard, 0x10E0050, [(8, 0x400000)], 0x0, 0x0, 0x0, 0x0, 0xFFFFFFFF, 0x0⟩,
  ⟨.colDup, 0x10E0054, [(8, 0x400000)], 0x0, 0x0, 0x0, 0x0, 0xFFFFFFFF, 0x0⟩,
  ⟨.colBroken, 0x10E0058, [(8, 0x400000)], 0x0, 0x0, 0x0, 0x0, 0xFFFFFFFF, 0x0⟩,
  ⟨.colTimeout, 0x10E005C, [(8, 0x400000)], 0x0, 0x0, 0x0, 0x0, 0xFFFFFFFF, 0x0⟩,
  ⟨.colBeaconTx, 0x10E0060, [(8, 0x400000)], 0x0, 0x0, 0x0, 0x0, 0xFFFFFFFF, 0x0⟩,
  ⟨.colBeaconRx, 0x10E0064, [(8, 0x400000)], 0x0, 0x0, 0x0, 0x0, 0xFFFFFFFF, 0x0⟩,
  ⟨.embCfg, 0x1100000, [(8, 0x400000)], 0x0, 0xFFFF, 0x0, 0x0, 0x0, 0x0⟩,
  ⟨.embRate, 0x1100004, [(8, 0x400000)], 0x0, 0xFFFFFFFF, 0x0, 0x0, 0x0, 0x0⟩,
  ⟨.embAdmDflt, 0x1100008, [(8, 0x400000)], 0x0, 0x7FFF, 0x0, 0x0, 0x0, 0x0⟩,
  ⟨.embCtrl, 0x110000C, [(8, 0x400000)], 0x0, 0x0, 0x0, 0x0, 0x0, 0x1⟩,
  ⟨.embStatus, 0x1100010, [(8, 0x400000)], 0x0, 0x0, 0x0, 0x0, 0xFF7FFF, 0x0⟩,
  ⟨.embLookupLo, 0x1100040, [(8, 0x400000)], 0x0, 0x0, 0x0, 0x0, 0xFFFFFFFF, 0x0⟩,
  ⟨.embLookupHi, 0x1100044, [(8, 0x400000)], 0x0, 0x0, 0x0, 0x0, 0xFFFFFFFF, 0x0⟩,
  ⟨.embRowsLo, 0x1100048, [(8, 0x400000)], 0x0, 0x0, 0x0, 0x0, 0xFFFFFFFF, 0x0⟩,
  ⟨.embRowsHi, 0x110004C, [(8, 0x400000)], 0x0, 0x0, 0x0, 0x0, 0xFFFFFFFF, 0x0⟩,
  ⟨.embPairsLo, 0x1100050, [(8, 0x400000)], 0x0, 0x0, 0x0, 0x0, 0xFFFFFFFF, 0x0⟩,
  ⟨.embPairsHi, 0x1100054, [(8, 0x400000)], 0x0, 0x0, 0x0, 0x0, 0xFFFFFFFF, 0x0⟩]

/-- Catalogue, part 6. -/
def catalogue6 : List RegDef := [
  ⟨.embUpdSat, 0x1100058, [(8, 0x400000)], 0x0, 0x0, 0x0, 0x0, 0xFFFFFFFF, 0x0⟩,
  ⟨.embCommits, 0x110005C, [(8, 0x400000)], 0x0, 0x0, 0x0, 0x0, 0xFFFFFFFF, 0x0⟩,
  ⟨.embCommitSat, 0x1100060, [(8, 0x400000)], 0x0, 0x0, 0x0, 0x0, 0xFFFFFFFF, 0x0⟩,
  ⟨.embSnapGran, 0x1100064, [(8, 0x400000)], 0x0, 0x0, 0x0, 0x0, 0xFFFFFFFF, 0x0⟩,
  ⟨.embMirrorGran, 0x1100068, [(8, 0x400000)], 0x0, 0x0, 0x0, 0x0, 0xFFFFFFFF, 0x0⟩,
  ⟨.embBatchLost, 0x110006C, [(8, 0x400000)], 0x0, 0x0, 0x0, 0x0, 0xFFFFFFFF, 0x0⟩,
  ⟨.embDiscard, 0x1100070, [(8, 0x400000)], 0x0, 0x0, 0x0, 0x0, 0xFFFFFFFF, 0x0⟩,
  ⟨.embAddendOvf, 0x1100074, [(8, 0x400000)], 0x0, 0x0, 0x0, 0x0, 0xFFFFFFFF, 0x0⟩,
  ⟨.embNakCnt, 0x1100080, [(8, 0x400000), (10, 0x4)], 0x0, 0x0, 0x0, 0x0, 0xFFFFFFFF, 0x0⟩,
  ⟨.embAdm, 0x1100100, [(8, 0x400000), (64, 0x4)], 0x0, 0xFFFFFFFF, 0x0, 0x0, 0x0, 0x0⟩,
  ⟨.embAdmUse, 0x1100200, [(8, 0x400000), (64, 0x4)], 0x0, 0x0, 0x0, 0x0, 0x7FFF, 0x0⟩,
  ⟨.memCfg, 0x1120000, [(8, 0x400000)], 0x0, 0xFFFF, 0x0, 0x0, 0x0, 0x0⟩,
  ⟨.memHotCfg, 0x1120004, [(8, 0x400000)], 0x0, 0xFF, 0x0, 0x0, 0x0, 0x0⟩,
  ⟨.memPeerCfg, 0x1120008, [(8, 0x400000)], 0x0, 0xFFFF, 0x0, 0x0, 0x0, 0x0⟩,
  ⟨.memTenDflt, 0x112000C, [(8, 0x400000)], 0x0, 0xFFFF, 0x0, 0x0, 0x0, 0x0⟩,
  ⟨.memPmapBaseLo, 0x1120010, [(8, 0x400000)], 0x0, 0xFFFFFFFF, 0x0, 0x0, 0x0, 0x0⟩,
  ⟨.memPmapBaseHi, 0x1120014, [(8, 0x400000)], 0x0, 0x800001FF, 0x0, 0x0, 0x0, 0x0⟩,
  ⟨.memCtrl, 0x1120018, [(8, 0x400000)], 0x0, 0x0, 0x0, 0x0, 0x0, 0x1⟩,
  ⟨.memStatus, 0x112001C, [(8, 0x400000)], 0x0, 0x0, 0x0, 0x0, 0xFFFFFFFF, 0x0⟩,
  ⟨.memPmapCount, 0x1120020, [(8, 0x400000)], 0x0, 0x0, 0x0, 0x0, 0x1FFFFF, 0x0⟩,
  ⟨.memReqLo, 0x1120040, [(8, 0x400000)], 0x0, 0x0, 0x0, 0x0, 0xFFFFFFFF, 0x0⟩,
  ⟨.memReqHi, 0x1120044, [(8, 0x400000)], 0x0, 0x0, 0x0, 0x0, 0xFFFFFFFF, 0x0⟩,
  ⟨.memCombRd, 0x1120048, [(8, 0x400000)], 0x0, 0x0, 0x0, 0x0, 0xFFFFFFFF, 0x0⟩,
  ⟨.memCombAt, 0x112004C, [(8, 0x400000)], 0x0, 0x0, 0x0, 0x0, 0xFFFFFFFF, 0x0⟩,
  ⟨.memAbsorb, 0x1120050, [(8, 0x400000)], 0x0, 0x0, 0x0, 0x0, 0xFFFFFFFF, 0x0⟩,
  ⟨.memHotEnter, 0x1120054, [(8, 0x400000)], 0x0, 0x0, 0x0, 0x0, 0xFFFFFFFF, 0x0⟩,
  ⟨.memPeerTo, 0x1120058, [(8, 0x400000)], 0x0, 0x0, 0x0, 0x0, 0xFFFFFFFF, 0x0⟩,
  ⟨.memOrdHold, 0x112005C, [(8, 0x400000)], 0x0, 0x0, 0x0, 0x0, 0xFFFFFFFF, 0x0⟩,
  ⟨.memDiscard, 0x1120060, [(8, 0x400000)], 0x0, 0x0, 0x0, 0x0, 0xFFFFFFFF, 0x0⟩,
  ⟨.memNakCnt, 0x1120080, [(8, 0x400000), (10, 0x4)], 0x0, 0x0, 0x0, 0x0, 0xFFFFFFFF, 0x0⟩,
  ⟨.memTen, 0x1120100, [(8, 0x400000), (64, 0x4)], 0x0, 0xFFFFFFFF, 0x0, 0x0, 0x0, 0x0⟩,
  ⟨.memTenUse, 0x1120200, [(8, 0x400000), (64, 0x4)], 0x0, 0x0, 0x0, 0x0, 0xFFFF, 0x0⟩,
  ⟨.hbmCfg, 0x1140000, [(8, 0x400000), (4, 0x8000)], 0x0, 0xFF017F, 0x0, 0x0, 0x0, 0x0⟩,
  ⟨.hbmWeight, 0x1140004, [(8, 0x400000), (4, 0x8000)], 0x0, 0xFFFFFF, 0x0, 0x0, 0x0, 0x0⟩,
  ⟨.hbmScrubCfg, 0x1140008, [(8, 0x400000), (4, 0x8000)], 0x0, 0xFFFF, 0x0, 0x0, 0x0, 0x0⟩,
  ⟨.hbmCtrl, 0x114000C, [(8, 0x400000), (4, 0x8000)], 0x0, 0x0, 0x0, 0x0, 0x0, 0x7⟩,
  ⟨.hbmStatus, 0x1140010, [(8, 0x400000), (4, 0x8000)], 0x0, 0x0, 0x0, 0x0, 0xFF0C0007, 0x0⟩,
  ⟨.hbmStackSize, 0x1140014, [(8, 0x400000), (4, 0x8000)], 0x0, 0x0, 0x0, 0x0, 0x3F, 0x0⟩,
  ⟨.hbmChOut, 0x1140018, [(8, 0x400000), (4, 0x8000)], 0x0, 0x0, 0x0, 0x0, 0xFFFFFFFF, 0x0⟩,
  ⟨.hbmFenceInfo, 0x114001C, [(8, 0x400000), (4, 0x8000)], 0x0, 0x0, 0x0, 0x0, 0xFFFFFFFF, 0x0⟩]

/-- Catalogue, part 7. -/
def catalogue7 : List RegDef := [
  ⟨.hbmSpareLo, 0x1140020, [(8, 0x400000), (4, 0x8000)], 0x0, 0x0, 0x0, 0x0, 0xFFFFFFFF, 0x0⟩,
  ⟨.hbmSpareHi, 0x1140024, [(8, 0x400000), (4, 0x8000)], 0x0, 0x0, 0x0, 0x0, 0xFFFFFFFF, 0x0⟩,
  ⟨.hbmCeCnt, 0x1140040, [(8, 0x400000), (4, 0x8000)], 0x0, 0x0, 0x0, 0x0, 0xFFFFFFFF, 0x0⟩,
  ⟨.hbmUeCnt, 0x1140044, [(8, 0x400000), (4, 0x8000)], 0x0, 0x0, 0x0, 0x0, 0xFFFFFFFF, 0x0⟩,
  ⟨.hbmCeLocLo, 0x1140048, [(8, 0x400000), (4, 0x8000)], 0x0, 0x0, 0x0, 0xFFFFFFFF, 0x0, 0x0⟩,
  ⟨.hbmCeLocHi, 0x114004C, [(8, 0x400000), (4, 0x8000)], 0x0, 0x0, 0x0, 0x800001FF, 0x0, 0x0⟩,
  ⟨.hbmUeLocLo, 0x1140050, [(8, 0x400000), (4, 0x8000)], 0x0, 0x0, 0x0, 0xFFFFFFFF, 0x0, 0x0⟩,
  ⟨.hbmUeLocHi, 0x1140054, [(8, 0x400000), (4, 0x8000)], 0x0, 0x0, 0x0, 0x800001FF, 0x0, 0x0⟩,
  ⟨.hbmScrubPass, 0x1140058, [(8, 0x400000), (4, 0x8000)], 0x0, 0x0, 0x0, 0x0, 0xFFFFFFFF, 0x0⟩,
  ⟨.hbmThermEvt, 0x114005C, [(8, 0x400000), (4, 0x8000)], 0x0, 0x0, 0x0, 0x0, 0xFFFFFFFF, 0x0⟩,
  ⟨.hbmSpillLost, 0x1140060, [(8, 0x400000), (4, 0x8000)], 0x0, 0x0, 0x0, 0x0, 0xFFFFFFFF, 0x0⟩,
  ⟨.hbmBytesLo, 0x1140080, [(8, 0x400000), (4, 0x8000), (4, 0x8)], 0x0, 0x0, 0x0, 0x0, 0xFFFFFFFF, 0x0⟩,
  ⟨.hbmBytesHi, 0x1140084, [(8, 0x400000), (4, 0x8000), (4, 0x8)], 0x0, 0x0, 0x0, 0x0, 0xFFFFFFFF, 0x0⟩,
  ⟨.rngCfg, 0x1160000, [(8, 0x400000)], 0x0, 0xFFFF, 0x0, 0x0, 0x0, 0x0⟩,
  ⟨.rngCtrl, 0x1160004, [(8, 0x400000)], 0x0, 0x0, 0x0, 0x0, 0x0, 0x1⟩,
  ⟨.rngStatus, 0x1160008, [(8, 0x400000)], 0x0, 0x0, 0x0, 0x0, 0xFFF01FF, 0x0⟩,
  ⟨.rngWdtCfg, 0x116000C, [(8, 0x400000)], 0x0, 0x8000FFFF, 0x0, 0x0, 0x0, 0x0⟩,
  ⟨.rngDescLo, 0x1160040, [(8, 0x400000)], 0x0, 0x0, 0x0, 0x0, 0xFFFFFFFF, 0x0⟩,
  ⟨.rngDescHi, 0x1160044, [(8, 0x400000)], 0x0, 0x0, 0x0, 0x0, 0xFFFFFFFF, 0x0⟩,
  ⟨.rngBytesLo, 0x1160048, [(8, 0x400000)], 0x0, 0x0, 0x0, 0x0, 0xFFFFFFFF, 0x0⟩,
  ⟨.rngBytesHi, 0x116004C, [(8, 0x400000)], 0x0, 0x0, 0x0, 0x0, 0xFFFFFFFF, 0x0⟩,
  ⟨.rngFaults, 0x1160050, [(8, 0x400000)], 0x0, 0x0, 0x0, 0x0, 0xFFFFFFFF, 0x0⟩,
  ⟨.rngInvalid, 0x1160054, [(8, 0x400000)], 0x0, 0x0, 0x0, 0x0, 0xFFFFFFFF, 0x0⟩,
  ⟨.rngDbReject, 0x1160058, [(8, 0x400000)], 0x0, 0x0, 0x0, 0x0, 0xFFFFFFFF, 0x0⟩,
  ⟨.rngCtrlIgn, 0x116005C, [(8, 0x400000)], 0x0, 0x0, 0x0, 0x0, 0xFFFFFFFF, 0x0⟩,
  ⟨.rngCqStall, 0x1160060, [(8, 0x400000)], 0x0, 0x0, 0x0, 0x0, 0xFFFFFFFF, 0x0⟩,
  ⟨.rngEventDrop, 0x1160064, [(8, 0x400000)], 0x0, 0x0, 0x0, 0x0, 0xFFFFFFFF, 0x0⟩,
  ⟨.rngMsgPut, 0x1160068, [(8, 0x400000)], 0x0, 0x0, 0x0, 0x0, 0xFFFFFFFF, 0x0⟩,
  ⟨.rngMsgDrop, 0x116006C, [(8, 0x400000)], 0x0, 0x0, 0x0, 0x0, 0xFFFFFFFF, 0x0⟩,
  ⟨.rngMsgGet, 0x1160070, [(8, 0x400000)], 0x0, 0x0, 0x0, 0x0, 0xFFFFFFFF, 0x0⟩,
  ⟨.rngGetAbort, 0x1160074, [(8, 0x400000)], 0x0, 0x0, 0x0, 0x0, 0xFFFFFFFF, 0x0⟩,
  ⟨.rngWdtTrip, 0x1160078, [(8, 0x400000)], 0x0, 0x0, 0x0, 0x0, 0xFFFFFFFF, 0x0⟩,
  ⟨.hubReclaimCmd, 0x200, [], 0x4000FFFF, 0x0, 0x0, 0x0, 0x0, 0x80000000⟩,
  ⟨.hubReclaimStatus, 0x204, [], 0x0, 0x0, 0x40000000, 0x0, 0xB000FFFF, 0x0⟩,
  ⟨.hubReclaimTime, 0x208, [], 0x0, 0x0, 0x0, 0x0, 0xFFFFFFFF, 0x0⟩,
  ⟨.hubReclaimScrub, 0x20C, [], 0x0, 0x0, 0x0, 0x0, 0xFFFFFFFF, 0x0⟩,
  ⟨.hubReclaimCfg, 0x210, [], 0xC00007FF, 0x0, 0x0, 0x0, 0x0, 0x0⟩,
  ⟨.hubReclaimRel, 0x214, [], 0x0, 0x0, 0x0, 0x0, 0x0, 0xFFFFFFFF⟩,
  ⟨.lanCtrl, 0x3000000, [(16, 0x100000)], 0x0, 0x0, 0x0, 0x0, 0x0, 0x1⟩,
  ⟨.lanStatus, 0x3000004, [(16, 0x100000)], 0x0, 0x0, 0x0, 0x0, 0xFF000003, 0x0⟩]

/-- Catalogue, part 8. -/
def catalogue8 : List RegDef := [
  ⟨.lanCircCfg, 0x3000010, [(16, 0x100000)], 0x0, 0xFF, 0x0, 0x0, 0x0, 0x0⟩,
  ⟨.lanMigCfg, 0x3000014, [(16, 0x100000)], 0x0, 0xFFFF, 0x0, 0x0, 0x0, 0x0⟩,
  ⟨.lanMonCfg, 0x3000018, [(16, 0x100000)], 0x0, 0xFF07, 0x0, 0x0, 0x0, 0x0⟩,
  ⟨.lanFibCfg, 0x3010000, [(16, 0x100000), (16, 0x1000)], 0x0, 0x101, 0x0, 0x0, 0x0, 0x0⟩,
  ⟨.lanFibStatus, 0x3010004, [(16, 0x100000), (16, 0x1000)], 0x0, 0x0, 0x0, 0x0, 0xE07FF00, 0x0⟩,
  ⟨.lanFibCtrl, 0x3010008, [(16, 0x100000), (16, 0x1000)], 0x0, 0x0, 0x0, 0x0, 0x0, 0x3⟩,
  ⟨.lanCirc, 0x3010020, [(16, 0x100000), (16, 0x1000), (8, 0x4)], 0x0, 0xFF, 0x0, 0x0, 0x0, 0x0⟩,
  ⟨.lanWrongLine, 0x3010040, [(16, 0x100000), (16, 0x1000)], 0x0, 0x0, 0x0, 0x0, 0xFFFFFFFF, 0x0⟩,
  ⟨.lanMigCnt, 0x3010044, [(16, 0x100000), (16, 0x1000)], 0x0, 0x0, 0x0, 0x0, 0xFFFFFFFF, 0x0⟩,
  ⟨.lanMigAbort, 0x3010048, [(16, 0x100000), (16, 0x1000)], 0x0, 0x0, 0x0, 0x0, 0xFFFFFFFF, 0x0⟩,
  ⟨.lanSrcSw, 0x301004C, [(16, 0x100000), (16, 0x1000)], 0x0, 0x0, 0x0, 0x0, 0xFFFFFFFF, 0x0⟩,
  ⟨.lanEyeTrip, 0x3010050, [(16, 0x100000), (16, 0x1000)], 0x0, 0x0, 0x0, 0x0, 0xFFFFFFFF, 0x0⟩,
  ⟨.lanCircSw, 0x3010054, [(16, 0x100000), (16, 0x1000)], 0x0, 0x0, 0x0, 0x0, 0xFFFFFFFF, 0x0⟩,
  ⟨.lanLockLoss, 0x3010058, [(16, 0x100000), (16, 0x1000)], 0x0, 0x0, 0x0, 0x0, 0xFFFFFFFF, 0x0⟩,
  ⟨.lanLaneStatus, 0x3020000, [(16, 0x100000), (16, 0x100), (2, 0x40), (9, 0x4)], 0x0, 0x0, 0x0, 0x0, 0xFF03FFFF, 0x0⟩,
  ⟨.lanMonSrc, 0x3030000, [(16, 0x100000), (2, 0x40), (16, 0x4)], 0x0, 0x0, 0x0, 0x0, 0xFFFF, 0x0⟩,
  ⟨.lanMonTx, 0x3031000, [(16, 0x100000), (16, 0x40), (9, 0x4)], 0x0, 0x0, 0x0, 0x0, 0xFFFF, 0x0⟩,
  ⟨.lanMonRx, 0x3032000, [(16, 0x100000), (16, 0x40), (9, 0x4)], 0x0, 0x0, 0x0, 0x0, 0xFFFF, 0x0⟩,
  ⟨.lanElsCfg, 0x3040000, [(16, 0x100000), (2, 0x10)], 0x0, 0x80000000, 0x0, 0x0, 0x0, 0x0⟩,
  ⟨.lanElsStatus, 0x3040004, [(16, 0x100000), (2, 0x10)], 0x0, 0x0, 0x0, 0x0, 0xFC000000, 0x0⟩,
  ⟨.lanElsFade, 0x3040008, [(16, 0x100000), (2, 0x10)], 0x0, 0x0, 0x0, 0x0, 0xFFFFFFFF, 0x0⟩,
  ⟨.lanSrcProv, 0x3040100, [(16, 0x100000), (2, 0x40), (16, 0x4)], 0x0, 0xFFFF, 0x0, 0x0, 0x0, 0x0⟩,
  ⟨.hubBwdtCfg, 0x300, [], 0x0, 0xFFFF, 0x0, 0x0, 0x0, 0x0⟩,
  ⟨.hubBwdtPet, 0x304, [], 0x0, 0x0, 0x0, 0x0, 0x0, 0x1⟩,
  ⟨.hubResetCmd, 0x310, [], 0x0, 0x0, 0x0, 0x0, 0x0, 0xFFFFFFFF⟩,
  ⟨.hubResetStatus, 0x314, [], 0x0, 0x0, 0x0, 0x0, 0x8FFFFFFF, 0x0⟩,
  ⟨.hubResetDrop, 0x318, [], 0x0, 0x0, 0x0, 0xFFFFFFFF, 0x0, 0x0⟩,
  ⟨.hubCapBaseLo, 0x320, [], 0x0, 0xFFFFFFFF, 0x0, 0x0, 0x0, 0x0⟩,
  ⟨.hubCapBaseHi, 0x324, [], 0x0, 0x800001FF, 0x0, 0x0, 0x0, 0x0⟩,
  ⟨.hubCapCtrl, 0x328, [], 0x1, 0x0, 0x0, 0x0, 0x0, 0x2⟩,
  ⟨.hubCapStatus, 0x32C, [], 0x0, 0x0, 0x0, 0x0, 0xC0FFFFFF, 0x0⟩,
  ⟨.hubFaultCtx, 0x400, [(8, 0x4)], 0x0, 0x0, 0x0, 0x0, 0xFFFFFFFF, 0x0⟩,
  ⟨.hubFenceCmd, 0x500, [], 0x0, 0x0, 0x0, 0x0, 0x0, 0xFFFFFFFF⟩,
  ⟨.hubFenceStatus, 0x504, [], 0x0, 0x0, 0x0, 0x0, 0xFFFFFFFF, 0x0⟩,
  ⟨.hubFenceMapLo, 0x508, [], 0x0, 0x0, 0x0, 0x0, 0xFFFFFFFF, 0x0⟩,
  ⟨.hubFenceMapHi, 0x50C, [], 0x0, 0x0, 0x0, 0x0, 0xFFFFFFFF, 0x0⟩,
  ⟨.cupSenCfg, 0x1002000, [(8, 0x400000)], 0x0, 0xFFFF061F, 0x0, 0x0, 0x0, 0x0⟩,
  ⟨.cupSenStatus, 0x1002004, [(8, 0x400000)], 0x0, 0x0, 0x0, 0x0, 0x8007000F, 0x0⟩,
  ⟨.cupSenBaseLo, 0x1002008, [(8, 0x400000)], 0x0, 0xFFFFFFFF, 0x0, 0x0, 0x0, 0x0⟩,
  ⟨.cupSenBaseHi, 0x100200C, [(8, 0x400000)], 0x0, 0x800001FF, 0x0, 0x0, 0x0, 0x0⟩]

/-- Catalogue, part 9. -/
def catalogue9 : List RegDef := [
  ⟨.cupWdtCfg, 0x1002010, [(8, 0x400000)], 0x0, 0xFFFF, 0x0, 0x0, 0x0, 0x0⟩,
  ⟨.cupSenCtrl, 0x1002014, [(8, 0x400000)], 0x0, 0x0, 0x0, 0x0, 0x0, 0x3⟩,
  ⟨.cupSenSampled, 0x1002040, [(8, 0x400000)], 0x0, 0x0, 0x0, 0x0, 0xFFFFFFFF, 0x0⟩,
  ⟨.cupSenSkipped, 0x1002044, [(8, 0x400000)], 0x0, 0x0, 0x0, 0x0, 0xFFFFFFFF, 0x0⟩,
  ⟨.cupSenMismatch, 0x1002048, [(8, 0x400000)], 0x0, 0x0, 0x0, 0x0, 0xFFFFFFFF, 0x0⟩,
  ⟨.cupSenTransient, 0x100204C, [(8, 0x400000)], 0x0, 0x0, 0x0, 0x0, 0xFFFFFFFF, 0x0⟩,
  ⟨.cupSenPermanent, 0x1002050, [(8, 0x400000)], 0x0, 0x0, 0x0, 0x0, 0xFFFFFFFF, 0x0⟩,
  ⟨.cupSenSentinel, 0x1002054, [(8, 0x400000)], 0x0, 0x0, 0x0, 0x0, 0xFFFFFFFF, 0x0⟩,
  ⟨.cupSenUnresolved, 0x1002058, [(8, 0x400000)], 0x0, 0x0, 0x0, 0x0, 0xFFFFFFFF, 0x0⟩,
  ⟨.cupWdtTrip, 0x100205C, [(8, 0x400000)], 0x0, 0x0, 0x0, 0x0, 0xFFFFFFFF, 0x0⟩,
  ⟨.cupSenBin, 0x1002400, [(8, 0x400000), (8, 0x60), (24, 0x4)], 0x0, 0x0, 0x0, 0x0, 0xFFFFFFFF, 0x0⟩,
  ⟨.secBootStatus, 0x90000, [], 0x0, 0x0, 0x0, 0x0, 0xFF000FFF, 0x0⟩,
  ⟨.secStatus, 0x90004, [], 0x0, 0x0, 0x0, 0x0, 0xF3, 0x0⟩,
  ⟨.secDevIdLo, 0x90008, [], 0x0, 0x0, 0x0, 0x0, 0xFFFFFFFF, 0x0⟩,
  ⟨.secDevIdHi, 0x9000C, [], 0x0, 0x0, 0x0, 0x0, 0xFFFFFFFF, 0x0⟩,
  ⟨.secSvn, 0x90010, [], 0x0, 0x0, 0x0, 0x0, 0xFFFFFFFF, 0x0⟩,
  ⟨.secMinSvn, 0x90014, [], 0x0, 0x0, 0x0, 0x0, 0xFFFFFFFF, 0x0⟩,
  ⟨.secKeys, 0x90018, [], 0x0, 0x0, 0x0, 0x0, 0xF3, 0x0⟩,
  ⟨.secRebind, 0x9001C, [], 0x0, 0x0, 0x0, 0x0, 0xFFFFFFFF, 0x0⟩,
  ⟨.secStageBaseLo, 0x90020, [], 0x0, 0xFFFFFFFF, 0x0, 0x0, 0x0, 0x0⟩,
  ⟨.secStageBaseHi, 0x90024, [], 0x0, 0x800001FF, 0x0, 0x0, 0x0, 0x0⟩,
  ⟨.secUpdCmd, 0x90028, [], 0x0, 0x0, 0x0, 0x0, 0x0, 0xFFFFFFFF⟩,
  ⟨.secUpdStatus, 0x9002C, [], 0x0, 0x0, 0x40000000, 0x0, 0x800FFFFF, 0x0⟩,
  ⟨.secBuildLo, 0x90030, [], 0x0, 0x0, 0x0, 0x0, 0xFFFFFFFF, 0x0⟩,
  ⟨.secBuildHi, 0x90034, [], 0x0, 0x0, 0x0, 0x0, 0xFFFFFFFF, 0x0⟩,
  ⟨.secPreloadErr, 0x90038, [], 0x0, 0x0, 0x0, 0x0, 0xFFFFFFFF, 0x0⟩,
  ⟨.secStageDrop, 0x9003C, [], 0x0, 0x0, 0x0, 0x0, 0xFFFFFFFF, 0x0⟩,
  ⟨.secOpkHash, 0x90040, [(16, 0x4)], 0x0, 0x0, 0x0, 0x0, 0xFFFFFFFF, 0x0⟩,
  ⟨.grdStatus, 0x20000, [], 0x0, 0x0, 0x0, 0x0, 0xFFFFFFFF, 0x0⟩,
  ⟨.grdCtrl, 0x20004, [], 0x0, 0x0, 0x0, 0x0, 0x0, 0x1⟩,
  ⟨.grdBfTxDrop, 0x20010, [], 0x0, 0x0, 0x0, 0x0, 0xFFFFFFFF, 0x0⟩,
  ⟨.grdConsentRefuse, 0x20014, [], 0x0, 0x0, 0x0, 0x0, 0xFFFFFFFF, 0x0⟩,
  ⟨.grdPcieRefuse, 0x20018, [], 0x0, 0x0, 0x0, 0x0, 0xFFFFFFFF, 0x0⟩,
  ⟨.grdFlashRefuse, 0x2001C, [], 0x0, 0x0, 0x0, 0x0, 0xFFFFFFFF, 0x0⟩,
  ⟨.grdWinBaseLo, 0x20100, [(2, 0x100), (8, 0x10)], 0xFFFFF000, 0x0, 0x0, 0x0, 0x0, 0x0⟩,
  ⟨.grdWinBaseHi, 0x20104, [(2, 0x100), (8, 0x10)], 0xFFFFFFFF, 0x0, 0x0, 0x0, 0x0, 0x0⟩,
  ⟨.grdWinCtl, 0x20108, [(2, 0x100), (8, 0x10)], 0x8000003F, 0x0, 0x0, 0x0, 0x0, 0x0⟩,
  ⟨.hubMbxReq, 0x50000, [(2, 0x4000), (1024, 0x4)], 0xFFFFFFFF, 0x0, 0x0, 0x0, 0x0, 0x0⟩,
  ⟨.hubMbxRsp, 0x51000, [(2, 0x4000), (1024, 0x4)], 0x0, 0x0, 0x0, 0x0, 0xFFFFFFFF, 0x0⟩,
  ⟨.hubMbxCmd, 0x52000, [(2, 0x4000)], 0x0, 0x0, 0x0, 0x0, 0x0, 0xFFFFFFFF⟩]

/-- Catalogue, part 10. -/
def catalogue10 : List RegDef := [
  ⟨.hubMbxStatus, 0x52004, [(2, 0x4000)], 0x0, 0x0, 0x60000000, 0x0, 0x9FFFFFFF, 0x0⟩,
  ⟨.hubMbxIrq, 0x52008, [(2, 0x4000)], 0x800007FF, 0x0, 0x0, 0x0, 0x0, 0x0⟩,
  ⟨.hubMbxBelfry, 0x58000, [], 0x0, 0x0, 0x0, 0x0, 0xC000FFFF, 0x0⟩,
  ⟨.hubMbxMctpDrop, 0x58004, [], 0x0, 0x0, 0x0, 0xFFFFFFFF, 0x0, 0x0⟩,
  ⟨.hubMbxMctpRx, 0x58008, [], 0x0, 0x0, 0x0, 0x0, 0xFFFFFFFF, 0x0⟩,
  ⟨.hubFlsStatus, 0xA0000, [], 0x0, 0x0, 0x0, 0x0, 0xFFFFFFFF, 0x0⟩,
  ⟨.hubFlsRsId, 0xA0004, [], 0x0, 0x0, 0x0, 0x0, 0xFFFFFF, 0x0⟩,
  ⟨.hubFlsErr, 0xA0008, [], 0x0, 0x0, 0x0, 0xFFFFFFFF, 0x0, 0x0⟩,
  ⟨.hubFlsProgKb, 0xA000C, [], 0x0, 0x0, 0x0, 0x0, 0xFFFFFFFF, 0x0⟩,
  ⟨.hubI3cCfg, 0xA0020, [], 0x0, 0x7F7F, 0x0, 0x0, 0x0, 0x0⟩,
  ⟨.hubI3cStatus, 0xA0024, [(2, 0x4)], 0x0, 0x0, 0x0, 0x0, 0xFFFFFFFF, 0x0⟩,
  ⟨.hubElsBusErr, 0xA0030, [(4, 0x4)], 0x0, 0x0, 0x0, 0xFFFFFFFF, 0x0, 0x0⟩,
  ⟨.evrCfg, 0x40000, [], 0x0, 0xFF77, 0x0, 0x0, 0x0, 0x0⟩,
  ⟨.evrCtrl, 0x40004, [], 0x0, 0x0, 0x0, 0x0, 0x0, 0x3⟩,
  ⟨.evrTest, 0x40008, [], 0x1, 0x0, 0x0, 0x0, 0x0, 0x0⟩,
  ⟨.evrStatus, 0x4000C, [], 0x0, 0x0, 0x0, 0x0, 0xF001FFFF, 0x0⟩,
  ⟨.evrSeqNext, 0x40010, [], 0x0, 0x0, 0x0, 0x0, 0xFFFFFFFF, 0x0⟩,
  ⟨.evrUnflushed, 0x40014, [], 0x0, 0x0, 0x0, 0x0, 0x1FFFF, 0x0⟩,
  ⟨.evrDrop, 0x40020, [(7, 0x4)], 0x0, 0x0, 0x0, 0x0, 0xFFFFFFFF, 0x0⟩,
  ⟨.evrDropFull, 0x4003C, [], 0x0, 0x0, 0x0, 0x0, 0xFFFFFFFF, 0x0⟩,
  ⟨.evrDropIn, 0x40040, [], 0x0, 0x0, 0x0, 0x0, 0xFFFFFFFF, 0x0⟩,
  ⟨.evrLost, 0x40044, [], 0x0, 0x0, 0x0, 0x0, 0xFFFFFFFF, 0x0⟩,
  ⟨.evrWinSel, 0x40080, [], 0x3FF, 0x0, 0x0, 0x0, 0x0, 0x0⟩,
  ⟨.evrFindSeq, 0x40084, [], 0xFFFFFFFF, 0x0, 0x0, 0x0, 0x0, 0x0⟩,
  ⟨.evrFindSlot, 0x40088, [], 0x0, 0x0, 0x0, 0x0, 0x8000FFFF, 0x0⟩,
  ⟨.evrStSel, 0x40090, [], 0xFFF, 0x0, 0x0, 0x0, 0x0, 0x0⟩,
  ⟨.evrWin, 0x41000, [(1024, 0x4)], 0x0, 0x0, 0x0, 0x0, 0xFFFFFFFF, 0x0⟩,
  ⟨.evrStWin, 0x42000, [(1024, 0x4)], 0x0, 0x0, 0x0, 0x0, 0xFFFFFFFF, 0x0⟩,
  ⟨.ocuCtrl, 0x1180000, [(8, 0x400000)], 0x0, 0x0, 0x0, 0x0, 0x0, 0x7⟩,
  ⟨.ocuFabBaseLo, 0x1180010, [(8, 0x400000)], 0x0, 0xFFFFF000, 0x0, 0x0, 0x0, 0x0⟩,
  ⟨.ocuFabBaseHi, 0x1180014, [(8, 0x400000)], 0x0, 0x800FFFFF, 0x0, 0x0, 0x0, 0x0⟩,
  ⟨.ocuOvf, 0x1180100, [(8, 0x400000), (16, 0x4)], 0x0, 0x0, 0xFFFFFFFF, 0x0, 0x0, 0x0⟩,
  ⟨.ocuSel, 0x1181000, [(8, 0x400000), (512, 0x4)], 0x0, 0xFFFCFFFF, 0x0, 0x0, 0x0, 0x0⟩,
  ⟨.ocuFlt, 0x1181800, [(8, 0x400000), (512, 0x4)], 0x0, 0xFFFFE7FF, 0x0, 0x0, 0x0, 0x0⟩,
  ⟨.ocuCntLo, 0x1182000, [(8, 0x400000), (512, 0x8)], 0x0, 0x0, 0x0, 0x0, 0xFFFFFFFF, 0x0⟩,
  ⟨.ocuCntHi, 0x1182004, [(8, 0x400000), (512, 0x8)], 0x0, 0x0, 0x0, 0x0, 0xFFFF, 0x0⟩,
  ⟨.ocuSnapLo, 0x1183000, [(8, 0x400000), (512, 0x8)], 0x0, 0x0, 0x0, 0x0, 0xFFFFFFFF, 0x0⟩,
  ⟨.ocuSnapHi, 0x1183004, [(8, 0x400000), (512, 0x8)], 0x0, 0x0, 0x0, 0x0, 0x8000FFFF, 0x0⟩,
  ⟨.ocuPortLo, 0x1184000, [(8, 0x400000), (256, 0x40), (8, 0x8)], 0x0, 0x0, 0x0, 0x0, 0xFFFFFFFF, 0x0⟩,
  ⟨.ocuPortHi, 0x1184004, [(8, 0x400000), (256, 0x40), (8, 0x8)], 0x0, 0x0, 0x0, 0x0, 0xFFFFFFFF, 0x0⟩]

/-- Catalogue, part 11. -/
def catalogue11 : List RegDef := [
  ⟨.ocuBwLo, 0x1188000, [(8, 0x400000), (256, 0x20), (4, 0x8)], 0x0, 0x0, 0x0, 0x0, 0xFFFFFFFF, 0x0⟩,
  ⟨.ocuBwHi, 0x1188004, [(8, 0x400000), (256, 0x20), (4, 0x8)], 0x0, 0x0, 0x0, 0x0, 0xFFFFFFFF, 0x0⟩,
  ⟨.ocuBwCfg, 0x118A000, [(8, 0x400000), (256, 0x4)], 0x0, 0x1F, 0x0, 0x0, 0x0, 0x0⟩,
  ⟨.ocuPeakClr, 0x118A400, [(8, 0x400000)], 0x0, 0x0, 0x0, 0x0, 0x0, 0xFFFFFFFF⟩,
  ⟨.ocuTpg, 0x118B000, [(8, 0x400000), (512, 0x4)], 0x0, 0xE000FFFF, 0x0, 0x0, 0x0, 0x0⟩,
  ⟨.pwrCfg, 0x30000, [], 0x0, 0xFFF, 0x0, 0x0, 0x0, 0x0⟩,
  ⟨.pwrThrCfg, 0x30004, [], 0x0, 0xFFFF1F, 0x0, 0x0, 0x0, 0x0⟩,
  ⟨.pwrThermCfg, 0x30008, [], 0x0, 0xFF, 0x0, 0x0, 0x0, 0x0⟩,
  ⟨.pwrUnitCfg, 0x3000C, [], 0x0, 0xFF0F, 0x0, 0x0, 0x0, 0x0⟩,
  ⟨.pwrTolDflt, 0x30010, [], 0x0, 0xFFFFFFFF, 0x0, 0x0, 0x0, 0x0⟩,
  ⟨.pwrTolCap, 0x30014, [], 0x0, 0xFFFFFFFF, 0x0, 0x0, 0x0, 0x0⟩,
  ⟨.pwrLatAdv, 0x30018, [], 0x0, 0xFFFFFFFF, 0x0, 0x0, 0x0, 0x0⟩,
  ⟨.pwrStatus, 0x30020, [], 0x0, 0x0, 0x0, 0x0, 0xF8000FFF, 0x0⟩,
  ⟨.pwrInW, 0x30024, [], 0x0, 0x0, 0x0, 0x0, 0xFFFF, 0x0⟩,
  ⟨.pwrPeakW, 0x30028, [], 0x0, 0x0, 0x0, 0xFFFF, 0x0, 0x0⟩,
  ⟨.pwrTolNow, 0x3002C, [], 0x0, 0x0, 0x0, 0x0, 0xFFFFFFFF, 0x0⟩,
  ⟨.pwrHostTol, 0x30030, [(2, 0x4)], 0x0, 0x0, 0x0, 0x0, 0xFFFFFFFF, 0x0⟩,
  ⟨.pwrLightCnt, 0x30038, [], 0x0, 0x0, 0x0, 0x0, 0xFFF, 0x0⟩,
  ⟨.pwrThrEvt, 0x30040, [], 0x0, 0x0, 0x0, 0x0, 0xFFFFFFFF, 0x0⟩,
  ⟨.pwrTripCnt, 0x30044, [], 0x0, 0x0, 0x0, 0x0, 0xFFFFFFFF, 0x0⟩,
  ⟨.pwrDie, 0x30080, [(8, 0x4)], 0x0, 0x0, 0x0, 0x0, 0xFFFFFFFF, 0x0⟩,
  ⟨.pwrSensor, 0x30100, [(96, 0x4)], 0x0, 0x0, 0x0, 0x0, 0xFFFF, 0x0⟩,
  ⟨.pwrRail, 0x30200, [(42, 0x4)], 0x0, 0x0, 0x0, 0x0, 0x8000FFFF, 0x0⟩,
  ⟨.hubId, 0x0, [], 0x0, 0x0, 0x0, 0x0, 0xFFFFFFFF, 0x0⟩,
  ⟨.hubRev, 0x4, [], 0x0, 0x0, 0x0, 0x0, 0xFFFFFFFF, 0x0⟩,
  ⟨.hubStraps, 0x8, [], 0x0, 0x0, 0x0, 0x0, 0x13F07, 0x0⟩,
  ⟨.hubSubsys, 0xC, [], 0xFFFFFFFF, 0x0, 0x0, 0x0, 0x0, 0x0⟩,
  ⟨.hubClkStatus, 0x10, [], 0x0, 0x0, 0x0, 0x0, 0x3, 0x0⟩,
  ⟨.hubOwn, 0x100, [], 0x0, 0x0, 0x0, 0x0, 0xC000FFFF, 0x30000000⟩,
  ⟨.hubOwnStatus, 0x104, [], 0x0, 0x0, 0xF, 0x0, 0x0, 0x0⟩,
  ⟨.hubOwnViol, 0x108, [(2, 0x4)], 0x0, 0x0, 0x0, 0xFFFFFFFF, 0x0, 0x0⟩,
  ⟨.hubHostCfg, 0x110, [(2, 0x4)], 0x80000000, 0x0, 0x0, 0x0, 0x0, 0x0⟩,
  ⟨.hubBar4BaseLo, 0x118, [(2, 0x8)], 0xFFFFFFFF, 0x0, 0x0, 0x0, 0x0, 0x0⟩,
  ⟨.hubBar4BaseHi, 0x11C, [(2, 0x8)], 0x1FF, 0x0, 0x0, 0x0, 0x0, 0x0⟩,
  ⟨.hubEvtIrq, 0x130, [(2, 0x4)], 0xF00007FF, 0x0, 0x0, 0x0, 0x0, 0x0⟩,
  ⟨.hubHpStatus, 0x60000, [(2, 0x10000)], 0x0, 0x0, 0x0, 0x0, 0xCF1F1F03, 0x0⟩,
  ⟨.hubHpCeCnt, 0x60004, [(2, 0x10000)], 0x0, 0x0, 0x0, 0x0, 0xFFFFFFFF, 0x0⟩,
  ⟨.hubHpUeCnt, 0x60008, [(2, 0x10000)], 0x0, 0x0, 0x0, 0x0, 0xFFFFFFFF, 0x0⟩,
  ⟨.hubHpCtoCnt, 0x6000C, [(2, 0x10000)], 0x0, 0x0, 0x0, 0x0, 0xFFFFFFFF, 0x0⟩,
  ⟨.hubHpCtrl, 0x60010, [(2, 0x10000)], 0x0, 0x0, 0x0, 0x0, 0x0, 0x1⟩]

/-- Catalogue, part 12. -/
def catalogue12 : List RegDef := [
  ⟨.hubMsixPba, 0x60100, [(2, 0x10000), (64, 0x4)], 0x0, 0x0, 0x0, 0x0, 0xFFFFFFFF, 0x0⟩,
  ⟨.hubMsixTable, 0x68000, [(2, 0x10000), (8192, 0x4)], 0xFFFFFFFF, 0x0, 0x0, 0x0, 0x0, 0x0⟩]

/-- The register catalogue. -/
def catalogue : List RegDef :=
  catalogue1 ++ catalogue2 ++ catalogue3 ++ catalogue4 ++ catalogue5 ++ catalogue6 ++ catalogue7 ++ catalogue8 ++ catalogue9 ++ catalogue10 ++ catalogue11 ++ catalogue12

/-- The index that an offset beyond a register's base names, through dimensions outermost first. -/
def dimIndex : List (Nat × Nat) → Nat → Nat → Option Nat
  | [], x, i => if x = 0 then some i else none
  | (c, st) :: t, x, i => if x / st < c then dimIndex t (x % st) (i * c + x / st) else none

/-- The index of a row that a BAR0 offset names, if it lies in the row. -/
def rowIndex (e : RegDef) (off : Nat) : Option Nat :=
  if off < e.base then none else dimIndex e.dims (off - e.base) 0

/-- The catalogue row and index at a BAR0 offset (R483); none where no register lies (R7). -/
def findReg : List RegDef → Nat → Option (RegDef × Nat)
  | [], _ => none
  | e :: t, off => match rowIndex e off with
    | some i => some (e, i)
    | none => findReg t off

/-- The register at a BAR0 offset. -/
def regAt (off : Nat) : Option (RegDef × Nat) := findReg catalogue off

/-- The catalogue row of a register. -/
def rowOf (r : Reg) : Option RegDef := catalogue.find? (fun e => e.reg == r)

/-- The offset of an index within its dimensions, innermost first. -/
def dimOffset : List (Nat × Nat) → Nat → Nat
  | [], _ => 0
  | (c, st) :: t, i => i % c * st + dimOffset t (i / c)

/-- The BAR0 offset of register r, index i. -/
def regOffset (r : Reg) (i : Nat) : Nat :=
  match rowOf r with
  | some e => e.base + dimOffset e.dims.reverse i
  | none => 0

/-- The register of a key of State's maps. -/
def keyRow (k : Nat) : Option (RegDef × Nat) :=
  (catalogue.find? (fun e => e.reg.ctorIdx == k % 512)).map (fun e => (e, k / 512))

/-- The BAR0 offset of a key of State's maps. -/
def keyOffset (k : Nat) : Nat :=
  match keyRow k with
  | some (e, i) => e.base + dimOffset e.dims.reverse i
  | none => 0

/-- The commit domain of a BAR0 offset: 0 the hub, 1 + n die n and its Lanterns (02 R39, Table 2-1). -/
def offDomain (off : Nat) : Nat :=
  if off < 0x1000000 then 0
  else if off < 0x3000000 then 1 + (off - 0x1000000) / 0x400000
  else 1 + (off - 0x3000000) / 0x100000 / 2

/-- The commit domain of a key of State's maps. -/
def keyDomain (k : Nat) : Nat := offDomain (keyOffset k)

end Sys2Proof.Machine
end

