-- ==== Sys2Proof/Machine/State.lean ====
section
/-! DEFINITION. The state of the device: every piece the spec gives it, as plain data, and the state at reset. -/

namespace Sys2Proof.Machine

/-! Time and commits (02_bell_and_time.md). -/

/-- Why a joint commit that is still validating will be discarded (02 R38, R44). -/
inductive Doom where
  | none | cancelled | renumbered
deriving DecidableEq, Repr

/-- A joint commit (02 R40): its domains, its target bell (0: the first bell after validation), the captured shadows,
whether validation has completed, and what discards it when it does. -/
structure Commit where
  mask : Nat
  target : Nat
  captured : SMap Word
  pending : Bool
  doom : Doom
  /-- The domains that the cancel which doomed it named (02 R44). -/
  named : Nat
deriving DecidableEq, Repr

/-- Fabric time, the bell and the commits under way. -/
structure TimeSt where
  /-- Fabric time in units of 2^-40 ns (R32): seconds, nanoseconds and the 40 fraction bits in one count. -/
  now : Nat := 0
  /-- The increment in force, 8.40 ns (R33). -/
  inc : Nat := 0xAAAAAAAAAB
  /-- The last bell fired (R35, R37). -/
  bell : Nat := 0
  /-- Bells skipped by forward steps and not yet caught up (R37). -/
  skipped : Nat := 0
  commits : List Commit := []
  /-- The level of PPS_OUT (R52). -/
  ppsOut : Bool := false
deriving DecidableEq, Repr

/-! The recorder (17_recorder_and_counters.md). -/

/-- An event offered to the recorder, with bell and time taken at its origin (17 R432). -/
structure Event where
  origin : Nat
  code : Nat
  sev : Nat
  w : List Nat
  bell : Nat
  sec : Nat
  ns : Nat
  /-- Repeats that its record takes with it (04 R120). -/
  extra : Nat
deriving DecidableEq, Repr

/-- A record slot (Table 17-1); seq 0 is an empty slot. -/
structure Rec where
  seq : Nat
  wcount : Nat
  flushed : Bool
  sev : Nat
  origin : Nat
  code : Nat
  rep : Nat
  bell : Nat
  lastBell : Nat
  sec : Nat
  ns : Nat
  w : List Nat
deriving DecidableEq, Repr

/-- A header copy of the record store (Table 17-2). -/
structure StoreHdr where
  gen : Nat := 0
  nextIdx : Nat := 0
  wrapped : Bool := false
  bell : Nat := 0
  left : Nat := 0
  refused : Nat := 0
deriving DecidableEq, Repr

/-- The recorder and the record store. -/
structure RecSt where
  slots : SMap Rec := []
  /-- The events each origin has queued, oldest first (R434). -/
  queues : SMap (List Event) := []
  /-- The slot of each origin's last record (R435). -/
  last : SMap Nat := []
  flushing : Bool := false
  /-- A trigger that no running flush covers (R439). -/
  trigger : Bool := false
  /-- PWR_WARN_N asserted: events are refused and counted (R440). -/
  warn : Bool := false
  refused : Nat := 0
  storeErr : Bool := false
  /-- The record store: present on its bus, journal entries and the two header copies (R441). -/
  present : Bool := false
  /-- The writes that the store still takes before it fails, and whether it reports the error; none while it is sound: what the
  board's part does (assumption 8). -/
  fault : Option (Nat × Bool) := none
  journal : SMap Rec := []
  hdrA : StoreHdr := {}
  hdrB : StoreHdr := {}
deriving DecidableEq, Repr

/-! Links (03_cells_and_links.md). -/

/-- How a logical port entered DOWN (03 R487): what lets it leave. -/
inductive DownBy where
  | reset | holdoff | farDown | admin
deriving DecidableEq, Repr

/-- One training or lane-control record a port sends until acknowledged (03 R82, 14 R379). -/
structure TxRec where
  typ : Nat
  seq : Nat
  lane : Nat
  body : List Byte
deriving DecidableEq, Repr

/-- The link layer of one logical port (03 R60 to R64, R82). The state, reason and far-end bits of PLN_LNK_STATUS stand
in that register. -/
structure Port where
  downBy : DownBy := .reset
  /-- Sending: next sequence number, groups sent and not acknowledged (seq, the 512 bytes), expiries of rule R64 in a row,
  the seq and time of the replay started last, the seq of a NAK whose replay waits for a group boundary, and groups still
  to be sent again. -/
  txSeq : Nat := 0
  unacked : List (Nat × List Byte) := []
  stalls : Nat := 0
  lastReplay : Option (Nat × Nat) := none
  replayReq : Option Nat := none
  resend : List (Nat × List Byte) := []
  /-- Cells chosen for the groups to come, and maintenance cells with the lane they go on, oldest first. -/
  txCells : List (List Byte) := []
  txMnt : List (Nat × List Byte) := []
  /-- The first group of each lane of a codeword pair, kept until the second completes the pair (R56). -/
  pairHalf : List (List Byte) := []
  /-- Receiving: expected sequence number and whether a NAK stands (R63). -/
  rxSeq : Nat := 0
  nak : Bool := false
  /-- Groups received by stripe position and not yet put together: none for a codeword discarded (R57, R58). -/
  rxLanes : SMap (List (Option (List Byte))) := []
  /-- Training: records sent until acknowledged, the next rec_seq, the lanes whose TS_ALIGN arrived, the lanes whose
  TS_IDENT was accepted, and what both ends have acknowledged. -/
  sending : List TxRec := []
  recSeq : Nat := 0
  alignLanes : List Nat := []
  identLanes : List Nat := []
  identAcked : Bool := false
  paramSeen : Bool := false
  paramAcked : Bool := false
  /-- In service since reset or since enable went to 1, and in service for the first time since then (04 R119). -/
  served : Bool := false
  fresh : Bool := false
  /-- The live bit is to be cleared at the next bell (04 R117). -/
  leaving : Bool := false
  /-- PCS alignment of an Ethernet-framed port (03 R87). -/
  pcs : Bool := false
  /-- Cell overruns in this bell (03 R70). -/
  overruns : Nat := 0
deriving DecidableEq, Repr

/-- Credits of one logical port and VC (03 R69 to R71): advertised at training by this end and not yet promised, held by
the far end, the far end's advertisement, and credits to return. -/
structure Credit where
  adv : Nat := 0
  far : Nat := 0
  farAdv : Nat := 0
  owed : Nat := 0
deriving DecidableEq, Repr

/-- Alignment of one optical lane: good and bad pairs in a row (03 R56). -/
structure Align where
  aligned : Bool := false
  good : Nat := 0
  bad : Nat := 0
deriving DecidableEq, Repr

/-- The links. Maps are by logical port, by port × 8 + VC, or by fibre × 9 + lane. -/
structure LinkSt where
  ports : SMap Port := []
  credits : SMap Credit := []
  lanes : SMap Align := []
  /-- The packet open on a port and VC (R68): its number in the packet store, none while the rest is discarded. -/
  opens : SMap (Option Nat) := []
  /-- Ports that have left service and whose engines have not been told yet: empty between commands. -/
  lost : List Nat := []
deriving DecidableEq, Repr

/-! Lantern optics (14_lantern_optics.md). -/

/-- A spare migration of a fibre as its near end runs it (14 R383): the port and position, the switch bell, the bell at
which dual sending began, whether MIG_DONE has arrived, and whether it runs back to the lane. -/
structure Mig where
  lp : Nat
  pos : Nat
  bell : Nat
  dual : Option Nat
  done : Bool
  back : Bool
  /-- MIG_READY has arrived for the way back to the lane. -/
  ready : Bool
deriving DecidableEq, Repr

/-- A migration as the far end follows it: identical pairs in a row, and pairs of the spare and of the lane not compared
yet. -/
structure RxMig where
  lp : Nat
  pos : Nat
  bell : Nat
  back : Bool
  ready : Bool
  same : Nat
  spare : List (List Byte)
  lane : List (List Byte)
  /-- A TS_ALIGN has shown the skew of the lane it moves to within 40 ns. -/
  skew : Bool
deriving DecidableEq, Repr

/-- What the Lanterns hold beside their registers. A ring is (fibre × 2 + direction) × 9 + lane. -/
structure LanSt where
  /-- Stored heater settings by ring × 32 + source × 16 + line (R375). -/
  stored : SMap Nat := []
  /-- Rings whose VERIFY follows a retune (R374). -/
  retuned : List Nat := []
  /-- Fibres whose fenced rings clear at the next retrain (R388), and those that received a valid probe (R387). -/
  unfence : List Nat := []
  seen : List Nat := []
  mig : SMap Mig := []
  rxMig : SMap RxMig := []
  /-- The position whose migration is to be tried again, by fibre (R383). -/
  retry : SMap Nat := []
  /-- Planned source switches by fibre: the bell (R385). Logical ports that have stopped sending for one. -/
  planned : SMap Nat := []
  stopped : List Nat := []
  /-- Heartbeat holds by port: the bell and the duration in 0.1 µs (R380). -/
  holds : SMap (Nat × Nat) := []
  /-- Readings in a row beyond a threshold, by (module × 16 + line) × 4 + 0 below -1.5 dB, 1 below -3 dB, 2 and 3 back
  above them (R382). -/
  runs : SMap Nat := []
  /-- Lanterns whose lines' provisioned level has been measured since cold reset (R381). -/
  calibrated : List Nat := []
  /-- A port that switched circuits and is to be set live without a hold (R373). -/
  circuit : List Nat := []
  /-- Modules that CMIS does not find, and modules whose ELS_EN_N is asserted (R369). -/
  absent : List Nat := []
  elsEn : List Nat := []
  /-- Fibres that have used a source: LAN_FIB_STATUS.src_used shows it (R370). -/
  lit : List Nat := []
  /-- The last position that a receive side took over, by fibre, and whether it went back to its lane (R383). -/
  taken : SMap (Nat × Bool) := []
deriving DecidableEq, Repr

/-! Packets in the device (06_keep_buffer.md, 04_forwarding.md). -/

/-- What an Ethernet frame is rewritten to for one copy (04 R110): the chosen member's words. -/
structure Rewrite where
  vlan : Nat
  dmac : Nat
  encap : Nat
  /-- The priority bits of a tag that the copy adds (assumption 12). -/
  pri : Nat
deriving DecidableEq, Repr

/-- One target of a forwarded packet (04 R100). -/
structure Target where
  lp : Nat
  rw : Rewrite
deriving DecidableEq, Repr

/-- What the ingress pipeline found in an Ethernet frame (04 R109, 06 R155). -/
structure FrameInfo where
  /-- The length fixed at the head, from destination address to the last payload byte. -/
  fixed : Nat
  routed : Bool
  /-- Where the IP header starts, with its version (0: none). -/
  ipOff : Nat
  ipVer : Nat
  hash : Nat
  /-- The generation looked up. -/
  gen : Nat
  /-- Its source was found excess at the head (05 R146). -/
  excess : Bool
  /-- The router MAC in force at the head lookup (02 R46). -/
  rmac : Nat
deriving DecidableEq, Repr

/-- Where a packet stands. -/
inductive Phase where
  /-- Staged: its head waits for the lookup. -/
  | head
  /-- An Ethernet head waiting for a LET read from HBM (05 R143). -/
  | letWait
  /-- A lossless head refused admission, waiting in staging (06 R157). -/
  | wait
  /-- A head for an engine that could not reserve its answer, waiting in staging (06 R179). -/
  | waitEngine
  /-- Admitted: the Keep holds it. -/
  | kept
  /-- Consumed: it goes to its engine at the tail. -/
  | engine
  /-- Dropped: what still arrives is discarded. -/
  | gone
deriving DecidableEq, Repr

/-- Which cells of the Keep a packet holds (Table 6-1). -/
inductive Pool where
  | staging | vc1 | vc5 | vc6 | vc7 | spill | shared | none
deriving DecidableEq, Repr

/-- Cells reserved for an answer (06 R179). -/
structure Resv where
  die : Nat := 0
  pool : Pool := .none
  cells : Nat := 0
deriving DecidableEq, Repr

/-- Where a spilled packet stands (06 R176): to be written, in HBM, or read back into the stage. -/
inductive Spill where
  | no | stage | hbm | back
deriving DecidableEq, Repr

/-- A packet in the device. An Ethernet frame is held as its bytes from destination address to the last payload byte. -/
structure Held where
  pkt : Pkt
  /-- none: the device originated it. -/
  lp : Option Nat
  die : Nat
  /-- The pipeline that its decisions are counted on. -/
  pl : Nat
  frame : Option FrameInfo := .none
  phase : Phase := .head
  /-- Its tail has arrived. -/
  done : Bool := false
  /-- Its copies end with an ABORT TAIL or an inverted FCS. -/
  bad : Bool := false
  /-- It began with a SOLO; the valid_bytes of that SOLO. -/
  solo : Option Nat := .none
  /-- Cells received, and those still in the credit reserve. -/
  rcvd : Nat := 0
  staged : Nat := 0
  pool : Pool := .none
  /-- Cells held in the pool. -/
  cells : Nat := 0
  refs : Nat := 0
  targets : List Target := []
  mcast : Bool := false
  colour : Colour := .green
  spill : Spill := .no
  /-- While it is in HBM: the 64-byte cells of the spill region that hold its payload bytes, in order, and how many bytes those
  are (06 R176). -/
  spillAt : List Nat := []
  spillLen : Nat := 0
  resv : Resv := {}
  /-- The window that the head lookup of a memory request matched (11 R286). -/
  win : Option (Option (Nat × List Word)) := .none
  /-- Fabric time at its ingress timestamp point (02 R49). -/
  tin : Nat := 0
  /-- Belfry waits for its egress time (02 R51). -/
  stamp : Bool := false
  /-- Counted in TIM_TC_SKIP (02 R50). -/
  skipped : Bool := false
  /-- Ended by its ingress port going down in mid-frame (06 R167). -/
  under : Bool := false
  /-- The head-stall watchdog has tripped for it (15 R390). -/
  tripped : Bool := false
deriving DecidableEq, Repr

/-- One copy in an egress queue. -/
structure QEnt where
  pid : Nat
  lp : Nat
  /-- The queue it was placed in (07 R184). -/
  q : Nat
  ce : Bool
  rw : Rewrite
  /-- Eligible before the tail has arrived (06 R165). -/
  cut : Bool
deriving DecidableEq, Repr

/-- A transmit slot of a port and VC (06 R166). -/
structure Slot where
  ent : QEnt
  /-- Cells sent. -/
  pos : Nat
  /-- The bell at which its gate window closes, if it was selected under a gate (07 R203). -/
  closes : Option Nat
  /-- The residence time at the copy's egress timestamp point, the first bit of its head cell (02 R49). -/
  res : Nat
deriving DecidableEq, Repr

/-- A source rate limiter (06 R175): its key, rate and port rate in Gb/s, bells since the last echo or rise, and the
fabric time before which no packet of the flow goes to admission. -/
structure Limiter where
  did : Nat
  flow : Nat
  vc : Nat
  rate : Nat
  portRate : Nat
  idle : Nat
  next : Nat
deriving DecidableEq, Repr

/-- A flow the device originates: the logical port it last used (06 R175). -/
structure FlowPort where
  did : Nat
  flow : Nat
  vc : Nat
  lp : Nat
deriving DecidableEq, Repr

/-- A CONG_ECHO being coalesced (06 R174). -/
structure EchoEnt where
  sid : Nat
  flow : Nat
  vc : Nat
  tenant : Nat
  tclass : Nat
  count : Nat
deriving DecidableEq, Repr

/-- A packet an engine holds until it is admitted (Table 6-2), with the port it is sent through, if its chapter names
one; once looked up it keeps its targets. -/
structure Unsent where
  die : Nat
  pkt : Pkt
  via : Option Nat
  looked : Bool
  targets : List Target
  mcast : Bool
  stamp : Bool
  /-- What its admission frees, 0 for nothing (09 R247). -/
  ref : Nat
  /-- What is reserved for it (06 R179). -/
  resv : Resv
deriving DecidableEq, Repr

/-- A packet handed to an engine and not yet taken by its command, with what is reserved for the answer. -/
structure Handed where
  lp : Nat
  pkt : Pkt
  resv : Resv
  /-- Its place among the packets received, and the cells of a memory request that are still in ingress staging (11 R305). -/
  seq : Nat := 0
  cells : Nat := 0
  /-- The window that its head lookup matched, if that has been done (11 R286). -/
  win : Option (Option (Nat × List Word)) := none
  /-- The head-stall watchdog has tripped for it (15 R390). -/
  tripped : Bool := false
deriving DecidableEq, Repr

/-- The Keep. -/
structure KeepSt where
  nextPid : Nat := 0
  pkts : SMap Held := []
  /-- Cells held, by die × 8 + pool; reserved cells are counted here as well (R179). -/
  used : SMap Nat := []
  /-- Depth and avg of each queue (R159, R161). -/
  depth : SMap Nat := []
  avg : SMap Nat := []
  /-- Cells waiting by port × 8 + VC (R160). -/
  lpDepth : SMap Nat := []
  /-- Depths as sent at the last exchange, and cells each die admitted since, by die × 2^20 + queue (R160); likewise by
  port and VC. -/
  depthSnap : SMap Nat := []
  depthOwn : SMap Nat := []
  lpSnap : SMap Nat := []
  lpOwn : SMap Nat := []
  /-- Egress queues, by queue × 8 + VC. -/
  queues : SMap (List QEnt) := []
  slots : SMap Slot := []
  /-- The round-robin among VCs of a port: the VC served last, and by port × 8 + VC what is left of a turn (R181). -/
  rrLast : SMap Nat := []
  deficit : SMap Int := []
  wredLfsr : SMap Nat := []
  echoes : SMap (List EchoEnt) := []
  limiters : SMap (List Limiter) := []
  flows : SMap (List FlowPort) := []
  /-- Failures of retraining in a row, by die × 8 + peer (R168). -/
  meshFails : SMap Nat := []
  unsent : List Unsent := []
  handed : List Handed := []
  /-- Cells held in HBM spill, by die (R176). -/
  spilled : SMap Nat := []
deriving DecidableEq, Repr

/-! Forwarding (04_forwarding.md). -/

/-- A flowlet table entry (04 R106). -/
structure Flowlet where
  gen : Nat
  group : Nat
  offset : Nat
  time : Nat
deriving DecidableEq, Repr

/-- Forwarding state of dies and pipelines. -/
structure FwdSt where
  /-- Spray LFSRs by pipeline (R105); reset value 1, the seed 0 replaced. -/
  lfsr : SMap Nat := []
  /-- last[x][g] by pipeline, generation and group (R105). -/
  last : SMap Nat := []
  flowlets : SMap Flowlet := []
  /-- Pipelines and reasons that offered a FWD_DROP event in this bell (R120). -/
  offered : List (Nat × Nat) := []
deriving DecidableEq, Repr

/-! Tables (05_tables.md). -/

/-- A broadcast TAP command (05 R134). -/
structure BcCmd where
  seq : Nat
  op : Nat
  table : Nat
  gen : Nat
  key : List Word
  data : List Word
  /-- FLUSH: slots landed so far (R136). -/
  done : Nat
deriving DecidableEq, Repr

/-- A LET key (05 R139) with the port it is learned at and the frame, if it is one's (Table 5-5). -/
structure Learn where
  kind : Nat
  tenant : Nat
  vlan : Nat
  addr : Nat
  lp : Nat
  pid : Option Nat
deriving DecidableEq, Repr

/-- Tables and their access ports. -/
structure TabSt where
  /-- On-die entries as their words, by table key; an indexed entry of zeros is not listed. One image stands for the identical
  copies of a replicated table (R122, R131). -/
  ent : SMap (List Word) := []
  /-- Entries with bad parity, by table key × 8 + die (R125). -/
  bad : SMap Bool := []
  /-- LET slots the on-die cache holds, by pipeline (R143), and page-map entries that it holds, by die (11 R291): the two words
  of each. -/
  letCache : SMap (List Nat) := []
  pmapCache : SMap (List (List Nat)) := []
  /-- Learned entries counted per pipeline and tenant limit slot (R146). -/
  letTenant : SMap Nat := []
  /-- Pending insertions of each pipeline's learn queue (R145). -/
  learnQ : SMap (List Learn) := []
  /-- The broadcast queue, oldest first, and the command held for a full queue (R135). -/
  bcQueue : List BcCmd := []
  bcHeld : Option BcCmd := none
  /-- The TAP_CMD word of the operation under way on each TAP (R129). -/
  busy : SMap Nat := []
  /-- Operations of die TAPs that wait for a class of their stack that is paused (12 R329): op and TAP_CMD word. -/
  tapHeld : SMap (Nat × Word) := []
  /-- Where the scrubber and the ager stand (R127, R142). -/
  scrubPos : SMap Nat := []
  agerPos : SMap Nat := []
  /-- Windows closed by a reclaim until they are written again (11 R315, 13 R362). -/
  closed : List Nat := []
deriving DecidableEq, Repr

/-! Scheduling (07_scheduling.md). -/

/-- A token bucket: tokens in units of 1/(8000 × 2^40) byte, and the fabric time of the last refill (07 R194). -/
structure Bucket where
  tok : Int := 0
  last : Nat := 0
deriving DecidableEq, Repr

/-- Scheduler state: buckets of ports, nodes and leaves, tags and virtual times (07 R191, R194). -/
structure SchSt where
  portTok : SMap Bucket := []
  nodeTok : SMap Bucket := []
  leafTok : SMap Bucket := []
  /-- Meter buckets tc and tp or te by pipeline × 4096 + index (R198). -/
  metC : SMap Bucket := []
  metP : SMap Bucket := []
  nodeS : SMap Nat := []
  leafS : SMap Nat := []
  dfltS : SMap Nat := []
  portV : SMap Nat := []
  nodeV : SMap Nat := []
  /-- The node whose packets a leaf holds (R189), and the entry a leaf takes when it empties. -/
  owner : SMap Nat := []
  after : SMap (List Word) := []
  /-- Packets counted in SCH_GATE_WAIT already: packet and port (R202). -/
  waited : List (Nat × Nat) := []
deriving DecidableEq, Repr

/-! Collectives and tiles (08_cupola_arithmetic.md, 09_collectives.md). -/

/-- An armed operation (Table 9-5) with the descriptor that armed it. -/
structure CollOp where
  /-- The descriptor's index on the group's ring. -/
  idx : Nat
  op : Nat
  tclass : Nat
  chunkElems : Nat
  /-- The arithmetic control word. -/
  cw : Nat
  elems : Nat
  seq : Nat
  /-- The selected port, if sel_valid = 1. -/
  sel : Option Nat
  first : Nat
  n : Nat
  /-- Chunks finished here (R242), and of a ROOT the chunks sent down. -/
  fin : List Nat := []
  /-- The count N that the done marker carries. -/
  total : Nat := 0
  /-- Contributions sent up, by chunk, kept for a refusal (R244). -/
  sent : SMap Pkt := []
  /-- The ring watchdog has tripped for its descriptor (15 R390). -/
  tripped : Bool := false
deriving DecidableEq, Repr

/-- An open chunk bound to a slot of a tile (R247). -/
structure Chunk where
  seq : Nat
  chunk : Nat
  ct : Nat
  slot : Nat
  kids : List Nat
  count : Nat
  accs : List Acc
  /-- Fabric time at which its first contribution was accepted (R256). -/
  since : Nat
deriving DecidableEq, Repr

/-- A chunk whose packet waits for the Keep (R242): its operation, its number, the count it carries, and what its admission
frees. -/
structure Sending where
  seq : Nat
  chunk : Nat
  total : Nat
  ref : Nat
deriving DecidableEq, Repr

/-- What a group holds beside its context: the children read at activation (R236), its armed operations, its open chunks,
and refused contributions with the bell at which they go again. -/
structure GroupSt where
  kids : List Nat := []
  armed : List CollOp := []
  chunks : List Chunk := []
  again : List (Pkt × Nat) := []
  /-- Chunks handed over and not yet admitted to the Keep, and what the admission of the oldest operation's done marker
  frees, 0 while none waits (R242). -/
  sending : List Sending := []
  marker : Nat := 0
deriving DecidableEq, Repr

/-- Who holds a tile slot: a group's reservation, with what the chunk whose result is being admitted waits for, or a
lookup of a die (R238, 10 R265). -/
inductive SlotUse where
  | group (g ref : Nat)
  | lookup (die i : Nat)
  /-- A sample's slot on a Sentinel tile (15 R400): the die's retain record. -/
  | sentinel (die k : Nat)
deriving DecidableEq, Repr

/-- The collective engines. Slots are by tile × 32 + slot. -/
structure ColSt where
  groups : SMap GroupSt := []
  slots : SMap SlotUse := []
  nextRef : Nat := 1
  /-- Poisoned slots (08 R230), by tile × 32 + slot. -/
  poisoned : List Nat := []
  /-- The tile at which a die's round-robin over tiles for lookups starts (10 R265). -/
  rr : SMap Nat := []
deriving DecidableEq, Repr

/-! The Sentinel (15_faults_and_recovery.md R399 to R406). -/

/-- Where a sample stands: its inputs arrive, both tiles have rounded, or a mismatch is being replayed. -/
inductive SampleStage where
  | filling | rounded | replaying
deriving DecidableEq, Repr

/-- What the rounding of a sampled candidate took beside its inputs (08 R221, R228): the operation and width of its adds, its
elements, the arithmetic of its rounding, the seed, the seq and the index of its first element. -/
structure SampleHow where
  op : Nat := 0
  w : Nat := 0
  n : Nat := 0
  cfg : RoundCfg := ⟨0, 0, 1, false, false, false⟩
  seed : Nat := 0
  seq : Nat := 0
  first : Nat := 0
deriving DecidableEq, Repr

/-- A sampled chunk or lookup in a retain record (R400): a table's lookup or a group's chunk, the serving tile, the
Sentinel and its slot. -/
structure Sample where
  table : Bool
  id : Nat
  seq : Nat
  chunk : Nat
  cw : Nat
  ct : Nat
  sct : Nat
  slot : Nat
  stage : SampleStage
  /-- The bin of the comparison (R403), and the replays so far: 0 equals O, 1 equals S, 2 neither. -/
  bin : Nat := 0
  outs : List Nat := []
  /-- The retained inputs, last first, how they are rounded, and the results of the serving tile (O) and of the
  Sentinel (S). -/
  ins : List (List Elem) := []
  how : SampleHow := {}
  o : List Byte := []
  s : List Byte := []
deriving DecidableEq, Repr

/-- What the Sentinels hold beside their registers. Samples by die × 8 + retain record. -/
structure SenSt where
  samples : SMap Sample := []
  /-- Dies whose role moves at the next bell, and the tile that takes it once its lookups have ended (R399). -/
  rotate : List Nat := []
  next : SMap Nat := []
  /-- Tiles decided for fencing, with the cause (R404). -/
  fences : SMap Nat := []
  /-- Entries of the flash fence log that are to be written: tile, and whether it is added (R404, R405). -/
  logQueue : List (Nat × Bool) := []
  /-- The device fence log (R405), by tile: kept in flash. -/
  log : List Nat := []
  /-- The pattern packs loaded from the image (R406), by number with their bytes, and the last one run. -/
  packs : SMap (List Byte) := []
  pack : Option Nat := none
deriving DecidableEq, Repr

/-! Rings (13_rings_and_tenants.md). -/

/-- A completion record that is to be written (Table 13-6), with irq and ev of its descriptor. -/
structure CRec where
  idx : Nat
  kind : Nat
  status : Nat
  final : Bool
  code : Nat
  prog : Nat
  result : Nat
  irq : Bool
  ev : Bool
deriving DecidableEq, Repr

/-- The descriptor a ring runs or holds after it has started: its index and bytes, its progress, the CRC of a CHECKSUM so
far, the broadcast command a TABLE_LOAD waits for, and the slot of the get its unit waits for (R359). -/
structure Run where
  idx : Nat
  desc : List Byte
  prog : Nat := 0
  acc : Nat := 0
  get : Option Nat := none
  /-- Its unit is in flight (R344); if not, its place in the die's turn for one, 0 for none. -/
  live : Bool := false
  turn : Nat := 0
  /-- A descriptor has landed on the table of its SNAPSHOT or RESTORE, which is abandoned (10 R262). -/
  dropped : Bool := false
  /-- Stacks that have left ACTIVE for FENCED or TRAINING while its unit was in flight (12 R331). -/
  gone : List Nat := []
  /-- The ring watchdog has tripped for it (15 R390). -/
  tripped : Bool := false
deriving DecidableEq, Repr

/-- What a ring holds beside its context. -/
structure RingSt where
  run : Option Run := none
  /-- A loop exit is pending (R345). -/
  loopExit : Bool := false
  /-- A status that took the ring to ERROR has ended its loop (R345). -/
  loopOver : Bool := false
  /-- Completion records that wait for a free entry, oldest first (R353). -/
  recs : List CRec := []
  /-- A CANCEL is ending the current descriptor; its all bit (R357). -/
  cancelAll : Bool := false
deriving DecidableEq, Repr

/-- An outstanding get: the ring, the offset and length of the unit. -/
structure Get where
  ring : Nat
  off : Nat
  len : Nat
deriving DecidableEq, Repr

/-- A reclaim under way (R361): from the start until its end; bell b has passed. -/
structure Reclaim where
  tenant : Nat
  scrub : Bool
  begun : Bool
  /-- Fabric time of bell b. -/
  at' : Nat
  quiesced : Bool
deriving DecidableEq, Repr

/-- The ring engines. Rings by number, gets by die × 8192 + slot. -/
structure RngSt where
  rings : SMap RingSt := []
  gets : SMap Get := []
  reclaim : Option Reclaim := none
  /-- The last place given in the turn for units (R344). -/
  turns : Nat := 0
  /-- Tenants reclaimed and not released (R363), and tenants whose embedding tables refuse (10 R282), by table. -/
  reclaimed : List Nat := []
  embClosed : List Nat := []
deriving DecidableEq, Repr

/-! The rack memory fabric (11_rack_memory_fabric.md). -/

/-- A pending-table entry (R299). -/
structure MemEnt where
  lp : Nat
  p : Pkt
  resv : Resv
  /-- Arrival number, over the chip. -/
  ord : Nat
  /-- The port of a PEER target. -/
  peer : Option Nat
  /-- The HPA or the peer address of the request, and the index of its window. -/
  addr : Nat
  win : Nat
  nc : Bool
  /-- It still orders its source (R305, R316). -/
  holds : Bool
  /-- The entry that leads the access or combined run it was issued in, itself for the first (R308 to R310). -/
  run : Option Nat := none
  /-- Of a waiting store: the bytes of its line that no later store covers, the stores that cover some, and the one whose
  completion completes it once it is absorbed (R311). -/
  rem : Nat
  covers : List Nat := []
  cover : Option Nat := none
  /-- The code and subcode of a covering store's refusal. -/
  nak : Option (Nat × Nat) := none
  /-- Answered, and kept from being used again (R301, R315). -/
  quar : Bool := false
deriving DecidableEq, Repr

/-- An HBM access that waits because its class is paused in its stack (12 R330), or behind a write that waits so (12 R325):
a host's BAR4 read, or a write of a class. -/
inductive Later where
  | hostRead (h off a n : Nat)
  | write (a : Nat) (bytes : List Byte) (cls : Nat)
deriving DecidableEq, Repr

/-- The memory fabric units. Entries by die × 32768 + entry. -/
structure MemSt where
  ents : SMap MemEnt := []
  nextOrd : Nat := 0
  /-- Lines in combine mode: die, peer port + 1 (0: HBM) and line number (R308). -/
  hot : List (Nat × Nat × Nat) := []
  /-- Requests held in ingress staging for order (R305), or for an entry or a reservation on the die that performs them
  (R299, 06 R179). -/
  waiting : List Handed := []
  /-- HBM accesses of hosts, Belfry and groups that wait for their class, oldest first. -/
  later : List Later := []
deriving DecidableEq, Repr

/-! The embedding service (10_embedding_service.md). -/

/-- A lookup under way (R264): the descriptor it was looked up with, and its slot. -/
structure Lookup where
  lp : Nat
  p : Pkt
  resv : Resv
  desc : List Word
  ct : Nat
  slot : Nat
deriving DecidableEq, Repr

/-- A commit under way (R275): by a packet with its port and reservation, or by a ring. -/
structure EmbCommit where
  lp : Nat
  p : Pkt
  resv : Resv
  ring : Option Nat
  scale : Nat
  sr : Bool
deriving DecidableEq, Repr

/-- A snapshot being copied or mirrored: its ring, its SNAPSHOT waits for a commit to end, the next granule (R279, R280). -/
structure Snap where
  ring : Option Nat
  waits : Bool
  next : Nat
deriving DecidableEq, Repr

/-- The embedding services. Lookups by die × 65536 + number. -/
structure EmbSt where
  lookups : SMap Lookup := []
  commits : SMap EmbCommit := []
  snaps : SMap Snap := []
deriving DecidableEq, Repr

/-! Resets (15_faults_and_recovery.md R392 to R397). -/

/-- A reset that runs: its domain and target (Table 15-3), its cause (Table 15-4), whether it waits for its capture, and
whether its sequence has taken one. -/
structure Running where
  dom : Nat
  target : Nat
  cause : Nat
  capture : Bool
  taken : Bool
deriving DecidableEq, Repr

/-- Resets: those that run, the bells at which Belfry's watchdog tripped (R395), and the cause of a warm chip reset that
waits for a thermal trip to clear (18 R464). -/
structure FltSt where
  running : List Running := []
  trips : List Nat := []
  waiting : Option Nat := none
deriving DecidableEq, Repr

/-! Belfry, boot and security (16_belfry_boot_security.md). -/

/-- The boot flash (Table 16-2): the image region's bytes from offset 0, the protected region, the public key that the
leaf of the certificate chain certifies, and whether the next warm or cold reset is forced into the Recovery Service. The
fence log stands in SenSt. -/
structure Flash where
  image : List Byte := []
  /-- The operator public key; empty: none is provisioned. -/
  opKey : List Byte := []
  minSvn : Nat := 0
  revoked : Nat := 0
  rebind : Nat := 0
  certKey : List Byte := []
  forced : Bool := false
deriving DecidableEq, Repr

/-- An update operation that runs (Table 16-10). -/
structure Update where
  op : Nat
  len : Nat
deriving DecidableEq, Repr

/-- Start-up and update. -/
structure BootSt where
  flash : Flash := {}
  upd : Option Update := none
  /-- The header and sections of the running image, as boot verified them. -/
  image : List Byte := []
  /-- The operator key in force since the last boot (R418). -/
  opKey : List Byte := []
  /-- CONFIG phases written so far, and whether the commit of the last one is still to be applied. -/
  phases : Nat := 0
  commit : Bool := false
  /-- Sections streamed so far (Table 16-8, PRELOAD), counted over the section table, and the records of the next one that are
  done. -/
  streamed : Nat := 0
  record : Nat := 0
  /-- Ports whose CONFIG sets enable, until LINKS enables their die (R420). -/
  enables : List Nat := []
  /-- The start-up is a data-path reset's (R419); a warm chip reset's; the device holds in PROTECT (18 R463). -/
  dataPath : Bool := false
  warm : Bool := false
  /-- A CONFIG or PRELOAD mismatch of a data-path reset: nothing is applied until a warm or cold reset. -/
  stuck : Bool := false
  /-- The fence mask of the image (R405). -/
  fences : Nat := 0
deriving DecidableEq, Repr

/-- An SPDM connection on a channel (R425): how far the negotiation has come (0 nothing, 1 version, 2 capabilities, 3
algorithms), its session (0 none, 1 key exchanged, 2 established), and whether the requester authenticated with a chain
rooted at the operator key. -/
structure Spdm where
  step : Nat := 0
  session : Nat := 0
  operator : Bool := false
deriving DecidableEq, Repr

/-- Management channels: connections by channel number, in-band packets queued for Belfry with their ports, and the bytes
of Belfry's token bucket by logical port (Table 16-12). -/
structure MgtSt where
  spdm : SMap Spdm := []
  queue : List (Nat × Pkt) := []
  bucket : SMap Bucket := []
deriving DecidableEq, Repr

/-! Power (18_power_thermal.md). -/

/-- Power management. Power states by unit number: logical port, 2048 + tile, 2112 + die, 2120 + stack; 0 is ON or ACTIVE,
1 and 2 the deeper states of Table 18-4. -/
structure PwrSt where
  states : SMap Nat := []
  /-- Whole bells for which a unit has been idle, and the units used in this bell. -/
  idle : SMap Nat := []
  seen : SMap Nat := []
  /-- Units whose exit is under way, and the state each exits to. -/
  exits : SMap Nat := []
  /-- The last LAT_TOL of each port, lane and service (R458). -/
  laneTol : SMap Nat := []
  svcTol : SMap Nat := []
  /-- Throttle steps of budget and temperature (R462): the step, bells since its last change (0: none yet), bells below in
  a row. -/
  budget : Nat × Nat × Nat := (0, 0, 0)
  thermal : Nat × Nat × Nat := (0, 0, 0)
deriving DecidableEq, Repr

/-! Hosts (19_host_pins_map.md). -/

/-- What a host's function holds outside BAR0 (19 R466 to R470): configuration space. -/
structure HostSt where
  /-- The link of the port is up. -/
  up : Bool := false
  msixEnable : Bool := false
  msixMaskAll : Bool := false
  /-- BAR4 size as a power of two; 64 GiB at reset (Table 19-2). -/
  bar4Log : Nat := 36
  ltrEnable : Bool := false
  /-- The host's LTR latency in ns, none while absent (18 R458). -/
  ltr : Option Nat := none
  /-- HUB_SUBSYS as configuration space reads it: taken at READY (Table 19-9). -/
  subsys : Nat := 0
deriving DecidableEq, Repr

/-! What the device drives. -/

/-- One thing the device has driven to a partner (assumption 3). -/
inductive Out where
  /-- The completion of a register read: partner, BAR0 offset, value (00 R6). -/
  | read (who : Partner) (off : Nat) (v : Word)
  /-- An MSI-X message of a host: vector, address and data of its table entry (19 R469). -/
  | msix (h vec addr data : Nat)
  /-- PPS_OUT driven to a level (02 R52). -/
  | pps (high : Bool)
  /-- A codeword pair sent on a lane of a port, as wire levels, four to a byte (03 R56). -/
  | pair (lp lane : Nat) (bytes : List Byte)
  /-- A probe word sent on a fibre (14 R387). -/
  | probe (fp word : Nat)
  /-- ELS_EN_N of a laser source module asserted or not (14 R369). -/
  | elsEn (m : Nat) (on : Bool)
  /-- An Ethernet frame sent, with its FCS (03 R87). -/
  | frame (lp : Nat) (bytes : List Byte)
  /-- A PTP message passed to Belfry with its receive time in units of 2^-40 ns (02 R51). -/
  | ptpIn (lp : Nat) (p : Pkt) (time : Nat)
  /-- The egress time of an event message that Belfry sent (02 R51). -/
  | ptpOut (lp : Nat) (time : Nat)
  /-- A write to a host's memory (13 R341). -/
  | hostWrite (h addr : Nat) (bytes : List Byte)
  /-- The completion of a BAR4 read of a host: its bytes, or none for an error completion (19 R468, 12 Table 12-6). -/
  | bar4 (h off : Nat) (bytes : Option (List Byte))
  /-- The completion of a configuration request: none is Configuration Request Retry Status (Table 16-9); words of the
  identity for a read. -/
  | config (h : Nat) (words : Option (List Nat))
  /-- Belfry's answer on a channel: its code, 0 served, 1 error of code Unspecified, 2 Busy, 3 unexpected request,
  4 ERROR_NOT_READY, 5 no secured session, 6 NOT_OWNER, with what it returns. -/
  | mgmt (ch : Channel) (code : Nat) (words : List Word) (bytes : List Byte)
deriving DecidableEq, Repr

/-- The device: everything but its memories and the commands that wait. -/
structure Dev where
  /-- Register values in force, by register key; a register at its reset value is not listed. -/
  regs : SMap Word := []
  /-- Staged values (02 R39), by register key; a register whose shadow equals the value in force is not listed. -/
  shadow : SMap Word := []
  /-- Low halves of RW pairs written and not in force yet, for the high half is still to come (00 R5), by register key. -/
  halves : SMap Word := []
  /-- High halves latched for a partner (00 R4), by register key × 3 + partner. -/
  latch : SMap Word := []
  /-- How many free values the device has taken (assumption 1): the model's own field. -/
  freeCtr : Nat := 0
  /-- What the device has driven so far, newest first (assumption 3): the model's own field. -/
  out : List Out := []
  /-- Counters whose first window after a commit is not copied (17 R446), and ports likewise (R448). -/
  ocuFresh : List Nat := []
  bwFresh : List Nat := []
  /-- Bytes of the open bandwidth windows, by port × 2 + direction (17 R448). -/
  bwOpen : SMap Nat := []
  /-- Tenant page counts, by page × 32 + item (17 R450). -/
  pages : SMap Nat := []
  time : TimeSt := {}
  rcd : RecSt := {}
  link : LinkSt := {}
  lan : LanSt := {}
  keep : KeepSt := {}
  fwd : FwdSt := {}
  tab : TabSt := {}
  sch : SchSt := {}
  col : ColSt := {}
  sen : SenSt := {}
  rng : RngSt := {}
  mem : MemSt := {}
  emb : EmbSt := {}
  flt : FltSt := {}
  boot : BootSt := {}
  mgt : MgtSt := {}
  pwr : PwrSt := {}
  /-- HBM blocks of 32 bytes that read uncorrectable, and those with one erroneous symbol that is not written back yet
  (12 R327), by HPA / 32. -/
  ue : List Nat := []
  ce : List Nat := []
  /-- Command and address parity errors and data-lane CRC retries of the HBM channels in this bell (12 R334), by
  stack × 32 + channel. -/
  chanErr : SMap Nat := []
  chanRetry : SMap Nat := []
  hostA : HostSt := {}
  hostB : HostSt := {}
deriving DecidableEq, Repr

/-- The whole state. -/
structure State where
  /-- The commands that wait, first in first out. -/
  pending : List Instr := []
  dev : Dev := {}
  /-- HBM: one byte per HPA (12 R320), unlisted bytes 0 (12 R332, assumption 4). -/
  hbm : List Host.Cell := []
deriving DecidableEq, Repr

/-- Why the device can stop with a fault. The spec gives none: every error is an effect on the state (assumption 2). -/
inductive Fault where
  /-- Raised by nothing: the device goes on after every command (safe). -/
  | none
deriving DecidableEq, Repr

/-- Why a command has no meaning. -/
inductive Refusal where
  /-- Raised by an arm of exec for a command not modelled yet (safe). -/
  | notModelled (mnemonic : String)
deriving DecidableEq, Repr

/-- The device after a cold reset (00 R8). -/
def State.reset : State := {}

end Sys2Proof.Machine
end

