-- ==== Sys2Proof/Machine/Ops.lean ====
section
/-! DEFINITION. The named operations over the state that every chapter uses: registers and counters, free values, what
the device drives, time, HBM bytes, and offering events to the recorder. -/

namespace Sys2Proof.Machine

/-! Registers and counters. -/

/-- The value in force of register r, index i. -/
def Dev.rd (d : Dev) (r : Reg) (i : Nat) : Word := SMap.getD d.regs (rk r i) (regReset r i)

/-- The value in force as a number. -/
def Dev.rdN (d : Dev) (r : Reg) (i : Nat) : Nat := (d.rd r i).toNat

/-- Field [hi:lo] of the value in force. -/
def Dev.rdF (d : Dev) (r : Reg) (i hi lo : Nat) : Nat := fld (d.rd r i) hi lo

/-- Bit b of the value in force. -/
def Dev.rdB (d : Dev) (r : Reg) (i b : Nat) : Bool := wbit (d.rd r i) b

/-- Register r, index i, takes the value v. -/
def Dev.wr (d : Dev) (r : Reg) (i : Nat) (v : Word) : Dev :=
  { d with regs := SMap.put d.regs (rk r i) (regReset r i) v }

/-- Field [hi:lo] of a register takes the value v. -/
def Dev.wrF (d : Dev) (r : Reg) (i hi lo v : Nat) : Dev := d.wr r i (putFld (d.rd r i) hi lo v)

/-- Bit b of a register takes the value v. -/
def Dev.wrB (d : Dev) (r : Reg) (i b : Nat) (v : Bool) : Dev := d.wr r i (putBit (d.rd r i) b v)

/-- A 32-bit saturating counter rises by n. -/
def Dev.bumpN (d : Dev) (r : Reg) (i n : Nat) : Dev := d.wr r i (word (min 0xFFFFFFFF (d.rdN r i + n)))

/-- A 32-bit saturating counter rises by one. -/
def Dev.bump (d : Dev) (r : Reg) (i : Nat) : Dev := d.bumpN r i 1

/-- The value of a 64-bit pair (00 R4). -/
def Dev.rd64 (d : Dev) (lo hi : Reg) (i : Nat) : Nat := d.rdN lo i + d.rdN hi i * 2 ^ 32

/-- A 64-bit pair takes the value v, modulo 2^64. -/
def Dev.wr64 (d : Dev) (lo hi : Reg) (i v : Nat) : Dev := (d.wr lo i (word v)).wr hi i (word (v / 2 ^ 32))

/-- A 64-bit counter rises by n, modulo 2^64. -/
def Dev.bump64 (d : Dev) (lo hi : Reg) (i n : Nat) : Dev := d.wr64 lo hi i (d.rd64 lo hi i + n)

/-- The registers of the list, index i, go to 0. -/
def Dev.clear (d : Dev) (rs : List Reg) (i : Nat) : Dev := rs.foldl (fun d r => d.wr r i 0) d

/-- Indices lo to lo + n - 1 of a register go to 0. -/
def Dev.clearRange (d : Dev) (r : Reg) (lo n : Nat) : Dev :=
  { d with regs := SMap.keep d.regs (fun k => !(k % 512 == r.ctorIdx && decide (lo ≤ k / 512) && decide (k / 512 < lo + n))) }

/-- The HPA that a base pair of registers holds: bits [40:0] (for example 05 R149). -/
def Dev.rdBase (d : Dev) (lo hi : Reg) (i : Nat) : Nat := d.rdN lo i + d.rdF hi i 8 0 * 2 ^ 32

/-! Free values and what the device drives. -/

/-- The next free value, and the device with the count advanced (assumption 1). -/
def Dev.free (d : Dev) : Nat × Dev := (Config.freeNat d.freeCtr, { d with freeCtr := d.freeCtr + 1 })

/-- The device with one more thing driven. -/
def Dev.emit (d : Dev) (o : Out) : Dev := { d with out := o :: d.out }

/-! Numbering (00 R9 to R11). -/

/-- The die of a logical port. -/
def lpDie (lp : Nat) : Nat := lp / 256
/-- The pipeline of a logical port (R10). -/
def lpPl (lp : Nat) : Nat := lp / 32
/-- The fibre port of a logical port. -/
def lpFp (lp : Nat) : Nat := lp / 8
/-- The logical port's number within its die. -/
def lpJ (lp : Nat) : Nat := lp % 256

/-! Time (02). -/

/-- One nanosecond in the units of the time counter. -/
def nsUnit : Nat := 2 ^ 40
/-- One second in the units of the time counter. -/
def secUnit : Nat := 1000000000 * nsUnit

/-- The modulus of fabric time: 48 bits of seconds. -/
def timeMod : Nat := 2 ^ 48 * secUnit

/-- Seconds, nanoseconds and the 16-bit fraction of fabric time (R32). -/
def timeSec (t : Nat) : Nat := t / secUnit
def timeNs (t : Nat) : Nat := t / nsUnit % 1000000000
def timeFrac (t : Nat) : Nat := t % nsUnit / 2 ^ 24

/-- The bell period in ns (R35). -/
def Dev.period (d : Dev) : Nat := 1024 * 2 ^ d.rdF .timBellCfg 0 2 0

/-- Fabric time in whole nanoseconds, the T of rule R35. -/
def Dev.nowNs (d : Dev) : Nat := d.time.now / nsUnit

/-- Bell [31:16], the stamp of rule 05 R142. -/
def Dev.bellStamp (d : Dev) : Nat := d.time.bell / 2 ^ 16 % 2 ^ 16

/-! HBM bytes (12 R320): canonical, unlisted bytes 0. -/

/-- The byte at an HPA. -/
def hbmByte (m : List Host.Cell) (a : Nat) : Byte := SMap.getD m a 0

/-- The byte at an HPA written; an HPA has 41 bits (12 R320). -/
def hbmPut (m : List Host.Cell) (a : Nat) (b : Byte) : List Host.Cell := if a < 2 ^ 41 then SMap.put m a 0 b else m

/-- n bytes from an HPA. -/
def hbmBytes (m : List Host.Cell) : Nat → Nat → List Byte
  | _, 0 => []
  | a, n + 1 => hbmByte m a :: hbmBytes m (a + 1) n

/-- Bytes written from an HPA upwards. -/
def hbmPutBytes (m : List Host.Cell) : Nat → List Byte → List Host.Cell
  | _, [] => m
  | a, b :: bs => hbmPutBytes (hbmPut m a b) (a + 1) bs

/-- The bytes of a range go to 0. -/
def hbmClear (m : List Host.Cell) (lo n : Nat) : List Host.Cell :=
  SMap.keep m (fun a => !(decide (lo ≤ a) && decide (a < lo + n)))

/-- The canonical form of HBM: addresses rise strictly, no byte listed is 0, every address has 41 bits. -/
def Memory.wf (m : List Host.Cell) : Bool := SMap.canon m 0 && m.all (fun c => decide (c.1 < 2 ^ 41))

/-! Stacks (12 Table 12-5). -/

def stTraining : Nat := 1
def stActive : Nat := 2
def stSelfRefresh : Nat := 3
def stOutFenced : Nat := 4

/-- The state of a stack: HBM_STATUS.state. -/
def Dev.stackState (d : Dev) (hs : Nat) : Nat := d.rdF .hbmStatus hs 2 0

/-- The number of a unit of power management: a logical port, 2048 + tile, 2112 + die, 2120 + stack. -/
def unitNo : PwrUnit → Nat
  | .lanes lp => lp
  | .tile ct => 2048 + ct
  | .die n => 2112 + n
  | .stack hs => 2120 + hs

/-- The power state of a unit by number: 0 ON or ACTIVE, 1 and 2 the deeper states (18 Table 18-4). -/
def Dev.pwrState (d : Dev) (u : Nat) : Nat := SMap.getD d.pwr.states u 0

/-- A unit is used: it serves, whatever exit that takes, and its idle count starts afresh (18 R456, R460). -/
def Dev.touch (d : Dev) (u : Nat) : Dev :=
  { d with pwr := { d.pwr with states := SMap.erase d.pwr.states u, idle := SMap.erase d.pwr.idle u,
                               exits := SMap.erase d.pwr.exits u, seen := SMap.insert u 1 d.pwr.seen } }

/-- A stack is used: one in self-refresh under the power manager leaves it (12 R331). -/
def Dev.touchStack (d : Dev) (hs : Nat) : Dev :=
  let d := if d.pwrState (2120 + hs) = 2 ∧ d.stackState hs = stSelfRefresh then d.wrF .hbmStatus hs 2 0 stActive else d
  d.touch (2120 + hs)

/-- A stack answers accesses: ACTIVE, or in self-refresh under the power manager, which an access ends (12 R331); one that
a reset put into self-refresh does not. -/
def Dev.stackUp (d : Dev) (hs : Nat) : Bool :=
  d.stackState hs == stActive || (d.stackState hs == stSelfRefresh && d.pwrState (2120 + hs) == 2)

/-- n bytes from an HPA lie in usable memory of one stack (12 R320). -/
def Dev.usable (d : Dev) (a n : Nat) : Bool :=
  let hs := a / 2 ^ 36
  decide (a < 2 ^ 41) && d.stackUp hs && decide (a % 2 ^ 36 + n ≤ d.rdF .hbmStackSize hs 5 0 * 2 ^ 31)

/-- P3 is paused in a stack: thermal level HOT or CRITICAL (12 R329, R330). -/
def Dev.bulkPaused (d : Dev) (hs : Nat) : Bool := decide (2 ≤ d.rdF .hbmStatus hs 19 18)

/-- The state with its device changed. -/
def State.on (s : State) (f : Dev → Dev) : State := { s with dev := f s.dev }

/-! Events (17 R434). -/

/-- Severities (17 R432). -/
def sevNotice : Nat := 2
def sevWarning : Nat := 3
def sevError : Nat := 4
def sevCritical : Nat := 5

/-- An origin offers an event: nothing below EVR_CFG.min_sev; counted as refused while PWR_WARN_N is asserted (R440);
lost and counted in EVR_DROP_IN at a full queue of 256 (R434). -/
def Dev.raise (d : Dev) (origin code sev : Nat) (w : List Nat) : Dev :=
  if sev < d.rdF .evrCfg 0 2 0 then d
  else if d.rcd.warn then { d with rcd := { d.rcd with refused := d.rcd.refused + 1 } }
  else
    let q := SMap.getD d.rcd.queues origin []
    if q.length ≥ 256 then d.bump .evrDropIn 0
    else
      let e : Event := ⟨origin, code, sev, w ++ List.replicate (8 - w.length) 0, d.time.bell,
        timeSec d.time.now % 2 ^ 32, timeNs d.time.now, 0⟩
      { d with rcd := { d.rcd with queues := SMap.put d.rcd.queues origin [] (q ++ [e]) } }

/-! Domains (Table 15-3). -/

def domTile : Nat := 1
def domDie : Nat := 2
def domBelfry : Nat := 3
def domLp : Nat := 4
def domFp : Nat := 5
def domStack : Nat := 6
def domData : Nat := 7
def domWarm : Nat := 8
def domCold : Nat := 9

/-- The engines of a die are frozen while a capture runs before a reset of a domain that holds them (15 R396). -/
def Dev.frozen (d : Dev) (die : Nat) : Bool :=
  d.flt.running.any fun r => r.capture && (r.dom == domDie && r.target == die || r.dom == domData || r.dom == domWarm)

/-- The hub is origin 8. -/
def hubOrigin : Nat := 8

/-! MSI-X (19 R469). Table entry e of host h is words 4e to 4e + 3 of HUB_MSIX_TABLE. -/

/-- The message of a vector as its table entry gives it. -/
def Dev.msixMsg (d : Dev) (h vec : Nat) : Out :=
  let i := h * 8192 + vec * 4
  .msix h vec (d.rdN .hubMsixTable i + d.rdN .hubMsixTable (i + 1) * 2 ^ 32) (d.rdN .hubMsixTable (i + 2))

/-- The function state of host h. -/
def Dev.host (d : Dev) (h : Nat) : HostSt := if h = 0 then d.hostA else d.hostB

/-- The function state of host h changed. -/
def Dev.setHost (d : Dev) (h : Nat) (x : HostSt) : Dev := if h = 0 then { d with hostA := x } else { d with hostB := x }

/-- Host h is to get the message of a vector: nothing while MSI-X Enable = 0; pended while the vector or the function
is masked; sent otherwise. -/
def Dev.msix (d : Dev) (h vec : Nat) : Dev :=
  if !(d.host h).msixEnable then d
  else if (d.host h).msixMaskAll || d.rdB .hubMsixTable (h * 8192 + vec * 4 + 3) 0 then
    d.wrB .hubMsixPba (h * 64 + vec / 32) (vec % 32) true
  else d.emit (d.msixMsg h vec)

end Sys2Proof.Machine
end

