-- ==== Sys2Proof/Machine/Bus.lean ====
section
/-! DEFINITION. Writes from partners: control ownership (19 R471), staging (02 R39) and the generic access types (00 R6).
Also the counters that each clr_counters bit clears (03 R92 and the like). -/

namespace Sys2Proof.Machine

/-- The device is in the Recovery Service (16 R424): phase RECOVERY of SEC_BOOT_STATUS (Table 16-8). -/
def Dev.recovery (d : Dev) : Bool := d.rdF .secBootStatus 0 31 28 == 7

/-- The device is READY (Table 16-8). -/
def Dev.isReady (d : Dev) : Bool := d.rdF .secBootStatus 0 31 28 == 6

/-- The data path forwards: FORWARD or READY, the sense in which 03 R71 calls the device ready (16 R419). -/
def Dev.forwards (d : Dev) : Bool := d.rdF .secBootStatus 0 31 28 == 5 || d.isReady

/-- The writes of a host that are no control writes (19 R471): HUB_OWN, HUB_OWN_STATUS, the host's own host port block,
its own GRD_WIN registers and its own half of the mailbox. -/
def ownBlock (h off : Nat) : Bool :=
  off == 0x100 || off == 0x104 ||
  (decide (0x60000 + h * 0x10000 ≤ off) && decide (off < 0x70000 + h * 0x10000)) ||
  (decide (0x20100 + h * 0x100 ≤ off) && decide (off < 0x20180 + h * 0x100)) ||
  (decide (0x50000 + h * 0x4000 ≤ off) && decide (off < 0x54000 + h * 0x4000))

/-- Host h holds ownership (HUB_OWN). -/
def Dev.owns (d : Dev) (h : Nat) : Bool := d.rdB .hubOwn 0 31 && d.rdF .hubOwn 0 30 30 == h

/-- A partner's write to a BAR0 offset is performed (19 R471; ownership is not enforced in the Recovery Service, 16 R424). -/
def Dev.mayWrite (d : Dev) (who : Partner) (off : Nat) : Bool :=
  match who.host with
  | none => true
  | some h => ownBlock h off || d.owns h || d.recovery

/-- The data path is held in PROTECT (18 R463): PWR_STATUS[27]. -/
def Dev.protect (d : Dev) : Bool := d.rdB .pwrStatus 0 27

/-- In the Recovery Service a host reaches the identity and control block and the security block only (16 R424). -/
def Dev.decodes (d : Dev) (who : Partner) (off : Nat) : Bool :=
  !(d.recovery && who.host.isSome) || decide (off < 0x10000) || (decide (0x90000 ≤ off) && decide (off < 0xA0000))

/-- A write reaches its register: the registers of a data path held in PROTECT take none (18 R463). -/
def Dev.reaches (d : Dev) (who : Partner) (off : Nat) : Bool :=
  d.decodes who off && !(d.protect && decide (0x1000000 ≤ off))

/-- A control write reaches its register and is allowed. -/
def Dev.granted (d : Dev) (who : Partner) (off : Nat) : Bool := d.reaches who off && d.mayWrite who off

/-- OWNERSHIP_VIOLATION (19 R471): the write is dropped; the host's viol bit is set, the write is counted, saturating at
63, and the offset of the first one since the last read is latched. -/
def Dev.violation (d : Dev) (h off : Nat) : Dev :=
  let d := d.wrB .hubOwnStatus 0 h true
  let n := d.rdF .hubOwnViol h 31 26
  let o := if n = 0 then off else d.rdF .hubOwnViol h 25 0
  d.wr .hubOwnViol h (putFld (word o) 31 26 (min 63 (n + 1)))

/-- A control write: performed by `f`, ignored where it reaches nothing, or dropped as a violation. -/
def Dev.ctl (d : Dev) (who : Partner) (off : Nat) (f : Dev → Dev) : Dev :=
  if !d.reaches who off then d
  else if d.mayWrite who off then f d
  else match who.host with
    | some h => d.violation h off
    | none => d

/-- The shadow of register r, index i: the staged value, or the value in force (02 R39). -/
def Dev.shadowOf (d : Dev) (r : Reg) (i : Nat) : Word := (SMap.find? d.shadow (rk r i)).getD (d.rd r i)

/-- The bits of a word picked by a mask from `v`, the others from `w`. -/
def mixWord (mask : Nat) (v w : Word) : Word :=
  let m := word mask
  (v &&& m) ||| (w &&& ~~~m)

/-- The low half of an RW pair, by its high half: the device acts on the pair when the high half is written (00 R5). The
pair TIM_INC acts through the increment in force. -/
def pairLow (r : Reg) : Option Reg :=
  match r with
  | .timStepHi => some .timStepLo
  | .timCmtTgtHi => some .timCmtTgtLo
  | .grdWinBaseHi => some .grdWinBaseLo
  | .hubBar4BaseHi => some .hubBar4BaseLo
  | _ => none

/-- A register is the low half of such a pair. -/
def isPairLow (r : Reg) : Bool := [Reg.timStepLo, .timCmtTgtLo, .grdWinBaseLo, .hubBar4BaseLo].contains r

/-- The value last written to the low half of a pair, in force or not yet (00 R5, R6). -/
def Dev.written (d : Dev) (r : Reg) (i : Nat) : Word := (SMap.find? d.halves (rk r i)).getD (d.rd r i)

/-- The high half of a pair is written: the low half written before it is in force too (00 R5). -/
def Dev.pairActs (d : Dev) (r : Reg) (i : Nat) : Dev :=
  match pairLow r with
  | some lo => { d.wr lo i (d.written lo i) with halves := SMap.erase d.halves (rk lo i) }
  | none => d

/-- What a register takes of a written value: TIM_PPS_CFG takes 0 as 1 (02 R47). -/
def taken (r : Reg) (v : Word) : Word := if r == .timPpsCfg && fld v 15 0 == 0 then putFld v 15 0 1 else v

/-- A register that ignores writes as its unit stands: the key and data registers of a TAP while it is busy (05 R129). -/
def Dev.writeLocked (d : Dev) (r : Reg) (i : Nat) : Bool :=
  match r with
  | .tapKey => (SMap.find? d.tab.busy (i / 8)).isSome
  | .tapData => (SMap.find? d.tab.busy (i / 16)).isSome
  | .bcTapKey | .bcTapData => (SMap.find? d.tab.busy 8).isSome
  | _ => false

/-- A write by access type (00 R5, R6, Table 0-3): RW bits take the value at once, or with the high half where the register
is the low half of a pair; W1C bits written 1 clear, STG bits go to the shadow; RO, RC and RSV bits ignore it. -/
def Dev.plainWrite (d : Dev) (e : RegDef) (i : Nat) (v : Word) : Dev :=
  let v := taken e.reg v
  let w := d.rd e.reg i
  let w1 := mixWord e.rw v w
  let w2 := w1 &&& ~~~(v &&& word e.w1c)
  if d.writeLocked e.reg i then d
  else if isPairLow e.reg then { d with halves := SMap.insert (rk e.reg i) w1 d.halves }
  else
    let d1 := (d.wr e.reg i w2).pairActs e.reg i
    if e.stg = 0 then d1
    else { d1 with shadow := SMap.insert (rk e.reg i) (mixWord e.stg v w2) d1.shadow }

/-! Counters that clr_counters bits clear, by block. -/

/-- Clears each register of a list over indices lo to lo + n - 1. -/
def Dev.clearAll (d : Dev) (rs : List Reg) (lo n : Nat) : Dev := rs.foldl (fun d r => d.clearRange r lo n) d

/-- Counters of a logical port (Table 3-13). -/
def lnkCounters : List Reg := [.plnLnkGrpRxLo, .plnLnkGrpRxHi, .plnLnkCrcErr, .plnLnkFecCorr, .plnLnkFecUnc,
  .plnLnkReplay, .plnLnkNakTx, .plnLnkMalformed, .plnLnkCrdOvr, .plnLnkDownCnt, .plnLnkAbortRx, .plnLnkEthFcs,
  .plnLnkEthOversize, .plnLnkEthRunt]
/-- Counters of a pipeline's LET (Table 5-9). -/
def letCounters : List Reg := [.plnLetLearned, .plnLetMove, .plnLetAged, .plnLetLimit, .plnLetInsFail,
  .plnLetLearnOvf, .plnLetCacheMiss]
/-- Counters of a Keep (Table 6-6). -/
def kepCounters : List Reg := [.kepDropThresh, .kepDropWredG, .kepDropWredY, .kepDropRed, .kepDropMcast,
  .kepDropNotEct, .kepDropAbort, .kepCrcIn, .kepCrcInt, .kepMarked, .kepEchoTx, .kepEchoRx, .kepEchoNolim,
  .kepSpillPkts, .kepUnderrun]
/-- Counters of a scheduler (Table 7-7). -/
def schCounters : List Reg := [.schGateWait, .schGateOverrun, .schExcessSel]
/-- Counters of a pipeline's meters (Table 7-8). -/
def polCounters : List Reg := [.plnPolGreen, .plnPolYellow, .plnPolRed]
/-- Counters of a tile (Table 8-7). -/
def cupCounters : List Reg := [.cupAddsLo, .cupAddsHi, .cupRoundsLo, .cupRoundsHi, .cupNanOut, .cupInfOut, .cupSatOut,
  .cupWrapOut, .cupZeroOut, .cupMxNanblk, .cupEccCorr, .cupEccUnc, .cupMalformed]
/-- Counters of a collective engine (Table 9-14). -/
def colCounters : List Reg := [.colUpAccept, .colNakNotArmed, .colNakBusy, .colNakOther, .colDiscard, .colDup,
  .colBroken, .colTimeout, .colBeaconTx, .colBeaconRx]
/-- Counters of an embedding service (Table 10-9); EMB_NAK_CNT apart. -/
def embCounters : List Reg := [.embLookupLo, .embLookupHi, .embRowsLo, .embRowsHi, .embPairsLo, .embPairsHi,
  .embUpdSat, .embCommits, .embCommitSat, .embSnapGran, .embMirrorGran, .embBatchLost, .embDiscard, .embAddendOvf]
/-- Counters of a memory fabric unit (Table 11-10); MEM_NAK_CNT apart. -/
def memCounters : List Reg := [.memReqLo, .memReqHi, .memCombRd, .memCombAt, .memAbsorb, .memHotEnter, .memPeerTo,
  .memOrdHold, .memDiscard]
/-- Counters of an HBM controller (Table 12-7); HBM_BYTES apart. -/
def hbmCounters : List Reg := [.hbmCeCnt, .hbmUeCnt, .hbmScrubPass, .hbmThermEvt, .hbmSpillLost]
/-- Counters of a ring engine (Table 13-14, Table 15-12). -/
def rngCounters : List Reg := [.rngDescLo, .rngDescHi, .rngBytesLo, .rngBytesHi, .rngFaults, .rngInvalid,
  .rngDbReject, .rngCtrlIgn, .rngCqStall, .rngEventDrop, .rngMsgPut, .rngMsgDrop, .rngMsgGet, .rngGetAbort,
  .rngWdtTrip]
/-- Counters of a fibre (Table 14-9). -/
def lanCounters : List Reg := [.lanWrongLine, .lanMigCnt, .lanMigAbort, .lanSrcSw, .lanEyeTrip, .lanCircSw, .lanLockLoss]
/-- Counters of the Sentinel and tile watchdog of a die (Table 15-11); CUP_SEN_BIN apart. -/
def senCounters : List Reg := [.cupSenSampled, .cupSenSkipped, .cupSenMismatch, .cupSenTransient, .cupSenPermanent,
  .cupSenSentinel, .cupSenUnresolved, .cupWdtTrip]
/-- Counters of the Guard (Table 16-15). -/
def grdCounters : List Reg := [.grdBfTxDrop, .grdConsentRefuse, .grdPcieRefuse, .grdFlashRefuse]
/-- Counters of the recorder (Table 17-7). -/
def evrCounters : List Reg := [.evrDropFull, .evrDropIn, .evrLost]

/-- The counters cleared by the clr_counters bit of the register r, index i. -/
def Dev.clrCounters (d : Dev) (r : Reg) (i : Nat) : Dev :=
  match r with
  | .plnLnkCtrl => d.clearAll lnkCounters i 1
  | .plnFwdCtrl => (d.clearRange .plnFwdDrop (i * 10) 10).clearRange .plnWdtTrip i 1
  | .plnLetCtrl => d.clearAll letCounters i 1
  | .kepCtrl => d.clearAll kepCounters i 1
  | .d2dCtrl => d.clearAll [.d2dCrcErr, .d2dRetry] (i * 8) 8
  | .schCtrl => d.clearAll schCounters i 1
  | .plnPolCtrl => d.clearAll polCounters i 1
  | .cupCtrl => d.clearAll cupCounters i 1
  | .colCtrl => d.clearAll colCounters i 1
  | .embCtrl => (d.clearAll embCounters i 1).clearRange .embNakCnt (i * 10) 10
  | .memCtrl => (d.clearAll memCounters i 1).clearRange .memNakCnt (i * 10) 10
  | .hbmCtrl => ((d.clearAll hbmCounters i 1).clearRange .hbmBytesLo (i * 4) 4).clearRange .hbmBytesHi (i * 4) 4
  | .rngCtrl => d.clearAll rngCounters i 1
  | .lanCtrl => d.clearAll lanCounters (i * 16) 16
  | .cupSenCtrl => (d.clearAll senCounters i 1).clearRange .cupSenBin (i * 192) 192
  | .grdCtrl => d.clearAll grdCounters i 1
  | .evrCtrl => (d.clearAll evrCounters i 1).clearRange .evrDrop 0 7
  | .hubHpCtrl => d.clearAll [.hubHpCeCnt, .hubHpUeCnt, .hubHpCtoCnt] i 1
  | _ => d

/-- The clr_counters bit of a control register: bit 2 of PLN_LNK_CTRL, bit 8 of D2D_CTRL, bit 0 elsewhere. -/
def clrBit (r : Reg) : Option Nat :=
  match r with
  | .plnLnkCtrl => some 2
  | .d2dCtrl => some 8
  | .plnFwdCtrl | .plnLetCtrl | .kepCtrl | .schCtrl | .plnPolCtrl | .cupCtrl | .colCtrl | .embCtrl | .memCtrl
  | .hbmCtrl | .rngCtrl | .lanCtrl | .cupSenCtrl | .grdCtrl | .evrCtrl | .hubHpCtrl => some 0
  | _ => none

/-- CLR_COUNTERS (03 R92 and the clr_counters bit of each block): a write of 1 to the clr_counters bit of the control
register at a BAR0 offset clears that block's counters. -/
def clrAt (d : Dev) (who : Partner) (off : Nat) : Dev :=
  d.ctl who off fun d =>
    match regAt off with
    | some (e, i) => if (clrBit e.reg).isSome then d.clrCounters e.reg i else d
    | none => d

end Sys2Proof.Machine
end

