-- ==== Sys2Proof/Machine/Oculus.lean ====
section
/-! DEFINITION. Oculus counters, port counters, bandwidth windows and tenant counter pages
(17_recorder_and_counters.md R444 to R453). -/

namespace Sys2Proof.Machine

/-! Programmable counters (R444 to R446). Counter i of die n has index n × 512 + i. -/

/-- What an event carries for the filters of Table 17-4: none where a filter does not apply. -/
structure OcuTag where
  tenant : Option Nat := none
  lp : Option Nat := none
  tclass : Option Nat := none
  vc : Option Nat := none

/-- A filter that applies must match; one that does not apply is ignored (R444). -/
def tagMatch (t : Option Nat) (p : Nat → Bool) : Bool :=
  match t with
  | some x => p x
  | none => true

/-- Counter k counts an event: enabled, the event selected, every filter matched. -/
def Dev.ocuMatch (d : Dev) (k ev : Nat) (t : OcuTag) : Bool :=
  let sel := d.rd .ocuSel k
  let flt := d.rd .ocuFlt k
  wbit sel 31 && fld sel 23 18 == ev &&
  (!wbit flt 15 || tagMatch t.tenant (fun x => x == fld flt 31 16)) &&
  (!wbit flt 14 || tagMatch t.lp (fun x => x == fld flt 10 0)) &&
  tagMatch t.tclass (fun x => bit (fld sel 15 8) x) &&
  tagMatch t.vc (fun x => bit (fld sel 7 0) x)

/-- The count of counter k: 48 bits. -/
def Dev.ocuCount (d : Dev) (k : Nat) : Nat := d.rdN .ocuCntLo k + d.rdF .ocuCntHi k 15 0 * 2 ^ 32

/-- The count of counter k set. -/
def Dev.ocuSet (d : Dev) (k n : Nat) : Dev := (d.wr .ocuCntLo k (word n)).wr .ocuCntHi k (word (n / 2 ^ 32 % 2 ^ 16))

/-- OCU_OVF of counter k set. -/
def Dev.ocuOvf (d : Dev) (k : Nat) : Dev := d.wrB .ocuOvf (k / 512 * 16 + k % 512 / 32) (k % 32) true

/-- Counter k is even with chain = 1, so counter k + 1 takes its carries (R445). -/
def Dev.ocuChained (d : Dev) (k : Nat) : Bool := k % 2 == 0 && d.rdB .ocuSel k 30

/-- Counter k rises by n: a carry goes to a chained partner, or sets OVF (R445). -/
def Dev.ocuAdd (d : Dev) (k n : Nat) : Dev :=
  let v := d.ocuCount k + n
  let c := v / 2 ^ 48
  let d := d.ocuSet k (v % 2 ^ 48)
  if c = 0 then d
  else if d.ocuChained k then
    let v1 := d.ocuCount (k + 1) + c
    let d := d.ocuSet (k + 1) (v1 % 2 ^ 48)
    if v1 / 2 ^ 48 = 0 then d else d.ocuOvf (k + 1)
  else d.ocuOvf k

/-- The counters of a die whose OCU_SEL is not at reset: no other is enabled. -/
def Dev.ocuListed (d : Dev) (die : Nat) : List Nat :=
  (d.regs.filter fun e => e.1 % 512 == Reg.ocuSel.ctorIdx && e.1 / 512 / 512 == die).map fun e => e.1 / 512

/-- The odd counter of a chained pair: its own OCU_SEL is ignored (R445). -/
def Dev.ocuSlave (d : Dev) (k : Nat) : Bool := k % 2 == 1 && d.ocuChained (k - 1)

/-- An event of a die, n times: every counter that it matches rises by n. -/
def Dev.ocu (d : Dev) (die ev : Nat) (t : OcuTag) (n : Nat) : Dev :=
  (d.ocuListed die).foldl (fun d k => if d.ocuMatch k ev t && !d.ocuSlave k then d.ocuAdd k n else d) d

/-- Counter k, and the partner that takes its carries: one 96-bit counter (R445). -/
def Dev.ocuPair (d : Dev) (k : Nat) : List Nat := if d.ocuChained k then [k, k + 1] else [k]

/-- The window of counter k closes (R446): the count, and that of a chained partner, goes to the snapshot unless it is
the first window after a commit changed the counter, and restarts from 0. -/
def Dev.ocuCloseOne (d : Dev) (k : Nat) : Dev :=
  let pair := d.ocuPair k
  let fresh := pair.any d.ocuFresh.contains
  let snap := fun (d : Dev) (j : Nat) =>
    if fresh then d.ocuSet j 0
    else ((d.wr .ocuSnapLo j (word (d.ocuCount j))).wr .ocuSnapHi j
      (word (2 ^ 31 + d.ocuCount j / 2 ^ 32))).ocuSet j 0
  let d := pair.foldl snap d
  { d with ocuFresh := d.ocuFresh.filter fun j => !pair.contains j }

/-- A count kept over windows of 2^k bells closes at bell n: at a multiple of 2^k, or when one was skipped (R446, 02 R37). -/
def windowCloses (n skipped k : Nat) : Bool := decide ((n - 1 - skipped) / 2 ^ k < n / 2 ^ k)

/-- WINDOW_CLOSE: step 6 of bell n for the programmable counters of a die (R446). -/
def Dev.ocuWindows (d : Dev) (die n skipped : Nat) : Dev :=
  (d.ocuListed die).foldl (fun d k =>
    if d.rdB .ocuSel k 29 && !d.ocuSlave k && windowCloses n skipped (d.rdF .ocuSel k 28 24) then d.ocuCloseOne k
    else d) d

/-- A counter, its snapshot and its OVF bit are cleared; the window then open is not copied. -/
def Dev.ocuClear (d : Dev) (k : Nat) : Dev :=
  let d := (d.ocuSet k 0).wr .ocuSnapLo k 0
  let d := (d.wr .ocuSnapHi k 0).wrB .ocuOvf (k / 512 * 16 + k % 512 / 32) (k % 32) false
  { d with ocuFresh := if d.ocuFresh.contains k then d.ocuFresh else k :: d.ocuFresh }

/-- A commit that changes OCU_SEL or OCU_FLT clears the counter, which is a chained pair as a whole (R445, R446). -/
def Dev.ocuReset (d : Dev) (k : Nat) : Dev := (d.ocuPair k).foldl Dev.ocuClear d

/-! Port counters and bandwidth windows (R447, R448). OCU_PORT[j][f] of die n has index LP × 8 + f. -/

/-- Fixed counter f of a logical port rises by n, modulo 2^64. -/
def Dev.portCount (d : Dev) (lp f n : Nat) : Dev := d.bump64 .ocuPortLo .ocuPortHi (lp * 8 + f) n

/-- Table 17-6: RX_BYTES, RX_CELLS, RX_PKTS, RX_DROP, TX_BYTES, TX_CELLS, TX_PKTS, TX_DROP. -/
def fRxBytes : Nat := 0
def fRxCells : Nat := 1
def fRxPkts : Nat := 2
def fRxDrop : Nat := 3
def fTxBytes : Nat := 4
def fTxCells : Nat := 5
def fTxPkts : Nat := 6
def fTxDrop : Nat := 7

/-- Bytes counted on a port: the fixed counter and the open bandwidth window (f 0 receive, 4 transmit). -/
def Dev.portBytes (d : Dev) (lp f n : Nat) : Dev :=
  let d := d.portCount lp f n
  { d with bwOpen := SMap.modify d.bwOpen (lp * 2 + f / 4) 0 (· + n) }

/-- LAST and PEAK of one direction of a port at a window's close. x = LP × 4 + (0 RX_LAST, 2 TX_LAST). -/
def Dev.bwClose (d : Dev) (x n : Nat) : Dev :=
  let v := n % 2 ^ 63
  let put := fun (d : Dev) (i v : Nat) => (d.wr .ocuBwLo i (word v)).wr .ocuBwHi i (word (2 ^ 31 + v / 2 ^ 32))
  let peak := d.rdN .ocuBwLo (x + 1) + d.rdF .ocuBwHi (x + 1) 30 0 * 2 ^ 32
  let d := put d x v
  put d (x + 1) (max peak v)

/-- BW_WINDOW_CLOSE of one port at bell n (R448). -/
def Dev.bwWindow (d : Dev) (lp n skipped : Nat) : Dev :=
  if !windowCloses n skipped (d.rdF .ocuBwCfg lp 4 0) then d
  else
    let rx := SMap.getD d.bwOpen (lp * 2) 0
    let tx := SMap.getD d.bwOpen (lp * 2 + 1) 0
    let d1 := { d with bwOpen := SMap.erase (SMap.erase d.bwOpen (lp * 2)) (lp * 2 + 1) }
    if d.bwFresh.contains lp then { d1 with bwFresh := d.bwFresh.filter (· != lp) }
    else (d1.bwClose (lp * 4) rx).bwClose (lp * 4 + 2) tx

/-- BW_WINDOW_CLOSE: step 6 of bell n for every port. -/
def Dev.bwWindows (d : Dev) (n skipped : Nat) : Dev := (upto 2048).foldl (fun d lp => d.bwWindow lp n skipped) d

/-- A commit that changes k of OCU_BW_CFG clears LAST and PEAK; the window then open is not recorded (R448). -/
def Dev.bwReset (d : Dev) (lp : Nat) : Dev :=
  let d := (d.clearRange .ocuBwLo (lp * 4) 4).clearRange .ocuBwHi (lp * 4) 4
  { d with bwOpen := SMap.erase (SMap.erase d.bwOpen (lp * 2)) (lp * 2 + 1),
           bwFresh := if d.bwFresh.contains lp then d.bwFresh else lp :: d.bwFresh }

/-- PEAK of one port cleared: RX_PEAK and TX_PEAK (R448). -/
def Dev.peakClr (d : Dev) (lp : Nat) : Dev :=
  (((d.wr .ocuBwLo (lp * 4 + 1) 0).wr .ocuBwHi (lp * 4 + 1) 0).wr .ocuBwLo (lp * 4 + 3) 0).wr .ocuBwHi (lp * 4 + 3) 0

/-- The registers of the list that a predicate on the index accepts go to their reset value 0. -/
def Dev.clearWhere (d : Dev) (r : Reg) (p : Nat → Bool) : Dev :=
  { d with regs := SMap.keep d.regs fun k => !(k % 512 == r.ctorIdx && p (k / 512)) }

/-- The BAR0 offset of OCU_CTRL of a die. -/
def offOcuCtrl (die : Nat) : Nat := 0x1180000 + die * 0x400000

/-- OCU_PEAK_CLR (R448): [7:0] names the port within the die. -/
def execOcuPeakClr (who : Partner) (die : Fin 8) (v : Word) (s : State) : Host.Outcome State Fault Refusal :=
  .next (s.on fun d => d.ctl who (offOcuCtrl die.val + 0xA400) fun d => d.peakClr (die.val * 256 + fld v 7 0))

/-- Every port's PEAK of a die cleared. -/
def Dev.peakClrAll (d : Dev) (die : Nat) : Dev :=
  let odd := fun i => i / 1024 == die && i % 2 == 1
  (d.clearWhere .ocuBwLo odd).clearWhere .ocuBwHi odd

/-- PEAK_CLR_ALL: OCU_CTRL.peak_clr_all. -/
def execPeakClrAll (who : Partner) (die : Fin 8) (s : State) : Host.Outcome State Fault Refusal :=
  .next (s.on fun d => d.ctl who (offOcuCtrl die.val) fun d => d.peakClrAll die.val)

/-- The fixed port counters of a die cleared. -/
def Dev.clrFixed (d : Dev) (die : Nat) : Dev :=
  (d.clearRange .ocuPortLo (die * 2048) 2048).clearRange .ocuPortHi (die * 2048) 2048

/-- CLR_FIXED: OCU_CTRL.clr_fixed. -/
def execClrFixed (who : Partner) (die : Fin 8) (s : State) : Host.Outcome State Fault Refusal :=
  .next (s.on fun d => d.ctl who (offOcuCtrl die.val) fun d => d.clrFixed die.val)

/-- The programmable counters, snapshots and OVF of a die cleared. -/
def Dev.clrProg (d : Dev) (die : Nat) : Dev :=
  (d.clearAll [.ocuCntLo, .ocuCntHi, .ocuSnapLo, .ocuSnapHi] (die * 512) 512).clearRange .ocuOvf (die * 16) 16

/-- CLR_PROG: OCU_CTRL.clr_prog. -/
def execClrProg (who : Partner) (die : Fin 8) (s : State) : Host.Outcome State Fault Refusal :=
  .next (s.on fun d => d.ctl who (offOcuCtrl die.val) fun d => d.clrProg die.val)

/-! Tenant counter pages (R449 to R451). Page i is OCU_TPG index i. -/

/-- Items of a page in the order of Table 17-5. -/
def tRxPkts : Nat := 0
def tRxBytes : Nat := 1
def tTxPkts : Nat := 2
def tTxBytes : Nat := 3
def tDropped : Nat := 4
def tMarked : Nat := 5
def tMemReq : Nat := 6
def tMemNak : Nat := 7
def tLookups : Nat := 8
def tRows : Nat := 9
def tEmbNak : Nat := 10
def tAccepted : Nat := 11
def tCollNak : Nat := 12
def tEnds : Nat := 13
def tCompl : Nat := 14
def tFaulted : Nat := 15
def tRingBytes : Nat := 16

/-- The enabled page of a tenant. -/
def Dev.pageOf (d : Dev) (tenant : Nat) : Option Nat :=
  ((d.regs.filter fun e => e.1 % 512 == Reg.ocuTpg.ctorIdx).find? fun e =>
    wbit e.2 31 && fld e.2 15 0 == tenant).map fun e => e.1 / 512

/-- An item of a tenant's page rises by n, modulo 2^64. -/
def Dev.page (d : Dev) (tenant item n : Nat) : Dev :=
  match d.pageOf tenant with
  | some p => { d with pages := SMap.modify d.pages (p * 32 + item) 0 (fun x => (x + n) % 2 ^ 64) }
  | none => d

/-- A commit that changes a page's tenant clears its counts (R449). -/
def Dev.pageReset (d : Dev) (p : Nat) : Dev := { d with pages := SMap.keep d.pages fun k => k / 32 != p }

/-- The shared counters of a tenant, ascending by die and index (R450): at most 128. -/
def Dev.shared (d : Dev) (tenant : Nat) : List Nat :=
  (((d.regs.filter fun e => e.1 % 512 == Reg.ocuSel.ctorIdx).map fun e => e.1 / 512).filter fun k =>
    d.rdB .ocuSel k 31 && d.rdB .ocuFlt k 15 && d.rdB .ocuFlt k 13 && d.rdF .ocuFlt k 31 16 == tenant).take 128

/-- Word w of page p (Table 17-5). -/
def Dev.pageWord (d : Dev) (p w : Nat) : Nat :=
  let cfg := d.rd .ocuTpg p
  if w = 0 then b2n (wbit cfg 31) * 2 ^ 31 + fld cfg 15 0
  else if w = 2 then d.time.bell % 2 ^ 32
  else if 4 ≤ w ∧ w < 40 then
    let v := SMap.getD d.pages (p * 32 + (w - 4) / 2) 0
    if w % 2 = 0 then v % 2 ^ 32 else v / 2 ^ 32
  else if 64 ≤ w ∧ w < 576 then
    match (d.shared (fld cfg 15 0))[(w - 64) / 4]? with
    | some k =>
      match (w - 64) % 4 with
      | 0 => 2 ^ 31 + k / 512 * 2 ^ 16 + k % 512
      | 1 => d.rdF .ocuSel k 23 18 * 2 ^ 18
      | 2 => d.rdN .ocuCntLo k
      | _ => d.rdN .ocuCntHi k
    | none => 0
  else 0

end Sys2Proof.Machine
end

