-- ==== Sys2Proof/Machine/Crc.lean ====
section
/-! DEFINITION. The CRCs of the wire and of the hashes (03 R60, R73; 04 R104), and packets as bytes (03 R72, R74). -/

namespace Sys2Proof.Machine

/-- k steps of a reflected CRC register with reversed polynomial `poly`. -/
def crcBits (poly : Nat) : Nat → Nat → Nat
  | 0, x => x
  | k + 1, x => crcBits poly k (if x % 2 = 1 then xorN (x / 2) poly else x / 2)

/-- A reflected CRC register fed with bytes. -/
def crcFeed (poly : Nat) (init : Nat) (bs : List Byte) : Nat :=
  bs.foldl (fun c b => crcBits poly 8 (xorN c b.toNat)) init

/-- CRC-32C with an initial value and no final XOR (04 R104). -/
def crc32cSeed (seed : Nat) (bs : List Byte) : Nat := crcFeed 0x82F63B78 seed bs

/-- CRC-32C (03 R60). -/
def crc32c (bs : List Byte) : Nat := xorN (crc32cSeed 0xFFFFFFFF bs) 0xFFFFFFFF

/-- The IEEE 802.3 CRC-32 (03 R73). -/
def crc32 (bs : List Byte) : Nat := xorN (crcFeed 0xEDB88320 0xFFFFFFFF bs) 0xFFFFFFFF

/-- The 24 header bytes of a packet (Table 3-4), with hops and ce as given. -/
def hdrBytes (p : Pkt) (hops : Nat) (ce : Bool) : List Byte :=
  toBE 4 (p.op * 2 ^ 24 + hops * 2 ^ 20 + p.tclass * 2 ^ 17 + p.gen * 2 ^ 16 + b2n ce * 2 ^ 15 +
    b2n p.spray * 2 ^ 14 + p.rsvA * 2 ^ 13 + p.len) ++
  toBE 4 (p.did * 2 ^ 12 + p.sid / 2 ^ 8) ++
  toBE 4 (p.sid % 2 ^ 8 * 2 ^ 24 + p.tenant * 2 ^ 8 + p.rsvB) ++
  toBE 4 (p.flow * 2 ^ 16 + p.tag) ++
  toBE 8 p.opf

/-- The packet of 24 header bytes, on a VC, with no payload yet. -/
def parseHdr (vc : Nat) (b : List Byte) : Pkt :=
  let w0 := beAt b 0 4
  let w1 := beAt b 4 4
  let w2 := beAt b 8 4
  let w3 := beAt b 12 4
  { op := bits w0 31 24, hops := bits w0 23 20, tclass := bits w0 19 17, gen := bits w0 16 16, ce := bit w0 15,
    spray := bit w0 14, rsvA := bits w0 13 13, len := bits w0 12 0, did := bits w1 31 12,
    sid := bits w1 11 0 * 2 ^ 8 + bits w2 31 24, tenant := bits w2 23 8, rsvB := bits w2 7 0,
    flow := bits w3 31 16, tag := bits w3 15 0, opf := beAt b 16 8, vc := vc }

/-- The packet CRC: over the header with hops and ce taken as 0 and the payload (R73). -/
def pktCrc (p : Pkt) : Nat := crc32 (hdrBytes p 0 false ++ p.payload)

/-- The cells of a packet of `len` payload bytes (R72). -/
def cellsOf (len : Nat) : Nat :=
  if len ≤ 32 then 1
  else if len ≤ 36 then 2
  else 2 + (len - 36) / 60 + (if (len - 36) % 60 > 56 then 1 else 0)

end Sys2Proof.Machine
end

