-- ==== Sys2Proof/Machine/HbmAccess.lean ====
section
/-! DEFINITION. HBM as the engines reach it (12_hbm.md R321 to R330): where an address lies in its stack, the classes that
are paused, the errors that reads meet, reads and writes. -/

namespace Sys2Proof.Machine

/-! Placement (R321, R338). -/

/-- The pseudo-channels of a stack whose channel is not mapped out, in ascending order. -/
def livePcs (out : Nat) : List Nat := (upto 64).filter fun p => !bit out (p / 2)

/-- Where offset `o` of a stack with the mapped-out channels `out` lies: its pseudo-channel, and its address within it. -/
def hbmPlace (out o : Nat) : Nat × Nat :=
  let live := livePcs out
  let n := live.length
  let u := o / 2 ^ 8
  let b := u / n
  let s := xorN (xorN (xorN b (b / 2 ^ 6)) (b / 2 ^ 12)) (b / 2 ^ 18)
  (live.getD ((u % n + s % n) % n) 0, b * 2 ^ 8 + o % 2 ^ 8)

/-- The channel that serves an HPA: the channel of its pseudo-channel, with the channels that training mapped out. -/
def Dev.hbmChannel (d : Dev) (a : Nat) : Nat := (hbmPlace (d.rdN .hbmChOut (a / 2 ^ 36)) (a % 2 ^ 36)).1 / 2

/-! Classes paused by temperature (R329, R330). -/

/-- A class is paused in a stack: P2 and P3 from level HOT on, P1 at CRITICAL (Table 12-4). -/
def Dev.classPaused (d : Dev) (hs cls : Nat) : Bool :=
  let level := d.rdF .hbmStatus hs 19 18
  decide (cls ≠ 0) && decide ((if cls = 1 then 3 else 2) ≤ level)

/-! Errors (R327). -/

/-- HBM_UE: an uncorrectable read is counted, latched if the register is clear, and recorded. -/
def Dev.hbmUe (d : Dev) (a : Nat) : Dev :=
  let hs := a / 2 ^ 36
  let d := d.bump .hbmUeCnt hs
  let d := if d.rdB .hbmUeLocHi hs 31 then d
    else (d.wr .hbmUeLocLo hs (word a)).wr .hbmUeLocHi hs (word (2 ^ 31 + a / 2 ^ 32))
  d.raise (hs / 4) 0x0701 sevError [hs, a % 2 ^ 32, a / 2 ^ 32]

/-- A corrected read: counted and latched. -/
def Dev.hbmCe (d : Dev) (a : Nat) : Dev :=
  let hs := a / 2 ^ 36
  let d := d.bump .hbmCeCnt hs
  if d.rdB .hbmCeLocHi hs 31 then d
  else (d.wr .hbmCeLocLo hs (word a)).wr .hbmCeLocHi hs (word (2 ^ 31 + a / 2 ^ 32))

/-- The block at an HPA becomes uncorrectable: it stays so until it is written (R327). -/
def Dev.spoil (d : Dev) (a : Nat) : Dev := if d.ue.contains (a / 32) then d else { d with ue := a / 32 :: d.ue }

/-- One symbol of the block at an HPA becomes erroneous: reads are corrected until it is written (R327). -/
def Dev.smudge (d : Dev) (a : Nat) : Dev := if d.ce.contains (a / 32) then d else { d with ce := a / 32 :: d.ce }

/-- What an access meets in the block at an HPA: 0 nothing new, 1 one erroneous symbol, 2 an uncorrectable error. -/
def Dev.upset (d : Dev) (a u : Nat) : Dev := if u = 0 then d else if u = 1 then d.smudge a else d.spoil a

/-- Blocks of a list that share a byte with a range. -/
def blocksIn (l : List Nat) (a n : Nat) : List Nat := l.filter fun b => decide (b * 32 < a + n) && decide (a < b * 32 + 32)

/-- Blocks of a range that read uncorrectable. -/
def Dev.badBlocks (d : Dev) (a n : Nat) : List Nat := blocksIn d.ue a n

/-- n bytes from a lie wholly in blocks that read correctly. -/
def Dev.hbmGood (d : Dev) (a n : Nat) : Bool := (d.badBlocks a n).isEmpty

/-- The blocks that lie wholly in n bytes from a have been written: they read good again (R327). -/
def Dev.mend (d : Dev) (a n : Nat) : Dev :=
  let out := fun (b : Nat) => !(decide (a ≤ b * 32) && decide (b * 32 + 32 ≤ a + n))
  { d with ue := d.ue.filter out, ce := d.ce.filter out }

/-- Bytes moved in a class, in whole 32-byte blocks (R322). -/
def Dev.hbmUse (d : Dev) (a n cls : Nat) : Dev :=
  if n = 0 then d
  else
    let hs := a / 2 ^ 36
    let bytes := 32 * ((a + n + 31) / 32 - a / 32)
    ((d.touchStack hs).bump64 .hbmBytesLo .hbmBytesHi (hs * 4 + cls) bytes).ocu (hs / 4) 18 { lp := some (hs % 4), tclass := some cls } bytes

/-- The corrected block is written back at P3 (R327). -/
def Dev.writeBack (d : Dev) (b : Nat) : Dev := { d.hbmUse (b * 32) 32 3 with ce := d.ce.filter (· != b) }

/-- A read of n bytes at an HPA, as the controller sees it: corrected blocks are counted, latched and written back, unless P3
is paused, in which case the write-back waits (R330); uncorrectable blocks are counted and recorded. -/
def Dev.hbmSeen (d : Dev) (a n cls : Nat) : Dev :=
  let d := d.hbmUse a n cls
  let bad := d.badBlocks a n
  let ce := (blocksIn d.ce a n).filter fun b => !bad.contains b
  let d := ce.foldl (fun d b =>
    let d := d.hbmCe (b * 32)
    if d.classPaused (b / 2 ^ 31) 3 then d else d.writeBack b) d
  bad.foldl (fun d b => d.hbmUe (b * 32)) d

/-- The write-backs of a stack that waited for P3 (R330). -/
def Dev.writeBacks (d : Dev) (hs : Nat) : Dev := (d.ce.filter fun b => b / 2 ^ 31 == hs).foldl Dev.writeBack d

/-! Reads and writes. -/

/-- A read of n bytes at an HPA; none where a block is uncorrectable. -/
def hbmRead (s : State) (a n cls : Nat) : State × Option (List Byte) :=
  (s.on fun d => d.hbmSeen a n cls, if s.dev.hbmGood a n then some (hbmBytes s.hbm a n) else none)

/-- A write at an HPA: it fails where it covers part of an uncorrectable block (R327), and mends a block it covers whole. -/
def hbmWrite (s : State) (a : Nat) (bs : List Byte) (cls : Nat) : State × Bool :=
  let n := bs.length
  let part := fun b => decide (b * 32 < a) || decide (a + n < b * 32 + 32)
  let s := s.on fun d => d.hbmUse a n cls
  let bad := s.dev.badBlocks a n
  let whole := fun (d : Dev) => { d with ue := d.ue.filter fun b => !bad.contains b
                                         ce := d.ce.filter fun b => !(blocksIn d.ce a n).contains b }
  match bad.filter part with
  | [] => ({ pending := s.pending, dev := whole s.dev, hbm := hbmPutBytes s.hbm a bs }, true)
  | f => (s.on fun d => f.foldl (fun d b => d.hbmUe (b * 32)) d, false)

/-! Accesses that wait (R325, R330). -/

/-- n bytes from a and m bytes from b share a 32-byte block. -/
def shareBlock (a n b m : Nat) : Bool :=
  decide (0 < n) && decide (0 < m) && decide (a / 32 ≤ (b + m - 1) / 32) && decide (b / 32 ≤ (a + n - 1) / 32)

/-- The bytes of the line that a request to memory reaches: a whole line, or inside one block. -/
def memSpan (p : Pkt) : Nat := if p.op = 0x20 ∨ p.op = 0x22 then 64 else 1

/-- A waiting access writes to a block of a range. -/
def Later.writes (x : Later) (a n : Nat) : Bool :=
  match x with
  | .write b bs _ => shareBlock a n b bs.length
  | .hostRead _ _ _ _ => false

/-- Entry e has been issued to HBM and is not performed. -/
def MemEnt.inHbm (e : MemEnt) : Bool := e.peer.isNone && e.run.isSome && !e.quar

/-- A write to a block of a range has been received and is paused (R325, R330): one that waits, or a store or atomic of the
memory fabric. -/
def Dev.hbmHeld (d : Dev) (a n : Nat) : Bool :=
  d.mem.later.any (fun x => x.writes a n) ||
  d.mem.ents.any fun e => e.2.inHbm && e.2.p.op != 0x20 && e.2.p.op != 0x21 && d.classPaused (e.2.addr / 2 ^ 36) 1 &&
    shareBlock a n e.2.addr (memSpan e.2.p)

/-- An access of a class waits. -/
def Dev.hbmWaits (d : Dev) (a n cls : Nat) : Bool := d.classPaused (a / 2 ^ 36) cls || d.hbmHeld a n

/-- n bytes that are free values. -/
def Dev.freeBytes (d : Dev) : Nat → Dev × List Byte
  | 0 => (d, [])
  | n + 1 =>
    let (x, d) := d.free
    let (d, bs) := d.freeBytes n
    (d, BitVec.ofNat 8 x :: bs)

/-- A host's BAR4 read that the controller answers as uncorrectable: its bytes are free values (assumption 93). -/
def Dev.hostReadBad (d : Dev) (h off n : Nat) : Dev :=
  let (d, bs) := d.freeBytes n
  d.emit (.bar4 h off (some bs))

/-- A host's BAR4 read at an HPA. -/
def hostReadNow (s : State) (h off a n : Nat) : State :=
  match hbmRead s a n 1 with
  | (s, some bs) => s.on fun d => d.emit (.bar4 h off (some bs))
  | (s, none) => s.on fun d => d.hostReadBad h off n

/-- An access waits, behind those that wait already. -/
def Dev.waitLater (d : Dev) (x : Later) : Dev := { d with mem := { d.mem with later := d.mem.later ++ [x] } }

/-- A host's BAR4 read: performed, or waiting. -/
def hostRead (s : State) (h off a n : Nat) : State :=
  if s.dev.hbmWaits a n 1 then s.on fun d => d.waitLater (.hostRead h off a n) else hostReadNow s h off a n

/-- A write that nobody waits for: performed, or waiting. -/
def hbmPost (s : State) (a : Nat) (bs : List Byte) (cls : Nat) : State :=
  if s.dev.hbmWaits a bs.length cls then s.on fun d => d.waitLater (.write a bs cls) else (hbmWrite s a bs cls).1

/-- The stack of a waiting access. -/
def Later.stack : Later → Nat
  | .hostRead _ _ a _ => a / 2 ^ 36
  | .write a _ _ => a / 2 ^ 36

/-- The accesses that wait in a stack, each performed if nothing pauses it any more. -/
def laterGo (s : State) (hs : Nat) : State :=
  let mine := s.dev.mem.later.filter fun x => x.stack == hs
  let s := s.on fun d => { d with mem := { d.mem with later := d.mem.later.filter fun x => x.stack != hs } }
  mine.foldl (fun s x => match x with
    | .hostRead h off a n => hostRead s h off a n
    | .write a bs cls => hbmPost s a bs cls) s

/-- The accesses that wait in a stack that leaves ACTIVE: reads are answered as uncorrectable, writes are lost (R331). -/
def Dev.laterLost (d : Dev) (hs : Nat) : Dev :=
  let mine := d.mem.later.filter fun x => x.stack == hs
  let d := { d with mem := { d.mem with later := d.mem.later.filter fun x => x.stack != hs } }
  mine.foldl (fun d x => match x with
    | .hostRead h off _ n => d.hostReadBad h off n
    | .write _ _ _ => d) d

end Sys2Proof.Machine
end

