-- ==== Sys2Proof/Machine/Tables.lean ====
section
/-! DEFINITION. The hardware tables and their lookups (05_tables.md R122 to R127, R138 to R147; 11 R291): on-die entries,
the Learned Endpoint Tables and the page maps in HBM. -/

namespace Sys2Proof.Machine

/-! On-die entries. -/

/-- The key of an entry: table, generation, unit (pipeline, die, or 0 for a replicated table) and index. -/
def tkey (t gen unit idx : Nat) : Nat := ((t * 2 + gen) * 64 + unit) * 2 ^ 25 + idx

/-- The words of an on-die entry; an unlisted entry is zeros (R123). -/
def Dev.ent (d : Dev) (t gen unit idx : Nat) : List Word := SMap.getD d.tab.ent (tkey t gen unit idx) []

/-- Word w of an on-die entry, as a number. -/
def Dev.entW (d : Dev) (t gen unit idx w : Nat) : Nat := ((d.ent t gen unit idx).getD w 0).toNat

/-- Word w of a list of words, as a number. -/
def wat (ws : List Word) (i : Nat) : Nat := (ws.getD i 0).toNat

/-- An entry of zeros only. -/
def zeroWords (ws : List Word) : Bool := ws.all fun w => w == 0

/-- The words of an on-die entry. A Route Table unit that holds a key is listed whatever its words are; no words: it is free.
An indexed entry of zeros is not listed. -/
def Dev.storeEnt (d : Dev) (t gen unit idx : Nat) (ws : List Word) : Dev :=
  let k := tkey t gen unit idx
  let gone := if t = 0 then ws.isEmpty else zeroWords ws
  { d with tab := { d.tab with ent := if gone then SMap.erase d.tab.ent k else SMap.insert k ws d.tab.ent } }

/-- An on-die entry written whole, with good parity (R124). -/
def Dev.putEnt (d : Dev) (t gen unit idx : Nat) (ws : List Word) : Dev :=
  let d := d.storeEnt t gen unit idx ws
  { d with tab := { d.tab with bad := SMap.keep d.tab.bad fun x => x / 8 != tkey t gen unit idx } }

/-- Word w of an on-die entry changed by the device; the others stay, and a bad entry stays bad (R126). -/
def Dev.putEntW (d : Dev) (t gen unit idx w v : Nat) : Dev :=
  let ws := d.ent t gen unit idx
  let ws := ws ++ List.replicate (w + 1 - ws.length) 0
  d.storeEnt t gen unit idx (setAt ws w (word v))

/-- The entry has bad parity in the copy of a die (R125). -/
def Dev.entBad (d : Dev) (die t gen unit idx : Nat) : Bool := SMap.getD d.tab.bad (tkey t gen unit idx * 8 + die) false

/-- The entry has bad parity in some copy. -/
def Dev.entAnyBad (d : Dev) (t gen unit idx : Nat) : Bool := d.tab.bad.any fun x => x.1 / 8 == tkey t gen unit idx

/-- TABLE_PARITY (R125): a bad entry met is counted, latched if TAP_PERR_LOC is clear, and recorded. -/
def Dev.perr (d : Dev) (die t pipe idx : Nat) : Dev :=
  let loc := t * 2 ^ 28 + pipe * 2 ^ 25 + idx
  let d := d.bump .tapPerrCnt die
  let d := if d.rdN .tapPerrLoc die = 0 then d.wr .tapPerrLoc die (word loc) else d
  d.raise die 0x0310 sevError [t * 2 ^ 28 + pipe * 2 ^ 25, idx]

/-- A lookup meets an on-die entry, which is handled if it is bad (R125). -/
def Dev.meets (d : Dev) (die t gen unit idx : Nat) : Dev :=
  if d.entBad die t gen unit idx then d.perr die t (if t = 5 ∨ t = 12 then unit % 8 else 0) idx else d

/-! Sizes (Table 5-1). -/

/-- Slots of a copy of a table. -/
def tableSlots (t : Nat) : Nat :=
  match t with
  | 0 => 524288 | 1 => 65536 | 2 => 262144 | 3 => 33554432 | 4 => 4096 | 5 => 4096 | 6 => 8192 | 7 => 2048
  | 8 => 1024 | 9 => 2048 | 10 => 4096 | 11 => 1048576 | 12 => 256 | _ => 0

/-- Words of an entry of an indexed table. -/
def tableWords (t : Nat) : Nat :=
  match t with
  | 1 => 2 | 2 => 4 | 4 => 8 | 5 => 8 | 6 => 8 | 7 => 8 | 8 => 16 | 9 => 16 | 10 => 16 | 12 => 2 | _ => 0

/-- Replicated tables (R131). -/
def replicated (t : Nat) : Bool := [0, 1, 2, 4, 10, 11].contains t

/-- Per-pipeline tables. -/
def perPipe (t : Nat) : Bool := [3, 5, 12].contains t

/-- The unit an index of a table belongs to, on a die and pipeline. -/
def tableUnit (t die pipe : Nat) : Nat := if replicated t then 0 else if perPipe t then die * 8 + pipe else die

/-! The Route Table (04 R97, R98; 05 R138). An entry's words are TAP_KEY0 to TAP_KEY4 and the data word. -/

/-- Address bits of a kind. -/
def kindBits (kind : Nat) : Nat := if kind = 0 then 20 else if kind = 1 then 32 else 128

/-- The address of a route key. -/
def keyAddr (kind : Nat) (k : List Word) : Nat :=
  let w := fun i => (k.getD i 0).toNat
  if kind = 0 then w 1 % 2 ^ 20
  else if kind = 1 then w 1
  else ((w 1 * 2 ^ 32 + w 2) * 2 ^ 32 + w 3) * 2 ^ 32 + w 4

/-- The key words of a route: address bits beyond the prefix are 0 (R138). -/
def routeKey (kind len addr : Nat) : List Word :=
  let n := kindBits kind
  let a := addr / 2 ^ (n - len) * 2 ^ (n - len)
  let k0 := word (kind * 2 ^ 30 + len)
  if kind = 2 then [k0, word (a / 2 ^ 96), word (a / 2 ^ 64), word (a / 2 ^ 32), word a]
  else [k0, word a, 0, 0, 0]

/-- Entries of one table, generation and unit: index and words. -/
def Dev.entries (d : Dev) (t gen unit : Nat) : List (Nat × List Word) :=
  (d.tab.ent.filter fun e => e.1 / 2 ^ 25 == (t * 2 + gen) * 64 + unit).map fun e => (e.1 % 2 ^ 25, e.2)

/-- A route entry matches an address of its kind. -/
def routeMatch (kind addr : Nat) (ws : List Word) : Bool :=
  let k0 := (ws.getD 0 0).toNat
  let len := k0 % 256
  let n := kindBits kind
  k0 / 2 ^ 30 == kind && keyAddr kind ws / 2 ^ (n - len) == addr / 2 ^ (n - len)

/-- Longest-prefix lookup: slot and data word (04 R97). -/
def Dev.route (d : Dev) (gen kind addr : Nat) : Option (Nat × Nat) :=
  ((d.entries 0 gen 0).foldl (fun (a : Option (Nat × Nat × Nat)) e =>
    if routeMatch kind addr e.2 then
      let len := (e.2.getD 0 0).toNat % 256
      match a with
      | some (_, _, l) => if l < len then some (e.1, (e.2.getD 5 0).toNat, len) else a
      | none => some (e.1, (e.2.getD 5 0).toNat, len)
    else a) none).map fun x => (x.1, x.2.1)

/-- Units a route key takes (Table 4-2). -/
def routeUnits (k : List Word) : Nat :=
  let k0 := (k.getD 0 0).toNat
  if k0 / 2 ^ 30 = 2 ∧ 64 < k0 % 256 then 2 else 1

/-- The slot of a route with exactly this key. -/
def Dev.routeSlot (d : Dev) (gen : Nat) (k : List Word) : Option Nat :=
  ((d.entries 0 gen 0).find? fun e => e.2.take 5 == k).map (·.1)

/-- Units taken in a generation. -/
def Dev.routeTaken (d : Dev) (gen : Nat) : List Nat :=
  (d.entries 0 gen 0).flatMap fun e => if routeUnits e.2 = 2 then [e.1, e.1 + 1] else [e.1]

/-- The slots a new key of n units may take, of which the free value picks one (R138): even slots with a free pair for
two units. The list starts at the pick and the first fit from there on is the slot. -/
def pickSlot (taken : List Nat) (units : Nat) : Nat → Nat → Option Nat
  | _, 0 => none
  | start, fuel + 1 =>
    let ok := if units = 2 then !taken.contains start && !taken.contains (start + 1) else !taken.contains start
    if ok then some start
    else
      let next := if start + units ≥ 524288 then 0 else start + units
      pickSlot taken units next fuel

/-- A route inserted, with error code 0, 5 FULL or 6 DUPLICATE, and the slot. A bad entry of the key is written again in
its slot (R126). -/
def Dev.routeInsert (d : Dev) (gen : Nat) (k : List Word) (data : Word) : Dev × Nat × Nat :=
  match d.routeSlot gen k with
  | some x => if d.entAnyBad 0 gen 0 x then (d.putEnt 0 gen 0 x (k ++ [data]), 0, x) else (d, 6, 0)
  | none =>
    let units := routeUnits k
    let (f, d1) := d.free
    let taken := d.routeTaken gen
    let start := if units = 2 then f % 262144 * 2 else f % 524288
    match pickSlot taken units start (524288 / units) with
    | none => (d, 5, 0)
    | some s => (d1.putEnt 0 gen 0 s (k ++ [data]), 0, s)

/-- A route deleted, with error code 0 or 7 NOT_FOUND, and the slot. -/
def Dev.routeDelete (d : Dev) (gen : Nat) (k : List Word) : Dev × Nat × Nat :=
  match d.routeSlot gen k with
  | some s => (d.putEnt 0 gen 0 s [], 0, s)
  | none => (d, 7, 0)

/-! Next-hop groups and members (04 R99, Tables 4-4 and 4-5). -/

/-- A next-hop group. -/
structure Group where
  mcast : Bool
  sprayOk : Bool
  count : Nat
  base : Nat

/-- Group g of generation x. -/
def Dev.group (d : Dev) (x g : Nat) : Group :=
  let w0 := d.entW 1 x 0 g 0
  ⟨bits w0 31 30 == 1, bit w0 29, bits w0 8 0, bits (d.entW 1 x 0 g 1) 17 0⟩

/-- A member entry: port and rewrite. -/
def Dev.member (d : Dev) (x m : Nat) : Target :=
  let w1 := d.entW 2 x 0 m 1
  ⟨bits (d.entW 2 x 0 m 0) 10 0, ⟨bits w1 31 20, d.entW 2 x 0 m 2 * 2 ^ 16 + d.entW 2 x 0 m 3 / 2 ^ 16, bits w1 19 0, 0⟩⟩

/-! HBM-resident entries. -/

/-- Words of an HBM-resident entry, little-endian (00 R2). -/
def hbmWords (m : List Host.Cell) (a n : Nat) : List Nat := (upto n).map fun i => ofLE (hbmBytes m (a + 4 * i) 4)

/-- Words written, little-endian. -/
def hbmPutWords (m : List Host.Cell) (a : Nat) (ws : List Nat) : List Host.Cell :=
  hbmPutBytes m a (ws.flatMap (toLE 4))

/-- The parity of words: the number of their bits that are set, modulo 2. A zero entry has good parity (R123), so good
parity is even. -/
def wordsOdd (ws : List Nat) : Bool := (ws.foldl (fun n w => n + popcount 32 w) 0) % 2 == 1

/-! The Learned Endpoint Table (R139 to R147). -/

/-- The pipeline has a LET (12 R337). -/
def Dev.letOn (d : Dev) (pl : Nat) : Bool := d.rdB .plnLetBaseHi pl 31

/-- The HPA of a LET slot (R140). -/
def Dev.letAddr (d : Dev) (pl slot : Nat) : Nat := d.rdBase .plnLetBaseLo .plnLetBaseHi pl + slot * 32

/-- The eight words of a LET slot. -/
def letWords (s : State) (pl slot : Nat) : List Nat := hbmWords s.hbm (s.dev.letAddr pl slot) 8

/-- Fields of LET words (Table 5-4). -/
def letValid (ws : List Nat) : Bool := bit (ws.getD 0 0) 29
def letStatic (ws : List Nat) : Bool := bit (ws.getD 0 0) 28
def letTenant (ws : List Nat) : Nat := bits (ws.getD 0 0) 15 0
def letLp (ws : List Nat) : Nat := bits (ws.getD 6 0) 10 0
def letStamp (ws : List Nat) : Nat := bits (ws.getD 6 0) 31 16

/-- The key words of an entry: bytes 0 to 11 with valid and static 0 (R140). -/
def letKeyOf (ws : List Nat) : List Nat :=
  [putBits (ws.getD 0 0) 29 28 0, ws.getD 1 0, ws.getD 2 0]

/-- The key words of (kind, tenant, vlan, address) (Table 5-4). -/
def letKey (kind tenant vlan addr : Nat) : List Nat :=
  if kind = 0 then [vlan % 4096 * 2 ^ 16 + tenant, addr / 2 ^ 16 % 2 ^ 32, addr % 2 ^ 16 * 2 ^ 16]
  else [kind * 2 ^ 30 + vlan % 4096 * 2 ^ 16 + tenant, addr % 2 ^ 20, 0]

/-- The two buckets of a key (R140). -/
def letBuckets (key : List Nat) : List Nat :=
  let bs := key.flatMap (toLE 4)
  [crc32cSeed 0x5EFE0000 bs % 2 ^ 23, crc32cSeed 0x5EFE0001 bs % 2 ^ 23]

/-- The slots of the buckets, b0 first. -/
def bucketSlots (bk : List Nat) : List Nat := bk.flatMap fun b => [b * 4, b * 4 + 1, b * 4 + 2, b * 4 + 3]

/-- An entry reads bad: wrong parity, or an uncorrectable read (R125). -/
def letBad (s : State) (pl slot : Nat) : Bool :=
  wordsOdd (letWords s pl slot) || !s.dev.hbmGood (s.dev.letAddr pl slot) 32

/-- The enabled tenant limit slot of a pipeline that names a tenant; a bad one is none (R125, Table 5-1). -/
def Dev.tenantSlot (d : Dev) (pl tenant : Nat) : Option (Nat × List Word) :=
  (d.entries 12 0 pl).find? fun e =>
    bit (e.2.getD 0 0).toNat 31 && bits (e.2.getD 0 0).toNat 15 0 == tenant && !d.entBad (pl / 8) 12 0 pl e.1

/-- The bad slots that a search for a tenant's limit meets (R125). -/
def Dev.tenantMeets (d : Dev) (pl : Nat) : Dev :=
  (d.tab.bad.filter fun x => x.1 / 8 / 2 ^ 25 == 12 * 2 * 64 + pl && x.1 % 8 == pl / 8).foldl
    (fun d x => d.meets (pl / 8) 12 0 pl (x.1 / 8 % 2 ^ 25)) d

/-- Learned entries counted (R146): PLN_LET_LP_COUNT of a port of the pipeline and the tenant limit slot that matches;
`up` adds, otherwise takes away. -/
def Dev.letCount (d : Dev) (pl lp tenant : Nat) (up : Bool) : Dev :=
  let add := fun n => if up then n + 1 else n - 1
  let d := if lpPl lp = pl then d.wrF .plnLetLpCount lp 25 0 (add (d.rdF .plnLetLpCount lp 25 0)) else d
  match d.tenantSlot pl tenant with
  | some e => { d with tab := { d.tab with letTenant := SMap.modify d.tab.letTenant (pl * 256 + e.1) 0 add } }
  | none => d

/-- The stack of a pipeline's LET. -/
def Dev.letStack (d : Dev) (pl : Nat) : Nat := d.letAddr pl 0 / 2 ^ 36

/-- A LET slot written at P1, with its parity computed (R124); a write of the whole block mends it (12 R327). -/
def letPut (s : State) (pl slot : Nat) (ws : List Nat) : State :=
  let ws := setAt ws 7 (ws.getD 7 0 / 2 * 2)
  let ws := setAt ws 7 (ws.getD 7 0 + b2n (wordsOdd ws))
  (hbmWrite s (s.dev.letAddr pl slot) (ws.flatMap (toLE 4)) 1).1

/-- A LET slot invalidated; a learned entry leaves the counts. -/
def letClear (s : State) (pl slot : Nat) : State :=
  let ws := letWords s pl slot
  let s := letPut s pl slot (setAt ws 0 (putBits (ws.getD 0 0) 29 29 0))
  s.on fun d =>
    let d := if !letValid ws || letStatic ws then d else d.letCount pl (letLp ws) (letTenant ws) false
    { d with tab := { d.tab with letCache := SMap.modify d.tab.letCache pl [] (·.filter (· != slot)) } }

/-- A bad LET entry found: counted, latched, recorded and invalidated (R125, R126), unless writes of P1 are paused
(12 R329). -/
def letHandleBad (s : State) (pl slot : Nat) : State :=
  let s := s.on fun d => d.perr (pl / 8) 3 (pl % 8) slot
  if s.dev.classPaused (s.dev.letStack pl) 1 then s else letClear s pl slot

/-- Some slots of a LET are read; bad entries among them are handled. -/
def letPurge (s : State) (pl : Nat) (slots : List Nat) : State :=
  slots.foldl (fun s x => if letBad s pl x then letHandleBad s pl x else s) s

/-- A bucket of a LET is read from HBM at P0 (R143). -/
def letSee (s : State) (pl b : Nat) : State :=
  letPurge (s.on fun d => d.hbmSeen (d.letAddr pl (b * 4)) 128 0) pl (bucketSlots [b])

/-- The LET of a pipeline lies in a stack that is out of service: lookups miss and insertions fail (12 Table 12-6). -/
def Dev.letDead (d : Dev) (pl : Nat) : Bool := !d.stackUp (d.letStack pl)

/-- A slot holds a good entry with a key. -/
def letHolds (s : State) (pl : Nat) (key : List Nat) (x : Nat) : Bool :=
  letValid (letWords s pl x) && letKeyOf (letWords s pl x) == key && !letBad s pl x

/-- The slot that holds a key, by a read of both buckets; bad entries met are handled and miss. -/
def letFind (s : State) (pl : Nat) (key : List Nat) : State × Option Nat :=
  if s.dev.letDead pl then (s, none) else
  let bk := letBuckets key
  let s := bk.eraseDups.foldl (fun s b => letSee s pl b) s
  (s, (bucketSlots bk).find? (letHolds s pl key))

/-- The slot that the on-die cache holds for a key (R143). -/
def letCached (s : State) (pl : Nat) (key : List Nat) : Option Nat :=
  if s.dev.letDead pl then none else (SMap.getD s.dev.tab.letCache pl []).find? (letHolds s pl key)

/-- The other bucket of the entry in a slot. -/
def letAlt (s : State) (pl slot : Nat) : Nat :=
  match letBuckets (letKeyOf (letWords s pl slot)) with
  | [a, b] => if slot / 4 = a then b else a
  | _ => 0

/-- A free slot of a bucket. -/
def letFree (s : State) (pl b : Nat) : Option Nat :=
  (bucketSlots [b]).find? fun x => !letValid (letWords s pl x)

/-- Breadth-first search for a path of displacements (R140): each path is its slots, last one first; up to `fuel`
moves more. The buckets it comes to are read, and bad entries in them handled. The answer ends in a free slot. -/
def letPath (pl : Nat) : Nat → List (List Nat) → State → State × Option (List Nat)
  | 0, _, s => (s, none)
  | fuel + 1, ps, s =>
    let s := (ps.map fun p => letAlt s pl (p.headD 0)).eraseDups.foldl (fun s b => letSee s pl b) s
    match ps.findSome? fun p => (letFree s pl (letAlt s pl (p.headD 0))).map (· :: p) with
    | some p => (s, some p)
    | none => letPath pl fuel (ps.flatMap fun p => (bucketSlots [letAlt s pl (p.headD 0)]).filterMap fun x =>
        if p.contains x then none else some (x :: p)) s

/-- The moves of a path, free end first: each entry goes to the slot before it is left free (R140); the cache follows. -/
def letMoves (s : State) (pl : Nat) : List Nat → State
  | dst :: src :: t =>
    let ws := letWords s pl src
    let s := letPut s pl dst ws
    let s := letPut s pl src (setAt ws 0 (putBits (ws.getD 0 0) 29 29 0))
    let move := fun (c : List Nat) => c.map fun x => if x = src then dst else x
    let s := s.on fun d => { d with tab := { d.tab with letCache := SMap.modify d.tab.letCache pl [] move } }
    letMoves s pl (src :: t)
  | _ => s

/-- An absent key placed, its buckets read before: the slot it takes, or none where no path exists (R140). -/
def letPlace (s : State) (pl : Nat) (ws : List Nat) : State × Option Nat :=
  if s.dev.letDead pl then (s, none) else
  let bk := letBuckets (letKeyOf ws)
  let free := (bucketSlots bk).find? fun x => !letValid (letWords s pl x)
  let done := fun (s : State) (x : Nat) =>
    let s := letPut s pl x ws
    (if letStatic ws then s else s.on fun d => d.letCount pl (letLp ws) (letTenant ws) true, some x)
  match free with
  | some x => done s x
  | none =>
    match letPath pl 8 ((bucketSlots bk).map fun x => [x]) s with
    | (s, none) => (s, none)
    | (s, some p) => done (letMoves s pl p) (p.getLastD 0)

/-- A learned entry is expired (R142): its age in units of 65,536 bells has reached max_age; 0 disables expiry. -/
def Dev.letExpired (d : Dev) (pl : Nat) (ws : List Nat) : Bool :=
  let age := d.rdF .plnLetCfg pl 15 0
  letValid ws && !letStatic ws && age != 0 &&
    decide (age ≤ (d.bellStamp + 2 ^ 16 - letStamp ws) % 2 ^ 16)

/-! The tenant page map (11 R291, R292): one copy per die at MEM_PMAP_BASE. -/

/-- The die's copy is allocated (12 R337). -/
def Dev.pmapOn (d : Dev) (die : Nat) : Bool := d.rdB .memPmapBaseHi die 31

/-- The HPA of a page-map slot in a die's copy. -/
def Dev.pmapAddr (d : Dev) (die slot : Nat) : Nat := d.rdBase .memPmapBaseLo .memPmapBaseHi die + slot * 8

/-- The two words of a slot. -/
def pmapWords (s : State) (die slot : Nat) : List Nat := hbmWords s.hbm (s.dev.pmapAddr die slot) 2

/-- Fields of page-map words (Table 11-2). -/
def pmapValid (ws : List Nat) : Bool := bit (ws.getD 0 0) 31
def pmapRo (ws : List Nat) : Bool := bit (ws.getD 0 0) 30
def pmapTenant (ws : List Nat) : Nat := bits (ws.getD 0 0) 27 12
def pmapPage (ws : List Nat) : Nat := bits (ws.getD 0 0) 11 0 * 2 ^ 8 + bits (ws.getD 1 0) 31 24
def pmapHpa (ws : List Nat) : Nat := bits (ws.getD 1 0) 19 0

/-- The two buckets of a key (R291). -/
def pmapBuckets (tenant page : Nat) : List Nat :=
  let bs := toLE 2 tenant ++ toLE 4 page
  [crc32cSeed 0x5EFE0020 bs % 2 ^ 18, crc32cSeed 0x5EFE0021 bs % 2 ^ 18]

/-- The words of an entry, parity computed. -/
def pmapMake (tenant page hpa : Nat) (ro : Bool) : List Nat :=
  let w0 := 2 ^ 31 + b2n ro * 2 ^ 30 + tenant % 2 ^ 16 * 2 ^ 12 + page / 2 ^ 8 % 2 ^ 12
  let w1 := page % 2 ^ 8 * 2 ^ 24 + hpa % 2 ^ 20
  [w0, w1 + b2n (wordsOdd [w0, w1]) * 2 ^ 20]

/-- An entry reads bad (R125). -/
def pmapBad (s : State) (die slot : Nat) : Bool :=
  wordsOdd (pmapWords s die slot) || !s.dev.hbmGood (s.dev.pmapAddr die slot) 8

/-- The slot of a key in a die's copy, good or bad. -/
def pmapAny (s : State) (die tenant page : Nat) : Option Nat :=
  (bucketSlots (pmapBuckets tenant page)).find? fun x =>
    let ws := pmapWords s die x
    pmapValid ws && pmapTenant ws == tenant && pmapPage ws == page

/-- The slot of a key in a die's copy, among good entries. -/
def pmapSlot (s : State) (die tenant page : Nat) : Option Nat :=
  (bucketSlots (pmapBuckets tenant page)).find? fun x =>
    let ws := pmapWords s die x
    pmapValid ws && pmapTenant ws == tenant && pmapPage ws == page && !pmapBad s die x

/-- The stack of a die's copy. -/
def Dev.pmapStack (d : Dev) (die : Nat) : Nat := d.pmapAddr die 0 / 2 ^ 36

/-- The buckets of a key are read at P0 (R291): each is one block, and bad entries met are counted and recorded (R125). -/
def pmapSee (s : State) (die tenant page : Nat) : State :=
  let bk := (pmapBuckets tenant page).eraseDups
  let bad := (bucketSlots bk).filter (pmapBad s die)
  s.on fun d =>
    let d := bk.foldl (fun d b => d.hbmSeen (d.pmapAddr die (b * 4)) 32 0) d
    bad.foldl (fun d x => d.perr die 11 0 x) d

/-- The cached translation of a key (R291). -/
def Dev.pmapCached (d : Dev) (die tenant page : Nat) : Option (List Nat) :=
  (SMap.getD d.tab.pmapCache die []).find? fun ws => pmapTenant ws == tenant && pmapPage ws == page

/-- The cache of a die changed. -/
def Dev.pmapCacheSet (d : Dev) (die : Nat) (f : List (List Nat) → List (List Nat)) : Dev :=
  { d with tab := { d.tab with pmapCache := SMap.modify d.tab.pmapCache die [] f } }

/-- The cache of a die takes an entry: 16,384 entries, of which the oldest leaves (R291; DESIGN CHOICE, assumption 75). -/
def Dev.pmapFill (d : Dev) (die : Nat) (ws : List Nat) : Dev := d.pmapCacheSet die fun c => ws :: c.take 16383

/-- The cached entry of a key leaves a die. -/
def Dev.pmapUncache (d : Dev) (die tenant page : Nat) : Dev :=
  d.pmapCacheSet die fun c => c.filter fun ws => !(pmapTenant ws == tenant && pmapPage ws == page)

/-- A lookup: the words of the entry, cached or read; a die without a copy has none (12 R337), and a copy in a stack out of
service answers nothing that is not cached (12 Table 12-6). -/
def pmapLookup (s : State) (die tenant page : Nat) : Dev × Option (List Nat) :=
  if !s.dev.pmapOn die then (s.dev, none)
  else match s.dev.pmapCached die tenant page with
  | some ws => (s.dev, some ws)
  | none =>
    if !s.dev.stackUp (s.dev.pmapStack die) then (s.dev, none)
    else
      let d := (pmapSee s die tenant page).dev
      match pmapSlot s die tenant page with
      | some x => (d.pmapFill die (pmapWords s die x), some (pmapWords s die x))
      | none => (d, none)

/-- The other bucket of the entry in a slot. -/
def pmapAlt (s : State) (die slot : Nat) : Nat :=
  let ws := pmapWords s die slot
  match pmapBuckets (pmapTenant ws) (pmapPage ws) with
  | [a, b] => if slot / 4 = a then b else a
  | _ => 0

/-- A bucket can be read. -/
def Dev.bucketGood (d : Dev) (die b : Nat) : Bool := d.hbmGood (d.pmapAddr die (b * 4)) 32

/-- A free slot of a bucket that can be read. -/
def pmapFree (s : State) (die b : Nat) : Option Nat :=
  if s.dev.bucketGood die b then (bucketSlots [b]).find? fun x => !pmapValid (pmapWords s die x) else none

/-- Breadth-first search for a path, as for the LET (R291 refers to R140). -/
def pmapPath (s : State) (die : Nat) : Nat → List (List Nat) → Option (List Nat)
  | 0, _ => none
  | fuel + 1, ps =>
    match ps.findSome? fun p => (pmapFree s die (pmapAlt s die (p.headD 0))).map (· :: p) with
    | some p => some p
    | none => pmapPath s die fuel (ps.flatMap fun p =>
        let b := pmapAlt s die (p.headD 0)
        if !s.dev.bucketGood die b then [] else (bucketSlots [b]).filterMap fun x => if p.contains x then none else some (x :: p))

/-- A slot written at P1: it fails in a block that reads uncorrectable, of which it is a part (12 R327). -/
def pmapPut (s : State) (die slot : Nat) (ws : List Nat) : State × Bool :=
  hbmWrite s (s.dev.pmapAddr die slot) (ws.flatMap (toLE 4)) 1

/-- MEM_PMAP_COUNT changed. -/
def Dev.pmapCount (d : Dev) (die : Nat) (up : Bool) : Dev :=
  let n := d.rdF .memPmapCount die 20 0
  d.wrF .memPmapCount die 20 0 (if up then n + 1 else n - 1)

/-- The moves of a path, over buckets that can be read. -/
def pmapMoves (s : State) (die : Nat) : List Nat → State
  | dst :: src :: t =>
    let s := (pmapPut s die dst (pmapWords s die src)).1
    pmapMoves (pmapPut s die src [0, 0]).1 die (src :: t)
  | _ => s

/-- A die's copy cannot be changed for a key: it is out of service, or a bucket of the key reads uncorrectable (R125, R137). -/
def pmapShut (s : State) (die tenant page : Nat) : Bool :=
  !s.dev.stackUp (s.dev.pmapStack die) || (pmapBuckets tenant page).any fun b => !s.dev.bucketGood die b

/-- The buckets of a key were read in vain. -/
def pmapRefused (s : State) (die tenant page : Nat) : State :=
  if s.dev.stackUp (s.dev.pmapStack die) then pmapSee s die tenant page else s

/-- An INSERT in one die's copy: error 0, 5 FULL, 6 DUPLICATE or 8 PARITY, and the slot. A bad entry of the key is written
again in its slot (R126). -/
def pmapInsert (s : State) (die tenant page hpa : Nat) (ro : Bool) : State × Nat × Nat :=
  let ws := pmapMake tenant page hpa ro
  if pmapShut s die tenant page then (pmapRefused s die tenant page, 8, 0)
  else
    let at? := pmapAny s die tenant page
    let again := match at? with
      | some x => pmapBad s die x
      | none => false
    let s := pmapSee s die tenant page
    let done := fun (s : State) (x : Nat) => (((pmapPut s die x ws).1).on fun d => d.pmapCount die true, 0, x)
    match at? with
    | some x => if again then (((pmapPut s die x ws).1).on fun d => d.pmapUncache die tenant page, 0, x) else (s, 6, 0)
    | none =>
      let bk := pmapBuckets tenant page
      match (bucketSlots bk).find? fun x => !pmapValid (pmapWords s die x) with
      | some x => done s x
      | none =>
        match pmapPath s die 8 ((bucketSlots bk).map fun x => [x]) with
        | none => (s, 5, 0)
        | some p => done (pmapMoves s die p) (p.getLastD 0)

/-- A DELETE in one die's copy: error 0, 7 NOT_FOUND or 8 PARITY, and the slot. The cached copy goes with it (R291). -/
def pmapDelete (s : State) (die tenant page : Nat) : State × Nat × Nat :=
  if pmapShut s die tenant page then (pmapRefused s die tenant page, 8, 0)
  else
    let at? := pmapAny s die tenant page
    let s := pmapSee s die tenant page
    match at? with
    | some x => (((pmapPut s die x [0, 0]).1).on fun d => (d.pmapCount die false).pmapUncache die tenant page, 0, x)
    | none => (s, 7, 0)

end Sys2Proof.Machine
end

