-- ==== Sys2Proof/Machine/Buckets.lean ====
section
/-! DEFINITION. Token buckets of shapers and meters (07 R194, R198) and which logical ports exist (00 R9). -/

namespace Sys2Proof.Machine

/-- One byte in the units of a bucket: a rate of R Mb/s adds R units in each unit of fabric time. -/
def byteUnit : Nat := 8000 * 2 ^ 40

/-- A bucket of `burst` bytes, full at time t. -/
def Bucket.full (burst t : Nat) : Bucket := ⟨burst * byteUnit, t⟩

/-- A bucket refilled at `rate` Mb/s up to `burst` bytes until time t (R194). -/
def Bucket.refill (b : Bucket) (rate burst t : Nat) : Bucket :=
  ⟨min (burst * byteUnit : Nat) (b.tok + (rate * (t - b.last) : Nat)), t⟩

/-- Tokens in whole bytes, rounded down. -/
def Bucket.bytes (b : Bucket) : Int := b.tok.fdiv byteUnit

/-- A bucket after `n` bytes are taken. -/
def Bucket.take (b : Bucket) (n : Nat) : Bucket := { b with tok := b.tok - (n * byteUnit : Nat) }

/-- The bucket of a map, refilled until now. -/
def Dev.bucket (d : Dev) (m : SMap Bucket) (k rate burst : Nat) : Bucket :=
  (SMap.getD m k {}).refill rate burst d.time.now

/-- The lanes each logical port of a fibre takes: 8, 4, 2 or 1 by its breakout (00 Table 0-5). -/
def Dev.fibLanes (d : Dev) (fp : Nat) : Nat := 8 / 2 ^ d.rdF .plnFibCfg fp 1 0

/-- The fibre's breakout creates the logical port (00 R9). -/
def Dev.created (d : Dev) (lp : Nat) : Bool := lp % 8 % d.fibLanes (lpFp lp) == 0

/-- The fibre runs Ethernet framing; the fibre's personality is Rack (Table of PLN_FIB_CFG). -/
def Dev.isEth (d : Dev) (lp : Nat) : Bool := d.rdB .plnFibCfg (lpFp lp) 2
def Dev.isRack (d : Dev) (lp : Nat) : Bool := d.rdB .plnFibCfg (lpFp lp) 3

end Sys2Proof.Machine
end

