-- ==== Sys2Proof/Machine/Spaces.lean ====
section
/-! DEFINITION. The address spaces of rings (13 R341, Table 13-2): usable memory, translation through the tenant page map
(11 R291, R292), reads and writes with the errors they meet. -/

namespace Sys2Proof.Machine

/-! Pool addresses (11 R291, R292). -/

/-- Completion codes of a failed access (Table 13-8). -/
def cPage : Nat := 1
def cAccess : Nat := 2
def cStack : Nat := 3
def cHost : Nat := 4
def cRemote : Nat := 5
def cRingMem : Nat := 6
def cMemory : Nat := 48
/-- No code: the access waits, since its class is paused in its stack (12 R329, R330). -/
def cWait : Nat := 255

/-- A pool address translated on a die: a code, or the HPA. -/
def poolAt (s : State) (die tenant a : Nat) (write : Bool) : State × (Nat ⊕ Nat) :=
  if a ≥ 2 ^ 41 then (s, .inl cPage)
  else match pmapLookup s die tenant (a / 2 ^ 21) with
    | (d, none) => ({ s with dev := d }, .inl cPage)
    | (d, some ws) =>
      let h := pmapHpa ws * 2 ^ 21 + a % 2 ^ 21
      ({ s with dev := d },
        if write && pmapRo ws then .inl cAccess else if d.usable h 1 then .inr h else .inl cStack)

/-- A range cut at 2 MiB pages: ranges of at most one page length have two parts at most. -/
def pageParts (a n : Nat) : List (Nat × Nat) :=
  let k := 2 ^ 21 - a % 2 ^ 21
  if n ≤ k then [(a, n)] else [(a, k), (a + k, n - k)]

/-- The HPA parts of a pool range, or the first failure. -/
def poolParts (s : State) (die tenant : Nat) (write : Bool) : List (Nat × Nat) → State × (Nat ⊕ List (Nat × Nat))
  | [] => (s, .inr [])
  | (a, n) :: t =>
    match poolAt s die tenant a write with
    | (s, .inl c) => (s, .inl c)
    | (s, .inr h) =>
      match poolParts s die tenant write t with
      | (s, .inl c) => (s, .inl c)
      | (s, .inr hs) => (s, .inr ((h, n) :: hs))

/-- Parts read in order. -/
def readParts (cls : Nat) (s : State) : List (Nat × Nat) → State × (Nat ⊕ List Byte)
  | [] => (s, .inr [])
  | (a, n) :: t =>
    match hbmRead s a n cls with
    | (s, none) => (s, .inl cMemory)
    | (s, some bs) =>
      match readParts cls s t with
      | (s, .inl c) => (s, .inl c)
      | (s, .inr cs) => (s, .inr (bs ++ cs))

/-- Parts written in order; 0, or the code of the first failure. -/
def writeParts (cls : Nat) (s : State) (bs : List Byte) : List (Nat × Nat) → State × Nat
  | [] => (s, 0)
  | (a, n) :: t =>
    match hbmWrite s a (bs.take n) cls with
    | (s, false) => (s, cMemory)
    | (s, true) => writeParts cls s (bs.drop n) t

/-- A part lies in a stack where the class is paused (12 Table 12-4), or behind a paused write (12 R325). -/
def Dev.partsPaused (d : Dev) (cls : Nat) (ps : List (Nat × Nat)) : Bool := ps.any fun x => d.hbmWaits x.1 x.2 cls

/-- A read of pool bytes; it waits while its class is paused. -/
def poolRead (s : State) (die tenant a n cls : Nat) : State × (Nat ⊕ List Byte) :=
  match poolParts s die tenant false (pageParts a n) with
  | (s, .inl c) => (s, .inl c)
  | (s', .inr ps) => if s'.dev.partsPaused cls ps then (s, .inl cWait) else readParts cls s' ps

/-- A write of pool bytes: nothing is written where a page fails; it waits while its class is paused. -/
def poolWrite (s : State) (die tenant a : Nat) (bs : List Byte) (cls : Nat) : State × Nat :=
  match poolParts s die tenant true (pageParts a bs.length) with
  | (s, .inl c) => (s, c)
  | (s', .inr ps) => if s'.dev.partsPaused cls ps then (s, cWait) else writeParts cls s' bs ps

/-! The spaces of Table 13-2. -/

/-- A range of HPAs lies in usable memory. -/
def hpaOk (d : Dev) (a n : Nat) : Bool := (pageParts a n).all fun x => d.usable x.1 x.2

/-- A read of a host's memory ends in an error of PCIe; whether it is a completion timeout, which HUB_HP_CTO_CNT counts, is a
free value, since the command does not tell (assumption 164). -/
def Dev.hostError (d : Dev) (h : Nat) : Dev :=
  let (x, d) := d.free
  if x % 2 = 1 then d.bump .hubHpCtoCnt h else d

/-- A read in a space; `host`: what the host answers, none where it answers with an error. -/
def spaceRead (s : State) (die sp tenant a n cls : Nat) (host : Option (List Byte)) : State × (Nat ⊕ List Byte) :=
  match sp with
  | 0 =>
    if !hpaOk s.dev a n then (s, .inl cStack)
    else if s.dev.partsPaused cls (pageParts a n) then (s, .inl cWait)
    else readParts cls s (pageParts a n)
  | 1 => poolRead s die tenant a n cls
  | _ =>
    if !(s.dev.host (sp - 2)).up then (s, .inl cHost)
    else match host with
      | some bs => (s, .inr (slice bs 0 n))
      | none => (s.on fun d => d.hostError (sp - 2), .inl cHost)

/-- A write in a space; 0, or the code of its failure. -/
def spaceWrite (s : State) (die sp tenant a : Nat) (bs : List Byte) (cls : Nat) : State × Nat :=
  match sp with
  | 0 =>
    if !hpaOk s.dev a bs.length then (s, cStack)
    else if s.dev.partsPaused cls (pageParts a bs.length) then (s, cWait)
    else writeParts cls s bs (pageParts a bs.length)
  | 1 => poolWrite s die tenant a bs cls
  | _ => if (s.dev.host (sp - 2)).up then (s.on fun d => d.emit (.hostWrite (sp - 2) a bs), 0) else (s, cHost)

end Sys2Proof.Machine
end

