-- ==== Sys2Proof/Machine/EmbStage.lean ====
section
/-! DEFINITION. Embedding table descriptors and their staging regions (10_embedding_service.md R259, R262, R273). -/

namespace Sys2Proof.Machine

/-! Descriptors (Table 10-1). -/

/-- The descriptor of a table. -/
def Dev.embDesc (d : Dev) (t : Nat) : List Word := d.ent 10 0 0 t

def tdValid (ws : List Word) : Bool := bit (wat ws 0) 31
def tdFmt (ws : List Word) : Nat := bits (wat ws 0) 30 28
def tdHome (ws : List Word) : Nat := bits (wat ws 0) 27 25
def tdTenant (ws : List Word) : Nat := bits (wat ws 0) 15 0
def tdRowBytes (ws : List Word) : Nat := 32 * (bits (wat ws 1) 23 17 + 1)
def tdDim (ws : List Word) : Nat := bits (wat ws 1) 11 0
def tdRows (ws : List Word) : Nat := wat ws 2 + 1
def tdLsb (ws : List Word) : Int := toSigned 8 (bits (wat ws 3) 31 24)
def tdMirrorClass (ws : List Word) : Nat := bits (wat ws 3) 23 21
def tdBase (ws : List Word) : Nat := bits (wat ws 4) 19 0 * 2 ^ 32 + wat ws 5
def tdStageLog (ws : List Word) : Nat := bits (wat ws 6) 31 27
def tdStage (ws : List Word) : Nat := bits (wat ws 6) 19 0 * 2 ^ 32 + wat ws 7
def tdSnapEn (ws : List Word) : Bool := bit (wat ws 8) 31
def tdSnap (ws : List Word) : Nat := bits (wat ws 8) 19 0 * 2 ^ 32 + wat ws 9
def tdSeed (ws : List Word) : Nat := wat ws 10 * 2 ^ 32 + wat ws 11
def tdMirrorEn (ws : List Word) : Bool := bit (wat ws 12) 31
def tdMirrorDid (ws : List Word) : Nat := bits (wat ws 12) 19 0
def tdMirrorAddr (ws : List Word) : Nat := wat ws 13 * 2 ^ 32 + wat ws 14

/-- Bytes of a table, and of its 64 KiB granules how many. -/
def tdBytes (ws : List Word) : Nat := tdRows ws * tdRowBytes ws
def tdGranules (ws : List Word) : Nat := (tdBytes ws + 65535) / 65536

/-- Device state of a table: batch_state, snap_state and the batch. -/
def Dev.batchState (d : Dev) (t : Nat) : Nat := bits (d.entW 10 0 0 t 15) 31 29
def Dev.snapState (d : Dev) (t : Nat) : Nat := bits (d.entW 10 0 0 t 15) 28 26
def Dev.openBatch (d : Dev) (t : Nat) : Nat := bits (d.entW 10 0 0 t 15) 23 8
def Dev.setEmbState (d : Dev) (t hi lo v : Nat) : Dev := d.putEntW 10 0 0 t 15 (putBits (d.entW 10 0 0 t 15) hi lo v)
def Dev.setBatch (d : Dev) (t v : Nat) : Dev := d.setEmbState t 31 29 v
def Dev.setSnap (d : Dev) (t v : Nat) : Dev := d.setEmbState t 28 26 v

/-- Batch states and snapshot states. -/
def bIdle : Nat := 0
def bOpen : Nat := 1
def bCommitting : Nat := 2
def bRestoring : Nat := 3
def snNone : Nat := 0
def snCopying : Nat := 1
def snValid : Nat := 2
def snMirroring : Nat := 3
def snMirrored : Nat := 4

/-! The staging region (R273). -/

/-- Bytes of a staging entry. -/
def stageSize (ws : List Word) : Nat := 32 * ((32 + 8 * tdDim ws + 31) / 32)

/-- The pool address of a staging entry. -/
def stageAt (ws : List Word) (e : Nat) : Nat := tdStage ws + e * stageSize ws

/-- The pool pages of the region. -/
def stagePages (ws : List Word) : List Nat :=
  let lo := tdStage ws / 2 ^ 21
  let hi := (tdStage ws + stageSize ws * 2 ^ tdStageLog ws - 1) / 2 ^ 21
  (upto (hi + 1 - lo)).map (lo + ·)

/-- The HPA of a pool page on the table's home die, if its page-map entry is valid. -/
def stagePage (s : State) (ws : List Word) (pg : Nat) : Option Nat :=
  if s.dev.pmapOn (tdHome ws) then
    (pmapSlot s (tdHome ws) (tdTenant ws) pg).map fun x => pmapHpa (pmapWords s (tdHome ws) x) * 2 ^ 21
  else none

/-- A page of the region has no valid page-map entry. -/
def stageMissing (s : State) (ws : List Word) : Bool := (stagePages ws).any fun pg => (stagePage s ws pg).isNone

/-- The used entries, ascending: those with bit 31 of their first word. -/
def usedEntries (s : State) (ws : List Word) : List Nat :=
  (stagePages ws).flatMap fun pg =>
    match stagePage s ws pg with
    | none => []
    | some h => (s.hbm.filter fun c => decide (h ≤ c.1) && decide (c.1 < h + 2 ^ 21)).filterMap fun c =>
        let a := pg * 2 ^ 21 + (c.1 - h)
        let o := a - tdStage ws
        if tdStage ws ≤ a ∧ o % stageSize ws = 3 ∧ 128 ≤ c.2.toNat ∧ o / stageSize ws < 2 ^ tdStageLog ws then
          some (o / stageSize ws)
        else none

/-- P1 is paused in a stack of the region. -/
def stagePaused (s : State) (ws : List Word) : Bool :=
  (stagePages ws).any fun pg => (stagePage s ws pg).any fun h => s.dev.classPaused (h / 2 ^ 36) 1

/-- An entry cleared, at P1. -/
def clearEntry (s : State) (ws : List Word) (e : Nat) : State :=
  match poolParts s (tdHome ws) (tdTenant ws) true (pageParts (stageAt ws e) (stageSize ws)) with
  | (s, .inl _) => s
  | (s, .inr ps) => (writeParts 1 s (List.replicate (stageSize ws) 0) ps).1

/-- Every used entry cleared. -/
def clearStage (s : State) (ws : List Word) : State := (usedEntries s ws).foldl (fun s e => clearEntry s ws e) s

/-- A table's device state resets to IDLE and NONE (R262, R282): an open batch is lost and counted on its home die and its
staging discarded; a snapshot or mirror in progress is abandoned. -/
def embDrop (s : State) (t : Nat) : State :=
  let ws := s.dev.embDesc t
  let b := s.dev.batchState t
  let s := if b = bOpen ∨ b = bCommitting then clearStage (s.on fun d => d.bump .embBatchLost (tdHome ws)) ws else s
  s.on fun d => { d with emb := { d.emb with snaps := SMap.erase d.emb.snaps t } }

/-- A landing on a table's descriptor abandons the SNAPSHOT or RESTORE that a ring runs or holds (R262): it ends INVALID, code
STATE, at its next unit (DEDUCED, assumption 163). -/
def Dev.dropRuns (d : Dev) (t : Nat) : Dev :=
  let mine := fun (x : Run) => (leAt x.desc 3 1 == 0x10 || leAt x.desc 3 1 == 0x11) && leAt x.desc 4 2 % 4096 == t
  d.rng.rings.foldl (fun d e => match e.2.run with
    | some x => if mine x then { d with rng := { d.rng with rings := SMap.insert e.1 { e.2 with run := some { x with dropped := true } } d.rng.rings } } else d
    | none => d) d

end Sys2Proof.Machine
end

