-- ==== Sys2Proof/Machine/Tap.lean ====
section
/-! DEFINITION. The table access ports (05_tables.md R128 to R139): what each operation does on a die, what the broadcast
TAP accepts, and the landing of broadcast commands. -/

namespace Sys2Proof.Machine

/-- One operation of a TAP with its registers. -/
structure TapCmd where
  op : Nat
  table : Nat
  gen : Nat
  pipe : Nat
  key : List Word
  data : List Word

/-- What an operation answers: its error, TAP_RESULT, and key and data registers where it loads them. -/
structure TapRes where
  err : Nat
  result : Option Nat := none
  key : List Word := []
  data : List Word := []

/-! Error codes (Table 5-7). -/
def tapBadOp : Nat := 1
def tapBadTable : Nat := 2
def tapBadIndex : Nat := 3
def tapBadEntry : Nat := 4
def tapFull : Nat := 5
def tapDuplicate : Nat := 6
def tapNotFound : Nat := 7
def tapParity : Nat := 8
def tapReplicated : Nat := 9

/-- A key or data register of the command. -/
def TapCmd.k (c : TapCmd) (i : Nat) : Nat := (c.key.getD i 0).toNat
def TapCmd.w (c : TapCmd) (i : Nat) : Nat := (c.data.getD i 0).toNat

/-- Operations that Table 5-1 lists for a table. -/
def tapListed (t op : Nat) : Bool :=
  match t with
  | 0 | 11 => [0, 2, 3, 4, 6].contains op
  | 3 => [0, 2, 3, 4, 5, 6].contains op
  | _ => [0, 1, 6].contains op

/-- Operations the broadcast TAP accepts (R134). -/
def bcListed (t op : Nat) : Bool :=
  match t with
  | 1 | 2 | 4 | 10 => op == 1 || op == 6
  | 0 | 11 | 3 => op == 2 || op == 3 || op == 6
  | _ => false

/-! What a layout refuses. -/

/-- A next-hop group entry is refused (04 R99). -/
def badGroup (ws : List Word) : Bool :=
  decide (bits (wat ws 0) 31 30 ≥ 2) || decide (bits (wat ws 0) 8 0 > 256) ||
    decide (bits (wat ws 1) 17 0 + bits (wat ws 0) 8 0 > 262144)

/-- An address window is refused (11 R287). -/
def Dev.badWindow (d : Dev) (ws : List Word) : Bool :=
  let w0 := wat ws 0
  let sz := bits w0 21 16
  let base := bits (wat ws 1) 19 0 * 2 ^ 32 + wat ws 2
  let pool := bits (wat ws 4) 19 0 * 2 ^ 32 + wat ws 5
  let off := bits (wat ws 4) 3 0 * 2 ^ 32 + wat ws 5
  let lp := bits (wat ws 3) 10 0
  let n := popcount 32 (wat ws 3)
  let region := 2 ^ sz / n
  bit w0 31 && (bits w0 30 29 == 3 || bits w0 15 0 == 0xFFFF || decide (sz < 21) || decide (sz > 52) ||
    base % 2 ^ sz != 0 ||
    (match bits w0 30 29 with
     | 0 => pool % 2 ^ 21 != 0
     | 1 => !d.created lp || !d.isRack lp || pool % 4096 != 0 || decide (pool + 2 ^ sz > 2 ^ 52)
     | _ => !([1, 2, 4, 8, 16, 32].contains n) || decide (region < 2 ^ 21) || decide (region > 2 ^ 36) ||
         off % region != 0 || decide (off + region > 2 ^ 36)))

/-- A policer entry is refused (07 R199). -/
def badPolicer (ws : List Word) : Bool :=
  let cir := bits (wat ws 1) 21 0
  let pir := bits (wat ws 2) 21 0
  bit (wat ws 0) 31 && (bits (wat ws 3) 23 0 == 0 || bits (wat ws 4) 23 0 == 0 || decide (cir > 1600000) ||
    decide (pir > 1600000) || (!bit (wat ws 0) 30 && decide (pir < cir)))

/-- A leaf queue entry is refused (07 R188). -/
def badLeaf (ws : List Word) : Bool :=
  bit (wat ws 0) 31 && (bits (wat ws 1) 9 0 == 0 || bits (wat ws 3) 23 0 == 0 ||
    decide (bits (wat ws 2) 21 0 > 1600000) || bits (wat ws 0) 15 0 == 0xFFFF)

/-- A service node entry is refused (07 R188). -/
def Dev.badNode (d : Dev) (die idx : Nat) (ws : List Word) : Bool :=
  let w0 := wat ws 0
  let n := bits w0 19 13
  let b := bits w0 12 0
  let lvl := bits w0 29 28
  bit w0 31 && (bits (wat ws 1) 9 0 == 0 || bits (wat ws 1) 25 16 == 0 || bits (wat ws 3) 23 0 == 0 ||
    decide (bits (wat ws 2) 21 0 > 1600000) || decide (n > 64) || decide (b + n > 8192) || (bit w0 30 && lvl != 0) ||
    (d.entries 7 0 die).any fun e =>
      let o := wat e.2 0
      e.1 != idx && bit o 31 &&
        ((n != 0 && bits o 19 13 != 0 && decide (b < bits o 12 0 + bits o 19 13) && decide (bits o 12 0 < b + n)) ||
          (lvl != 0 && bits o 29 28 == lvl && e.1 / 8 == idx / 8)))

/-- A group context is refused (09 R235): its state is RESIDENT or BROKEN, or a field is out of range. -/
def Dev.badGroupCtx (d : Dev) (die idx : Nat) (ws : List Word) : Bool :=
  let st := bits (d.entW 8 0 die idx 8) 31 28
  let n := bits (wat ws 0) 28 17
  let sl := bits (wat ws 4) 21 16
  decide (st ≥ 2) || (bit (wat ws 0) 31 && (bits (wat ws 0) 30 29 == 3 || n == 0 || decide (n > 2047) ||
    bits (wat ws 0) 15 0 == 0xFFFF || (wat ws 2 == 0 && wat ws 3 == 0) || decide (sl < 2) || decide (sl > 32) ||
    bits (wat ws 4) 15 0 == 0))

/-- A ring holds descriptors or runs them: ACTIVE, SUSPENDING, SUSPENDED, FAULTED or CANCELLING (13 R340). -/
def ringHeld (st : Nat) : Bool := decide (1 ≤ st) && decide (st ≤ 5)

/-- A space code and its address are refused for a ring context (13 R340). -/
def badSpace (w0 sp base : Nat) : Bool :=
  decide (sp > 3) || (sp == 0 && bits w0 15 0 != 0) || (sp == 2 && !bit w0 20) || (sp == 3 && !bit w0 21) ||
    base % 4096 != 0

/-- A ring context is refused (13 R340). -/
def Dev.badRingCtx (d : Dev) (die idx : Nat) (ws : List Word) : Bool :=
  let w0 := wat ws 0
  let w1 := wat ws 1
  let sq := bits w1 31 27
  let cq := bits w1 26 22
  ringHeld (bits (d.entW 9 0 die idx 9) 31 28) || (bit w0 31 && (bits w0 15 0 == 0xFFFF || sq == 0 ||
    decide (sq > 15) || cq == 0 || decide (cq > 15) || badSpace w0 (bits w0 30 28) (wat ws 3) ||
    badSpace w0 (bits w0 27 25) (wat ws 5) || decide (bits w1 21 11 > 2047) || decide (bits (wat ws 7) 15 0 > 2 ^ sq)))

/-- Bytes a row of an embedding table needs (10 Table 10-2). -/
def rowNeed (fmt dim : Nat) : Nat :=
  match fmt with
  | 0 => 4 * dim
  | 1 | 2 => 2 * dim
  | 5 | 6 => 33 * (dim / 32)
  | _ => 32 + dim

/-- An embedding table descriptor is refused (10 R261). -/
def badTableDesc (ws : List Word) : Bool :=
  let fmt := bits (wat ws 0) 30 28
  let dim := bits (wat ws 1) 11 0
  let lg := bits (wat ws 6) 31 27
  bit (wat ws 0) 31 && (dim == 0 || decide (dim > 2048) || ((fmt == 5 || fmt == 6) && dim % 32 != 0) ||
    decide (rowNeed fmt dim > 32 * (bits (wat ws 1) 23 17 + 1)) || bits (wat ws 0) 15 0 == 0xFFFF ||
    wat ws 5 % 4096 != 0 || wat ws 7 % 4096 != 0 || wat ws 9 % 65536 != 0 || decide (lg < 4) || decide (lg > 24))

/-- A tenant limit slot is refused: BAD_ENTRY for a limit out of range, DUPLICATE for a second enabled slot of the tenant
(R146). -/
def Dev.badTenantSlot (d : Dev) (pl idx : Nat) (ws : List Word) : Nat :=
  if bits (wat ws 1) 25 0 > 33554432 then tapBadEntry
  else if bit (wat ws 0) 31 && (d.entries 12 0 pl).any (fun e => e.1 != idx && bit (wat e.2 0) 31 &&
      bits (wat e.2 0) 15 0 == bits (wat ws 0) 15 0) then tapDuplicate
  else 0

/-- The error with which a WRITE of an indexed entry is refused, 0 for none. -/
def Dev.formErr (d : Dev) (die pipe t idx : Nat) (ws : List Word) : Nat :=
  let bad : Bool := match t with
    | 1 => badGroup ws
    | 4 => d.badWindow ws
    | 5 => badPolicer ws
    | 6 => badLeaf ws
    | 7 => d.badNode die idx ws
    | 8 => d.badGroupCtx die idx ws
    | 9 => d.badRingCtx die idx ws
    | 10 => badTableDesc ws
    | _ => false
  if bad then tapBadEntry else if t = 12 then d.badTenantSlot (die * 8 + pipe) idx ws else 0

/-- A route key is refused (R138). -/
def badRouteKey (c : TapCmd) : Bool :=
  let kind := bits (c.k 0) 31 30
  kind == 3 || decide (bits (c.k 0) 7 0 > kindBits kind)

/-- The route key of a command, address bits beyond the prefix 0. -/
def TapCmd.routeKey (c : TapCmd) : List Word :=
  let kind := bits (c.k 0) 31 30
  Machine.routeKey kind (bits (c.k 0) 7 0) (keyAddr kind c.key)

/-- A LET key is refused (R139). -/
def badLetKey (c : TapCmd) : Bool :=
  decide (bits (c.k 0) 31 30 ≥ 2) || (bits (c.k 0) 31 30 == 0 && bit (c.k 1) 24)

/-- The key words of a LET command, reserved bits 0. -/
def TapCmd.letKey (c : TapCmd) : List Nat :=
  let w0 := putBits (c.k 0) 29 28 0
  if bits (c.k 0) 31 30 = 0 then [w0, c.k 1, bits (c.k 2) 31 16 * 2 ^ 16] else [w0, bits (c.k 1) 19 0, 0]

/-- The error with which the form of a keyed command is refused, 0 for none. -/
def keyForm (c : TapCmd) : Nat :=
  match c.table with
  | 0 => if badRouteKey c || (c.op == 2 && decide (bits (c.w 0) 31 30 ≥ 2)) then tapBadEntry else 0
  | 3 => if badLetKey c then tapBadEntry else 0
  | _ => 0

/-! Reading entries. -/

/-- A leaf or node shaper's bucket, refilled. -/
def Dev.leafBucket (d : Dev) (die leaf : Nat) : Bucket :=
  d.bucket d.sch.leafTok (die * 8192 + leaf) (bits (d.entW 6 0 die leaf 2) 21 0) (bits (d.entW 6 0 die leaf 3) 23 0)
def Dev.nodeBucket (d : Dev) (die node : Nat) : Bucket :=
  d.bucket d.sch.nodeTok (die * 2048 + node) (bits (d.entW 7 0 die node 2) 21 0) (bits (d.entW 7 0 die node 3) 23 0)

/-- The two buckets of a policer, refilled. -/
def Dev.polBuckets (d : Dev) (pl idx : Nat) : Bucket × Bucket :=
  (d.bucket d.sch.metC (pl * 4096 + idx) (bits (d.entW 5 0 pl idx 1) 21 0) (bits (d.entW 5 0 pl idx 3) 23 0),
   d.bucket d.sch.metP (pl * 4096 + idx) (bits (d.entW 5 0 pl idx 2) 21 0) (bits (d.entW 5 0 pl idx 4) 23 0))

/-- A signed number as a word. -/
def wordI (i : Int) : Word := word (ofSigned 32 i)

/-- The words of an indexed entry as a READ gives them: the stored words with the device state of the scheduler in its
places (Tables 7-2, 7-3, 7-6) and an embedding table's state on its home die only (10 R259). -/
def Dev.readEnt (d : Dev) (die t gen unit idx : Nat) : List Word :=
  let ws := d.ent t gen unit idx
  let ws := ws ++ List.replicate (tableWords t - ws.length) 0
  match t with
  | 5 =>
    let (c, p) := d.polBuckets unit idx
    setAt (setAt ws 5 (wordI c.bytes)) 6 (wordI p.bytes)
  | 6 =>
    let tag := SMap.getD d.sch.leafS (die * 8192 + idx) 0
    ws.take 4 ++ [wordI (d.leafBucket die idx).bytes, word tag, word (bits tag 47 32 * 2 ^ 16),
      word (SMap.getD d.keep.depth (die * 10240 + idx) 0)]
  | 7 =>
    let tag := SMap.getD d.sch.nodeS (die * 2048 + idx) 0
    let v := SMap.getD d.sch.nodeV (die * 2048 + idx) 0
    ws.take 4 ++ [wordI (d.nodeBucket die idx).bytes, word tag, word (bits v 47 32 * 2 ^ 16 + bits tag 47 32), word v]
  | 10 => if bits (wat ws 0) 27 25 = die then ws else setAt ws 15 0
  | _ => ws

/-- The slot-valid bit that READ answers (Table 5-2). -/
def entValid (t : Nat) (ws : List Word) : Bool := if t = 1 ∨ t = 2 then !zeroWords ws else bit (wat ws 0) 31

/-! Writing entries. -/

/-- A reclaim of this tenant is under way (13 R361). -/
def Dev.reclaiming (d : Dev) (tenant : Nat) : Bool :=
  d.rdB .hubReclaimStatus 0 31 && d.rdF .hubReclaimStatus 0 15 0 == tenant

/-- A policer entry written: both buckets full, the red count 0 (07 R199). -/
def Dev.putPolicer (d : Dev) (pl idx : Nat) (ws : List Word) : Dev :=
  let d := d.putEnt 5 0 pl idx (ws.take 5)
  let k := pl * 4096 + idx
  { d with sch := { d.sch with
      metC := SMap.insert k (Bucket.full (bits (wat ws 3) 23 0) d.time.now) d.sch.metC
      metP := SMap.insert k (Bucket.full (bits (wat ws 4) 23 0) d.time.now) d.sch.metP } }

/-- A leaf takes an entry: tokens full, tags unchanged (07 R188). -/
def Dev.takeLeaf (d : Dev) (die leaf : Nat) (ws : List Word) : Dev :=
  let d := d.putEnt 6 0 die leaf (ws.take 4)
  let k := die * 8192 + leaf
  { d with sch := { d.sch with
      leafTok := SMap.insert k (Bucket.full (bits (wat ws 3) 23 0) d.time.now) d.sch.leafTok
      after := SMap.erase d.sch.after k } }

/-- A leaf entry written: one that holds packets and is made invalid keeps what it is served by until it is empty
(07 R189). -/
def Dev.putLeaf (d : Dev) (die leaf : Nat) (ws : List Word) : Dev :=
  if bit (wat ws 0) 31 || SMap.getD d.keep.depth (die * 10240 + leaf) 0 == 0 then d.takeLeaf die leaf ws
  else
    let old := d.ent 6 0 die leaf
    let w0 := word (putBits (wat ws 0) 30 29 (bits (wat old 0) 30 29))
    let d := d.putEnt 6 0 die leaf (setAt old 0 w0)
    { d with sch := { d.sch with after := SMap.insert (die * 8192 + leaf) (ws.take 4) d.sch.after } }

/-- A service node entry written: tokens full, tags unchanged (07 R188). -/
def Dev.putNode (d : Dev) (die node : Nat) (ws : List Word) : Dev :=
  let d := d.putEnt 7 0 die node (ws.take 4)
  { d with sch := { d.sch with
      nodeTok := SMap.insert (die * 2048 + node) (Bucket.full (bits (wat ws 3) 23 0) d.time.now) d.sch.nodeTok } }

/-- A group context written (09 R235): DORMANT or INVALID, device state cleared. -/
def Dev.putGroupCtx (d : Dev) (die idx : Nat) (ws : List Word) : Dev :=
  let d := { d with col := { d.col with groups := SMap.erase d.col.groups (die * 1024 + idx) } }
  d.putEnt 8 0 die idx (ws.take 8 ++ [word (b2n (bit (wat ws 0) 31) * 2 ^ 28)])

/-- A ring context written (13 R340): IDLE, indices 0, cq_phase 1, reclaimed 0, passes 0. -/
def Dev.putRingCtx (d : Dev) (die idx : Nat) (ws : List Word) : Dev :=
  let old := fun w => d.entW 9 0 die idx w
  let d := { d with rng := { d.rng with rings := SMap.erase d.rng.rings (die * 2048 + idx) } }
  d.putEnt 9 0 die idx (ws.take 9 ++ [word (2 ^ 26), 0, 0, word (old 12), word (old 13), word (old 14),
    word (bits (old 15) 31 24 * 2 ^ 24)])

/-- An indexed entry written by a WRITE that its layout accepts. -/
def Dev.putIndexed (d : Dev) (die pipe t gen idx : Nat) (ws : List Word) : Dev :=
  match t with
  | 4 =>
    let d := d.putEnt 4 0 0 idx ws
    let keep := d.tab.closed.filter (· != idx)
    { d with tab := { d.tab with closed := if d.reclaiming (bits (wat ws 0) 15 0) then idx :: keep else keep } }
  | 5 => d.putPolicer (die * 8 + pipe) idx ws
  | 6 => d.putLeaf die idx ws
  | 7 => d.putNode die idx ws
  | 8 => d.putGroupCtx die idx ws
  | 9 => d.putRingCtx die idx ws
  | 10 =>
    let d := d.putEnt 10 0 0 idx (ws.take 15)
    { d with rng := { d.rng with embClosed := d.rng.embClosed.filter (· != idx) } }
  | _ => d.putEnt t gen (tableUnit t die pipe) idx ws

/-- A FLUSH leaves the entry (09 R235, 13 R340). -/
def flushKeeps (t : Nat) (ws : List Word) : Bool :=
  (t == 8 && decide (bits (wat ws 8) 31 28 ≥ 2)) || (t == 9 && ringHeld (bits (wat ws 9) 31 28))

/-- Indexed and route entries of a range invalidated; the answer counts those that were valid. -/
def Dev.flushRange (d : Dev) (die pipe t gen lo n : Nat) : Dev × Nat :=
  let es := (d.entries t gen (tableUnit t die pipe)).filter fun e =>
    decide (lo ≤ e.1) && decide (e.1 < lo + n) && !flushKeeps t e.2
  (es.foldl (fun d e =>
      match t with
      | 6 => d.putLeaf die e.1 []
      | 8 => ({ d with col := { d.col with groups := SMap.erase d.col.groups (die * 1024 + e.1) } }).putEnt 8 0 die e.1 []
      | 9 => ({ d with rng := { d.rng with rings := SMap.erase d.rng.rings (die * 2048 + e.1) } }).putEnt 9 0 die e.1 []
      | _ => d.putEnt t gen (tableUnit t die pipe) e.1 []) d,
   (es.filter fun e => t == 0 || entValid t e.2).length)

/-! The LET and the page map. -/

/-- Neighbouring repeats dropped. -/
def dedup : List Nat → List Nat
  | a :: b :: t => if a = b then dedup (b :: t) else a :: dedup (b :: t)
  | l => l

/-- Slots of `size` bytes from `base` in a range that hold a byte other than 0: the others are invalid (R123). -/
def listedSlots (m : List Host.Cell) (base size lo n : Nat) : List Nat :=
  dedup ((m.filter fun c => decide (base + lo * size ≤ c.1) && decide (c.1 < base + (lo + n) * size)).map
    fun c => (c.1 - base) / size)

/-- Slots of a range of LET slots that are not zeros or read uncorrectable. -/
def letListed (s : State) (pl lo n : Nat) : List Nat :=
  let base := s.dev.letAddr pl 0
  let bad := (s.dev.badBlocks (base + lo * 32) (n * 32)).map fun b => b - base / 32
  listedSlots s.hbm base 32 lo n ++ bad.filter fun x => (hbmBytes s.hbm (base + x * 32) 32).all (· == 0)

/-- LET slots of a range that hold an entry passing a test are removed; the answer counts them. The range is read (assumption
152), and bad entries in it are handled. -/
def letRemove (s : State) (pl lo n : Nat) (p : List Nat → Bool) : State × Nat :=
  if s.dev.letDead pl then (s, 0)
  else
    let s := letPurge (s.on fun d => d.hbmSeen (d.letAddr pl lo) (n * 32) 0) pl (letListed s pl lo n)
    let xs := (listedSlots s.hbm (s.dev.letAddr pl 0) 32 lo n).filter fun x =>
      letValid (letWords s pl x) && p (letWords s pl x) && !letBad s pl x
    (xs.foldl (fun s x => letClear s pl x) s, xs.length)

/-- The valid bit of every entry of a LET is cleared (R123). -/
def letCleared (s : State) (pl : Nat) : State :=
  let xs := (letListed s pl 0 (tableSlots 3)).filter fun x => letValid (letWords s pl x) || letBad s pl x
  xs.foldl (fun s x =>
    let ws := letWords s pl x
    letPut s pl x (setAt ws 0 (putBits (ws.getD 0 0) 29 29 0))) s

/-- The valid bit of every entry of a die's page map is cleared (R123): the blocks that hold something are written whole. -/
def pmapCleared (s : State) (die : Nat) : State :=
  let base := s.dev.pmapAddr die 0
  let bad := (s.dev.badBlocks base (2 ^ 23)).map fun b => b - base / 32
  let xs := listedSlots s.hbm base 32 0 262144 ++ bad
  let entry := fun (s : State) (x : Nat) =>
    let ws := pmapWords s die x
    let w0 := putBits (ws.getD 0 0) 31 31 0
    let w1 := putBits (ws.getD 1 0) 20 20 0
    [w0, putBits w1 20 20 (b2n (wordsOdd [w0, w1]))]
  xs.foldl (fun s b => (hbmWrite s (base + b * 32) ((bucketSlots [b]).flatMap fun x => (entry s x).flatMap (toLE 4)) 1).1) s

/-- The FLUSH filter of TAP_KEY2 and TAP_KEY3 (R132). -/
def flushFilter (k2 k3 : Nat) (ws : List Nat) : Bool :=
  (!bit k2 31 || letLp ws == bits k2 10 0) && (!bit k2 30 || letTenant ws == bits k3 15 0) &&
    (bit k2 29 || !letStatic ws)

/-- The words of a LET entry that an INSERT places. -/
def TapCmd.letEntry (c : TapCmd) : List Nat :=
  let k := c.letKey
  [putBits (k.getD 0 0) 29 28 (2 + b2n (bit (c.k 0) 28)), k.getD 1 0, k.getD 2 0, c.k 3, c.w 0, c.w 1, c.w 2, c.w 3]

/-- A LET INSERT (R140, R147): error 0, 5 or 6, and the slot. -/
def letInsert (s : State) (pl : Nat) (ws : List Nat) : State × Nat × Nat :=
  let (s, at?) := letFind s pl (letKeyOf ws)
  match at? with
  | some x =>
    let old := letWords s pl x
    if letStatic old then (s, tapDuplicate, 0)
    else
      let s := s.on fun d => d.letCount pl (letLp old) (letTenant old) false
      let s := letPut s pl x ws
      (if letStatic ws then s else s.on fun d => d.letCount pl (letLp ws) (letTenant ws) true, 0, x)
  | none =>
    match letPlace s pl ws with
    | (s, some x) => (s, 0, x)
    | (s, none) => (s, tapFull, 0)

/-- A LET DELETE: error 0 or 7, and the slot. -/
def letDelete (s : State) (pl : Nat) (key : List Nat) : State × Nat × Nat :=
  match letFind s pl key with
  | (s, some x) => (letClear s pl x, 0, x)
  | (s, none) => (s, tapNotFound, 0)

/-- A LET operation of a die TAP. A LET in a stack out of service reads uncorrectable (12 R335; DEDUCED, assumption 153). -/
def letOp (s : State) (die : Nat) (c : TapCmd) : State × TapRes :=
  let pl := die * 8 + c.pipe
  let size := tableSlots 3
  if !s.dev.letOn pl then (s, { err := tapBadIndex })
  else match c.op with
  | 0 =>
    if c.k 0 ≥ size then (s, { err := tapBadIndex })
    else if s.dev.letDead pl then (s, { err := tapParity, result := some (c.k 0), key := List.replicate 4 0, data := List.replicate 4 0 })
    else
      let s := s.on fun d => d.hbmSeen (d.letAddr pl (c.k 0)) 32 0
      let ws := letWords s pl (c.k 0)
      let r := b2n (letValid ws) * 2 ^ 31 + c.k 0
      let ks := (ws.take 4).map word
      let ds := (ws.drop 4).map word
      if letBad s pl (c.k 0) then
        (letHandleBad s pl (c.k 0), { err := tapParity, result := some r, key := ks, data := ds })
      else (s, { err := 0, result := some r, key := ks, data := ds })
  | 2 =>
    let (s, e, x) := letInsert s pl c.letEntry
    (s, { err := e, result := if e = 0 then some x else none })
  | 3 =>
    let (s, e, x) := letDelete s pl c.letKey
    (s, { err := e, result := if e = 0 then some x else none })
  | 4 =>
    match letFind s pl c.letKey with
    | (s, some x) => (s, { err := 0, result := some x, data := ((letWords s pl x).drop 4).map word })
    | (s, none) => (s, { err := tapNotFound })
  | _ =>
    if c.k 1 ≠ 0 ∧ c.k 0 + c.k 1 > size then (s, { err := tapBadIndex })
    else
      let p := if c.op = 5 then fun ws => s.dev.letExpired pl ws else flushFilter (c.k 2) (c.k 3)
      let (s, n) := letRemove s pl (c.k 0) (c.k 1) p
      (s, { err := 0, result := some n })

/-- Page-map words as TAP registers (11 R291). -/
def pmapRes (x : Nat) (ws : List Nat) (err : Nat) : TapRes :=
  { err := err, result := some (b2n (pmapValid ws) * 2 ^ 31 + x), key := [word (pmapTenant ws), word (pmapPage ws)]
    data := [word (b2n (pmapRo ws) * 2 ^ 30 + pmapHpa ws)] }

/-- A page-map operation of a die TAP: READ and SEARCH only (R131). DESIGN CHOICE (assumption 154): on a die without a copy, READ
ends with BAD_INDEX, as 12 R337 says for a LET, and SEARCH finds nothing. A copy in a stack out of service reads
uncorrectable (assumption 153). -/
def pmapOp (s : State) (die : Nat) (c : TapCmd) : State × TapRes :=
  let tn := bits (c.k 0) 15 0
  let pg := bits (c.k 1) 19 0
  let dead := !s.dev.stackUp (s.dev.pmapStack die)
  if c.op = 0 then
    if c.k 0 ≥ tableSlots 11 || !s.dev.pmapOn die then (s, { err := tapBadIndex })
    else if dead then (s, pmapRes (c.k 0) [0, 0] tapParity)
    else
      let ws := pmapWords s die (c.k 0)
      let bad := pmapBad s die (c.k 0)
      let s := s.on fun d => d.hbmSeen (d.pmapAddr die (c.k 0)) 8 0
      if bad then (s.on fun d => d.perr die 11 0 (c.k 0), pmapRes (c.k 0) ws tapParity)
      else (s, pmapRes (c.k 0) ws 0)
  else if !s.dev.pmapOn die || dead then (s, { err := tapNotFound })
  else
    let at? := pmapAny s die tn pg
    let bad := match at? with
      | some x => pmapBad s die x
      | none => false
    let s := pmapSee s die tn pg
    match at? with
    | some x => (s, { pmapRes x (pmapWords s die x) (if bad then tapParity else 0) with key := [], result := some x })
    | none => (s, { err := tapNotFound })

/-! Operations of a die TAP. -/

/-- A Route Table operation of a die TAP: READ and SEARCH only (R131). DESIGN CHOICE (assumption 155): an entry of 2 units stands at
its first one, which names it (R138): a READ of its second unit answers a slot that is not valid with zeros, and a FLUSH of a
range that holds the second unit only leaves the entry. -/
def Dev.routeOp (d : Dev) (die : Nat) (c : TapCmd) : Dev × TapRes :=
  if c.op = 0 then
    if c.k 0 ≥ tableSlots 0 then (d, { err := tapBadIndex })
    else
      let ws := d.ent 0 c.gen 0 (c.k 0)
      let r : TapRes := 
        { err := 0, result := some (b2n (!ws.isEmpty) * 2 ^ 31 + c.k 0)
          key := (upto 5).map fun i => ws.getD i 0, data := [ws.getD 5 0] }
      if d.entBad die 0 c.gen 0 (c.k 0) then (d.perr die 0 0 (c.k 0), { r with err := tapParity }) else (d, r)
  else
    match d.routeSlot c.gen c.routeKey with
    | some x =>
      let r : TapRes := { err := 0, result := some x, data := [(d.ent 0 c.gen 0 x).getD 5 0] }
      if d.entBad die 0 c.gen 0 x then (d.perr die 0 0 x, { r with err := tapParity }) else (d, r)
    | none => (d, { err := tapNotFound })

/-- The count of learned entries that a READ of a tenant limit slot answers (R146). -/
def Dev.readResult (d : Dev) (t unit idx : Nat) (ws : List Word) : Nat :=
  b2n (entValid t ws) * 2 ^ 31 + (if t = 12 then SMap.getD d.tab.letTenant (unit * 256 + idx) 0 else idx)

/-- An operation on an indexed table by a die TAP. -/
def Dev.indexOp (d : Dev) (die : Nat) (c : TapCmd) : Dev × TapRes :=
  let t := c.table
  let unit := tableUnit t die c.pipe
  if c.op = 6 then
    if c.k 1 ≠ 0 ∧ c.k 0 + c.k 1 > tableSlots t then (d, { err := tapBadIndex })
    else
      let (d, n) := d.flushRange die c.pipe t c.gen (c.k 0) (c.k 1)
      (d, { err := 0, result := some n })
  else if c.k 0 ≥ tableSlots t then (d, { err := tapBadIndex })
  else if c.op = 0 then
    let ws := d.readEnt die t c.gen unit (c.k 0)
    let r : TapRes := { err := 0, result := some (d.readResult t unit (c.k 0) ws), data := ws }
    if d.entBad die t c.gen unit (c.k 0) then
      (d.perr die t (if perPipe t then c.pipe else 0) (c.k 0), { r with err := tapParity })
    else (d, r)
  else
    let ws := c.data.take (tableWords t)
    let e := d.formErr die c.pipe t (c.k 0) ws
    if e ≠ 0 then (d, { err := e }) else (d.putIndexed die c.pipe t c.gen (c.k 0) ws, { err := 0, result := some (c.k 0) })

/-- An operation of a die TAP (R128 to R132). -/
def dieTap (s : State) (die : Nat) (c : TapCmd) : State × TapRes :=
  if c.op ≥ 7 then (s, { err := tapBadOp })
  else if c.table ≥ 13 then (s, { err := tapBadTable })
  else if replicated c.table && [1, 2, 3, 6].contains c.op then (s, { err := tapReplicated })
  else if !tapListed c.table c.op then (s, { err := tapBadOp })
  else if [2, 3, 4].contains c.op && keyForm c != 0 then (s, { err := keyForm c })
  else match c.table with
  | 0 => let r := s.dev.routeOp die c; ({ s with dev := r.1 }, r.2)
  | 3 => letOp s die c
  | 11 => pmapOp s die c
  | _ => let r := s.dev.indexOp die c; ({ s with dev := r.1 }, r.2)

/-! The broadcast TAP (R134 to R137). -/

/-- The error with which the broadcast TAP refuses a command at acceptance, 0 for none (R134, 12 R337). -/
def Dev.bcForm (d : Dev) (c : TapCmd) : Nat :=
  if c.op ≥ 7 then tapBadOp
  else if c.table ≥ 13 then tapBadTable
  else if !bcListed c.table c.op then tapBadOp
  else if c.table = 11 ∧ (upto 8).any (fun die => !d.pmapOn die) = true then tapBadOp
  else if c.op = 6 then if c.k 1 ≠ 0 ∧ c.k 0 + c.k 1 > tableSlots c.table then tapBadIndex else 0
  else if c.op = 1 then
    if c.k 0 ≥ tableSlots c.table then tapBadIndex else d.formErr 0 0 c.table (c.k 0) (c.data.take (tableWords c.table))
  else keyForm c

/-- A command put in the landing queue: TAP_BC_SEQ advances. -/
def Dev.bcEnqueue (d : Dev) (b : BcCmd) : Dev :=
  let seq := (d.rdN .tapBcSeq 0 + 1) % 2 ^ 32
  let d := d.wr .tapBcSeq 0 (word seq)
  { d with tab := { d.tab with bcQueue := d.tab.bcQueue ++ [{ b with seq := seq }] } }

/-- A failure of a landing command: die, pipeline within it, code. -/
structure LandFail where
  die : Nat
  pipe : Nat
  err : Nat

/-- A command other than FLUSH lands: where it failed (R137). A die whose page map has been unallocated since the command was
accepted holds no copy, and is passed over (12 R337; DEDUCED, assumption 156). -/
def landCmd (s : State) (b : BcCmd) : State × List LandFail :=
  let c : TapCmd := ⟨b.op, b.table, b.gen, 0, b.key, b.data⟩
  match b.table with
  | 0 =>
    let (d, e, _) := if b.op = 2 then s.dev.routeInsert b.gen c.routeKey (c.data.getD 0 0)
      else s.dev.routeDelete b.gen c.routeKey
    ({ s with dev := d }, if e = 0 then [] else (upto 8).map fun die => ⟨die, 0, e⟩)
  | 3 =>
    (upto 64).foldl (fun (a : State × List LandFail) pl =>
      if a.1.dev.letOn pl then
        let (s, e, _) := if b.op = 2 then letInsert a.1 pl c.letEntry else letDelete a.1 pl c.letKey
        (s, if e = 0 then a.2 else a.2 ++ [⟨pl / 8, pl % 8, e⟩])
      else a) (s, [])
  | 11 =>
    ((upto 8).filter fun die => s.dev.pmapOn die).foldl (fun (a : State × List LandFail) die =>
      let tn := bits (c.k 0) 15 0
      let pg := bits (c.k 1) 19 0
      let (s, e, _) := if b.op = 2 then pmapInsert a.1 die tn pg (bits (c.w 0) 19 0) (bit (c.w 0) 30)
        else pmapDelete a.1 die tn pg
      (s, if e = 0 then a.2 else a.2 ++ [⟨die, 0, e⟩])) (s, [])
  | t =>
    let s := if t = 10 then (embDrop s (c.k 0)).on fun d => d.dropRuns (c.k 0) else s
    (s.on fun d => d.putIndexed 0 0 t b.gen (c.k 0) (c.data.take (tableWords t)), [])

/-- A block of a FLUSH lands (R136). -/
def landBlock (s : State) (b : BcCmd) (lo n : Nat) : State :=
  match b.table with
  | 3 =>
    (upto 64).foldl (fun s pl => if s.dev.letOn pl then
      (letRemove s pl lo n (flushFilter (wat b.key 2) (wat b.key 3))).1 else s) s
  | 11 =>
    ((upto 8).filter fun die => s.dev.pmapOn die && s.dev.stackUp (s.dev.pmapStack die)).foldl (fun s die =>
      let xs := (listedSlots s.hbm (s.dev.pmapAddr die 0) 8 lo n).filter fun x => pmapValid (pmapWords s die x)
      let s := s.on fun d => d.hbmSeen (d.pmapAddr die lo) (n * 8) 0
      xs.foldl (fun s x =>
        let ws := pmapWords s die x
        match pmapPut s die x [0, 0] with
        | (s, true) => s.on fun d => (d.pmapCount die false).pmapUncache die (pmapTenant ws) (pmapPage ws)
        | (s, false) => s.on fun d => d.perr die 11 0 x) s) s
  | t =>
    let s := if t = 10 then
        ((s.dev.entries 10 0 0).filter fun e => decide (lo ≤ e.1) && decide (e.1 < lo + n)).foldl (fun s e => (embDrop s e.1).on fun d => d.dropRuns e.1) s
      else s
    s.on fun d => (d.flushRange 0 0 t b.gen lo n).1

/-- TAP_LAND_ERR (R137): a failed command is counted once, latched if it is the first, and recorded. -/
def Dev.landErr (d : Dev) (b : BcCmd) (fs : List LandFail) : Dev :=
  match fs with
  | [] => d
  | f :: _ =>
    let old := d.rdN .tapBcLandErr 0
    let pipe := if b.table = 3 then f.pipe else 0
    let low := if bits old 31 24 = 0 then f.err * 2 ^ 20 + pipe * 2 ^ 17 + b.seq % 2 ^ 16 else old % 2 ^ 24
    let d := d.wr .tapBcLandErr 0 (word (min 255 (bits old 31 24 + 1) * 2 ^ 24 + low))
    d.raise hubOrigin 0x0311 sevError [f.die * 2 ^ 25 + f.err * 2 ^ 20 + pipe * 2 ^ 17, b.seq, fs.length]

/-- The front of the landing queue is done. -/
def popBc (s : State) : State := s.on fun d => { d with tab := { d.tab with bcQueue := d.tab.bcQueue.drop 1 } }

/-- A command writes a table in HBM of which a stack pauses P1: it waits (12 R329). -/
def Dev.landPaused (d : Dev) (b : BcCmd) : Bool :=
  match b.table with
  | 3 => (upto 64).any fun pl => d.letOn pl && !d.letDead pl && d.classPaused (d.letStack pl) 1
  | 11 => (upto 8).any fun die => d.pmapOn die && d.stackUp (d.pmapStack die) && d.classPaused (d.pmapStack die) 1
  | _ => false

/-- Landing at one bell within a budget of units (R136). -/
def landLoop : Nat → Nat → State → State
  | 0, _, s => s
  | fuel + 1, left, s =>
    match s.dev.tab.bcQueue with
    | [] => s
    | b :: rest =>
      if s.dev.landPaused b then s
      else if b.op = 6 then
        let n := wat b.key 1 - b.done
        if n = 0 then landLoop fuel left (popBc s)
        else if left < 4 then s
        else
          let m := min 1024 n
          let s := landBlock s b (wat b.key 0 + b.done) m
          if n ≤ 1024 then landLoop fuel (left - 4) (popBc s)
          else
            let b := { b with done := b.done + m }
            landLoop fuel (left - 4) (s.on fun d => { d with tab := { d.tab with bcQueue := b :: rest } })
      else
        let cost := if b.table = 3 ∨ b.table = 11 then 4 else 1
        if left < cost then s
        else
          let (s, fs) := landCmd s b
          landLoop fuel (left - cost) (popBc (s.on fun d => d.landErr b fs))

/-- A TAP's status: done and error, or busy (field table of TAP_STATUS). -/
def Dev.tapStatus (d : Dev) (tap : Nat) (busy done : Bool) (err : Nat) : Dev :=
  let v := putFld (putFld (if tap < 8 then d.rd .tapStatus tap else d.rd .bcTapStatus 0) 15 8 err) 1 0 (b2n busy + 2 * b2n done)
  if tap < 8 then d.wr .tapStatus tap v else d.wr .bcTapStatus 0 v

/-- Step 3 of Table 2-2: broadcast writes land; a command held for a full queue is accepted when there is room (R135). -/
def landing (s : State) : State :=
  let s := landLoop 1032 1024 s
  s.on fun d =>
    match d.tab.bcHeld with
    | some b =>
      if d.tab.bcQueue.length < 4096 then
        let d := { d with tab := { d.tab with bcHeld := none, busy := SMap.erase d.tab.busy 8 } }
        (d.bcEnqueue b).tapStatus 8 false true 0
      else d
    | none => d

/-- The broadcast TAP takes a command (R134, R135). -/
def Dev.bcTake (d : Dev) (c : TapCmd) : Dev :=
  let e := d.bcForm c
  if e ≠ 0 then d.tapStatus 8 false true e
  else if c.op = 6 ∧ c.k 1 = 0 then (d.wr .bcTapResult 0 0).tapStatus 8 false true 0
  else
    let gen := if c.table ≤ 2 then c.gen else 0
    let b : BcCmd := ⟨0, c.op, c.table, gen, c.key, c.data, 0⟩
    if d.tab.bcQueue.length < 4096 then (d.bcEnqueue b).tapStatus 8 false true 0
    else
      let d := { d with tab := { d.tab with bcHeld := some b, busy := SMap.insert 8 1 d.tab.busy } }
      d.tapStatus 8 true false 0

/-! The commands. -/

/-- The command of a TAP_CMD word with its op field as given, and the TAP's registers. -/
def Dev.tapCmdOf (d : Dev) (tap op : Nat) (w : Word) : TapCmd :=
  let t := fld w 27 24
  { op := op, table := t, gen := if t ≤ 2 then fld w 23 23 else 0, pipe := fld w 18 16
    key := (upto 8).map fun i => if tap < 8 then d.rd .tapKey (tap * 8 + i) else d.rd .bcTapKey i
    data := (upto 16).map fun i => if tap < 8 then d.rd .tapData (tap * 16 + i) else d.rd .bcTapData i }

/-- Registers of a TAP loaded from a list. -/
def Dev.tapLoad (d : Dev) (r : Reg) (base : Nat) : Nat → List Word → Dev
  | _, [] => d
  | i, w :: ws => (d.wr r (base + i) w).tapLoad r base (i + 1) ws

/-- The BAR0 offset of TAP_CMD. -/
def offTapCmd (tap : Nat) : Nat := if tap < 8 then 0x10A0000 + tap * 0x400000 else 0x80000

/-- The effect of an operation of a die TAP with its result registers, and its error. -/
def dieEffect (s : State) (die : Nat) (c : TapCmd) : State × Nat :=
  let (s, r) := dieTap s die c
  (s.on fun d =>
    let d := match r.result with
      | some v => d.wr .tapResult die (word v)
      | none => d
    (d.tapLoad .tapKey (die * 8) 0 r.key).tapLoad .tapData (die * 16) 0 r.data, r.err)

/-- An operation writes a LET whose stack pauses P1: it waits (12 R329). -/
def Dev.tapPaused (d : Dev) (die : Nat) (c : TapCmd) : Bool :=
  let pl := die * 8 + c.pipe
  c.table == 3 && [2, 3, 5, 6].contains c.op && d.letOn pl && !d.letDead pl && d.classPaused (d.letStack pl) 1

/-- A die TAP runs an operation: its effect at once, its end at TAP_DONE, or at once for an empty range (R129, R131). -/
def dieRun (s : State) (die : Nat) (c : TapCmd) : State :=
  let (s, err) := dieEffect s die c
  s.on fun d =>
    if (c.op = 5 ∨ c.op = 6) ∧ c.k 1 = 0 ∧ err = 0 then d.tapStatus die false true 0
    else
      let d := { d with tab := { d.tab with busy := SMap.insert die (1 + err) d.tab.busy } }
      d.tapStatus die true false 0

/-- A die TAP holds an operation: it is busy until the operation can run. -/
def Dev.tapHold (d : Dev) (die op : Nat) (w : Word) : Dev :=
  let d := { d with tab := { d.tab with busy := SMap.insert die 1 d.tab.busy, tapHeld := SMap.insert die (op, w) d.tab.tapHeld } }
  d.tapStatus die true false 0

/-- A write of TAP_CMD with an op (R128, R129): ignored, with overrun set, while the TAP is busy. -/
def tapCommand (who : Partner) (tap op : Nat) (w : Word) (s : State) : State :=
  if !s.dev.granted who (offTapCmd tap) then s.on fun d => d.ctl who (offTapCmd tap) id
  else if (SMap.find? s.dev.tab.busy tap).isSome then
    s.on fun d => if tap < 8 then d.wrB .tapStatus tap 2 true else d.wrB .bcTapStatus 0 2 true
  else if tap < 8 then
    if s.dev.tapPaused tap (s.dev.tapCmdOf tap op w) then s.on fun d => d.tapHold tap op w
    else dieRun s tap (s.dev.tapCmdOf tap op w)
  else s.on fun d => d.bcTake (d.tapCmdOf tap op w)

/-- TAP_READ. -/
def execTapRead (who : Partner) (tap : Fin 9) (cmd : Word) (s : State) : Host.Outcome State Fault Refusal :=
  .next (tapCommand who tap 0 cmd s)

/-- TAP_WRITE. -/
def execTapWrite (who : Partner) (tap : Fin 9) (cmd : Word) (s : State) : Host.Outcome State Fault Refusal :=
  .next (tapCommand who tap 1 cmd s)

/-- TAP_INSERT. -/
def execTapInsert (who : Partner) (tap : Fin 9) (cmd : Word) (s : State) : Host.Outcome State Fault Refusal :=
  .next (tapCommand who tap 2 cmd s)

/-- TAP_DELETE. -/
def execTapDelete (who : Partner) (tap : Fin 9) (cmd : Word) (s : State) : Host.Outcome State Fault Refusal :=
  .next (tapCommand who tap 3 cmd s)

/-- TAP_SEARCH. -/
def execTapSearch (who : Partner) (tap : Fin 9) (cmd : Word) (s : State) : Host.Outcome State Fault Refusal :=
  .next (tapCommand who tap 4 cmd s)

/-- TAP_AGE_SCAN. -/
def execTapAgeScan (who : Partner) (tap : Fin 9) (cmd : Word) (s : State) : Host.Outcome State Fault Refusal :=
  .next (tapCommand who tap 5 cmd s)

/-- TAP_FLUSH. -/
def execTapFlush (who : Partner) (tap : Fin 9) (cmd : Word) (s : State) : Host.Outcome State Fault Refusal :=
  .next (tapCommand who tap 6 cmd s)

/-- TAP_BAD_OP: an op of 7 to 15. -/
def execTapBadOp (who : Partner) (tap : Fin 9) (cmd : Word) (s : State) : Host.Outcome State Fault Refusal :=
  .next (tapCommand who tap 7 cmd s)

/-- The end of an operation (R129): busy clears, done sets and err holds the outcome; a command held for a full queue
ends at a bell instead (R135). -/
def Dev.tapDone (d : Dev) (tap : Nat) : Dev :=
  match SMap.find? d.tab.busy tap with
  | some e =>
    if tap < 8 then
      let d := { d with tab := { d.tab with busy := SMap.erase d.tab.busy tap } }
      d.tapStatus tap false true (e - 1)
    else d
  | none => d

/-- TAP_DONE of a TAP: an operation that it holds runs first, or goes on waiting. -/
def tapEnd (s : State) (tap : Nat) : State :=
  match SMap.find? s.dev.tab.tapHeld tap with
  | none => s.on fun d => d.tapDone tap
  | some (op, w) =>
    let c := s.dev.tapCmdOf tap op w
    if s.dev.tapPaused tap c then s
    else
      let (s, err) := dieEffect s tap c
      s.on fun d =>
        let d := { d with tab := { d.tab with busy := SMap.insert tap (1 + err) d.tab.busy, tapHeld := SMap.erase d.tab.tapHeld tap } }
        d.tapDone tap

/-- TAP_DONE. -/
def execTapDone (tap : Fin 9) (s : State) : Host.Outcome State Fault Refusal := .next (tapEnd s tap)

/-! Scrubbing and ageing (R125 to R127, R142). -/

/-- A LET slot read by the scrubber at P3; `upset`: it has come to have bad parity. -/
def scrubLet (s : State) (pl idx : Nat) (upset : Bool) : State :=
  if !s.dev.letOn pl || s.dev.letDead pl || s.dev.classPaused (s.dev.letStack pl) 3 then s
  else
    let a := s.dev.letAddr pl idx
    let s := s.on fun d => d.hbmSeen a 32 3
    let s := if upset then { s with hbm := hbmPut s.hbm (a + 28) (hbmByte s.hbm (a + 28) ^^^ 1) } else s
    letPurge s pl [idx]

/-- A page-map slot read by the scrubber at P3. -/
def scrubPmap (s : State) (die idx : Nat) (upset : Bool) : State :=
  if !s.dev.pmapOn die || !s.dev.stackUp (s.dev.pmapStack die) || s.dev.classPaused (s.dev.pmapStack die) 3 then s
  else
    let a := s.dev.pmapAddr die idx
    let s := s.on fun d => d.hbmSeen a 8 3
    let s := if upset then { s with hbm := hbmPut s.hbm (a + 6) (hbmByte s.hbm (a + 6) ^^^ 16) } else s
    if pmapBad s die idx then s.on fun d => d.perr die 11 0 idx else s

/-- The scrubber reads one entry of a die (R127), valid or not; `upset`: the entry has come to have bad parity. A bad entry is
counted, latched and recorded, and a LET entry invalidated. Tables in HBM wait while P3 is paused (12 R330). -/
def scrubEntry (s : State) (die t gen pipe idx : Nat) (upset : Bool) : State :=
  if idx ≥ tableSlots t then s
  else if t = 3 then scrubLet s (die * 8 + pipe) idx upset
  else if t = 11 then scrubPmap s die idx upset
  else s.on fun d =>
    let unit := tableUnit t die pipe
    let gen := if t ≤ 2 then gen else 0
    let d := if upset then { d with tab := { d.tab with bad := SMap.insert (tkey t gen unit idx * 8 + die) true d.tab.bad } } else d
    d.meets die t gen unit idx

/-- TABLE_SCRUB. -/
def execTableScrub (die : Fin 8) (table : Fin 13) (gen : Fin 2) (pipe : Fin 8) (idx : Nat) (upset : Bool) (s : State) :
    Host.Outcome State Fault Refusal := .next (scrubEntry s die table gen pipe idx upset)

/-- The ager reads a slot, unless P1 is paused; an entry still expired is removed and counted. -/
def letAge (s : State) (pl slot : Nat) : State :=
  if !s.dev.letOn pl || decide (tableSlots 3 ≤ slot) || s.dev.letDead pl || s.dev.classPaused (s.dev.letStack pl) 1 then s
  else
    let s := letPurge (s.on fun d => d.hbmSeen (d.letAddr pl slot) 32 0) pl [slot]
    if s.dev.letExpired pl (letWords s pl slot) then (letClear s pl slot).on fun d => d.bump .plnLetAged pl else s

/-- LET_AGER: the ager visits a slot; an entry still expired is removed and counted (R142). -/
def execLetAger (pl : Fin 64) (slot : Nat) (s : State) : Host.Outcome State Fault Refusal :=
  .next (letAge s pl slot)

end Sys2Proof.Machine
end

