-- ==== Sys2Proof/Machine/Windows.lean ====
section
/-! DEFINITION. The address windows of memory requests (11_rack_memory_fabric.md R286, R289), which the ingress pipeline
matches at head lookup, and the fields of requests (Table 11-3). -/

namespace Sys2Proof.Machine

/-! Request fields (Table 11-3). -/

def mAcq (p : Pkt) : Bool := bit p.opf 63
def mRel (p : Pkt) : Bool := bit p.opf 62
def mNc (p : Pkt) : Bool := bit p.opf 61
def mSub (p : Pkt) : Nat := bits p.opf 60 56
def mW64 (p : Pkt) : Bool := bit p.opf 55
def mAddr (p : Pkt) : Nat := bits p.opf 51 0

/-- The narrow size s and the operand width w (R294). -/
def mSize (p : Pkt) : Nat := 8 * 2 ^ mSub p
def mWidth (p : Pkt) : Nat := if mW64 p then 8 else 4

def opRd : Nat := 0x20
def opRdN : Nat := 0x21
def opWr : Nat := 0x22
def opWrN : Nat := 0x23
def opAtomic : Nat := 0x24
def opRed : Nat := 0x25
def opFence : Nat := 0x26

def mRead (p : Pkt) : Bool := p.op == opRd || p.op == opRdN
def mStore (p : Pkt) : Bool := p.op == opWr || p.op == opWrN
def mAtom (p : Pkt) : Bool := p.op == opAtomic || p.op == opRed

/-- Bytes that a request reads or writes. -/
def mBytes (p : Pkt) : Nat :=
  if p.op = opRd ∨ p.op = opWr then 64 else if p.op = opRdN ∨ p.op = opWrN then mSize p else mWidth p

/-! Windows (R286, R289). -/

/-- The windows written, ascending: index and words. -/
def Dev.windows (d : Dev) : List (Nat × List Word) :=
  (d.tab.ent.filter fun e => e.1 / 2 ^ 25 == tkey 4 0 0 0 / 2 ^ 25).map fun e => (e.1 % 2 ^ 25, e.2)

def winValid (ws : List Word) : Bool := bit (wat ws 0) 31
def winTarget (ws : List Word) : Nat := bits (wat ws 0) 30 29
def winLog (ws : List Word) : Nat := bits (wat ws 0) 21 16
def winTenant (ws : List Word) : Nat := bits (wat ws 0) 15 0
def winBase (ws : List Word) : Nat := bits (wat ws 1) 19 0 * 2 ^ 32 + wat ws 2
def winPeer (ws : List Word) : Nat := bits (wat ws 3) 10 0
def winTo (ws : List Word) : Nat := bits (wat ws 4) 19 0 * 2 ^ 32 + wat ws 5
def winRegion (ws : List Word) : Nat := bits (wat ws 4) 3 0 * 2 ^ 32 + wat ws 5

/-- A window matches an address of a tenant. -/
def winMatch (ws : List Word) (tenant a : Nat) : Bool :=
  winValid ws && winTenant ws == tenant && decide (winBase ws ≤ a) && decide (a < winBase ws + 2 ^ winLog ws)

/-- The match of lowest index on a die, bad entries met counted (05 R125); a window that a reclaim closed matches nothing. -/
def Dev.windowFor (d : Dev) (die tenant a : Nat) : Dev × Option (Nat × List Word) :=
  let ms := d.windows.filter fun e => winMatch e.2 tenant a && !d.tab.closed.contains e.1
  let bad := ms.filter fun e => d.entBad die 4 0 0 e.1
  (bad.foldl (fun d e => d.perr die 4 0 e.1) d, ms.find? fun e => !d.entBad die 4 0 0 e.1)

/-- The stack of a HASHED window (R289): its mask, the granule g and k. -/
def hashedStack (mask g k : Nat) : Nat :=
  let h := if k = 0 then 0 else ((upto 40).filter fun i => i % k == 0).foldl (fun h i => xorN h (g / 2 ^ i)) 0
  (maskBits 32 mask).getD (h % 2 ^ k) 0

/-- The HPA of offset o of a HASHED window. -/
def hashedHpa (ws : List Word) (o : Nat) : Nat :=
  let mask := wat ws 3
  let k := Nat.log2 (popcount 32 mask)
  let g := o / 4096
  hashedStack mask g k * 2 ^ 36 + winRegion ws + g / 2 ^ k * 4096 + o % 4096

/-- The addr lies in the page at OCU_FAB_BASE (17 R451). -/
def Dev.fabPage (d : Dev) (die a : Nat) : Bool :=
  d.rdB .ocuFabBaseHi die 31 &&
    a / 4096 == (d.rdF .ocuFabBaseHi die 19 0 * 2 ^ 32 + d.rdN .ocuFabBaseLo die) / 4096

/-- The window of a request: matched at its head lookup (R286); a fence and a counter page have none. -/
def Dev.windowOf (d : Dev) (die : Nat) (p : Pkt) : Dev × Option (Nat × List Word) :=
  if p.op = opFence ∨ d.fabPage die (mAddr p) = true then (d, none) else d.windowFor die p.tenant (mAddr p)

/-- The opcode is that of a request to memory (Table 11-4). -/
def memReq (op : Nat) : Bool := decide (0x20 ≤ op) && decide (op ≤ 0x26)

end Sys2Proof.Machine
end

