-- ==== Sys2Proof/Machine/Keep.lean ====
section
/-! DEFINITION. The Keep's cells, depths and queues (06_keep_buffer.md R150 to R160, R170, R171) and the queue a packet is
placed in (07 R184 to R191). -/

namespace Sys2Proof.Machine

/-! Pools (Table 6-1). -/

def Pool.num : Pool → Nat
  | .staging => 0
  | .vc1 => 1
  | .vc5 => 2
  | .vc6 => 3
  | .vc7 => 4
  | .spill => 5
  | .shared => 6
  | .none => 7

/-- The size of a pool of a die in cells: the shared pool is what the others leave (R150). -/
def Dev.poolSize (d : Dev) (die : Nat) : Pool → Nat
  | .staging => d.rdF .kepCrdPool die 19 0
  | .vc1 => d.rdF .kepRsvVc1 die 19 0
  | .vc5 => d.rdF .kepRsvVc5 die 19 0
  | .vc6 => d.rdF .kepRsvVc6 die 19 0
  | .vc7 => d.rdF .kepRsvVc7 die 19 0
  | .spill => d.rdF .kepSpillStage die 19 0
  | .shared => 786432 - (d.rdF .kepCrdPool die 19 0 + d.rdF .kepRsvVc1 die 19 0 + d.rdF .kepRsvVc5 die 19 0 +
      d.rdF .kepRsvVc6 die 19 0 + d.rdF .kepRsvVc7 die 19 0 + d.rdF .kepSpillStage die 19 0)
  | .none => 0

/-- Cells held in a pool. -/
def Dev.poolUsed (d : Dev) (die : Nat) (p : Pool) : Nat := SMap.getD d.keep.used (die * 8 + p.num) 0

/-- The pool has room for n cells more (R153). -/
def Dev.poolRoom (d : Dev) (die : Nat) (p : Pool) (n : Nat) : Bool := decide (d.poolUsed die p + n ≤ d.poolSize die p)

/-- Free cells of the shared pool (R159). -/
def Dev.sharedFree (d : Dev) (die : Nat) : Nat := d.poolSize die .shared - d.poolUsed die .shared

/-- The cells held in a pool change. -/
def Dev.poolMove (d : Dev) (die : Nat) (p : Pool) (f : Nat → Nat) : Dev :=
  if p = .none then d else { d with keep := { d.keep with used := SMap.modify d.keep.used (die * 8 + p.num) 0 f } }

/-- The reserve of a VC, if it has one. -/
def vcPool : Nat → Option Pool
  | 1 => some .vc1
  | 5 => some .vc5
  | 6 => some .vc6
  | 7 => some .vc7
  | _ => none

/-- Cells reserved for an answer on VC v: in its reserve, else in the shared pool (R179). -/
def Dev.reserve (d : Dev) (die v n : Nat) : Option (Dev × Resv) :=
  match (((vcPool v).toList ++ [Pool.shared]).find? fun p => d.poolRoom die p n) with
  | some p => some (d.poolMove die p (· + n), ⟨die, p, n⟩)
  | none => none

/-- A reservation given back. -/
def Dev.unreserve (d : Dev) (r : Resv) : Dev := d.poolMove r.die r.pool (· - r.cells)

/-! Depths (R159, R160). -/

/-- The die that owns a queue: queues below 81,920 are leaves and default queues, the others FIFOs of VC6 and VC7. -/
def queueDie (q : Nat) : Nat := if q < 81920 then q / 10240 else (q - 81920) / 2048

/-- Cells enqueued on a queue and on a port and VC by a die. -/
def Dev.depthUp (d : Dev) (die : Nat) (e : QEnt) (vc n : Nat) : Dev :=
  let pv := e.lp * 8 + vc
  let k := d.keep
  { d with keep := { k with
      depth := SMap.modify k.depth e.q 0 (· + n)
      lpDepth := SMap.modify k.lpDepth pv 0 (· + n)
      depthOwn := SMap.modify k.depthOwn (die * 2 ^ 20 + e.q) 0 (· + n)
      lpOwn := SMap.modify k.lpOwn (die * 2 ^ 20 + pv) 0 (· + n) } }

/-- Cells of a copy leave a queue and a port and VC. -/
def Dev.depthDown (d : Dev) (e : QEnt) (vc n : Nat) : Dev :=
  let pv := e.lp * 8 + vc
  let k := d.keep
  { d with keep := { k with
      depth := SMap.modify k.depth e.q 0 (· - n)
      lpDepth := SMap.modify k.lpDepth pv 0 (· - n) } }

/-- depth(q) as a die knows it (R160): its own queues exactly, another's as last sent plus what it admitted since. -/
def Dev.depthSeen (d : Dev) (die q : Nat) : Nat :=
  if queueDie q = die then SMap.getD d.keep.depth q 0
  else SMap.getD d.keep.depthSnap q 0 + SMap.getD d.keep.depthOwn (die * 2 ^ 20 + q) 0

/-- queued_cells(lp, vc) as a die knows it (R160). -/
def Dev.queuedSeen (d : Dev) (die lp vc : Nat) : Nat :=
  if lpDie lp = die then SMap.getD d.keep.lpDepth (lp * 8 + vc) 0
  else SMap.getD d.keep.lpSnap (lp * 8 + vc) 0 + SMap.getD d.keep.lpOwn (die * 2 ^ 20 + lp * 8 + vc) 0

/-- DEPTH_EXCHANGE (R160): each die sends its queues' depths to every other die. -/
def execDepthExchange (s : State) : Host.Outcome State Fault Refusal :=
  .next (s.on fun d => { d with keep := { d.keep with
    depthSnap := d.keep.depth, depthOwn := [], lpSnap := d.keep.lpDepth, lpOwn := [] } })

/-! Queues (07 R184 to R187). -/

/-- Packets wait on a queue on some VC. A packet that a slot has taken is on its queue no more, so a queue whose last packet
is being sent has none, and starts at its parent's virtual time or later when the next comes (R191; DEDUCED,
assumption 144). -/
def Dev.queueBusy (d : Dev) (q : Nat) : Bool :=
  (upto 6).any fun v => !(SMap.getD d.keep.queues (q * 8 + v) []).isEmpty

/-- Node s of a die has a valid entry; an entry with bad parity acts as invalid (05 R126). -/
def Dev.nodeValid (d : Dev) (die s : Nat) : Bool := bit (d.entW 7 0 die s 0) 31 && !d.entBad die 7 0 die s

/-- The default queue of a node. -/
def dfltQueue (die s : Nat) : Nat := die * 10240 + 8192 + s

/-- The leaf of lowest index in a node's range that is valid and of the tenant (R184). -/
def Dev.leafFor (d : Dev) (die s tenant : Nat) : Option Nat :=
  if !d.nodeValid die s then none
  else
    let w0 := d.entW 7 0 die s 0
    ((upto (bits w0 19 13)).map fun i => bits w0 12 0 + i).find? fun l =>
      bit (d.entW 6 0 die l 0) 31 && bits (d.entW 6 0 die l 0) 15 0 == tenant && !d.entBad die 6 0 die l

/-- The queue of a packet for a port (R184, R185, R189): a leaf, else the node's default queue; a leaf that holds another
node's packets is passed over for the default queue. VC6 and VC7 have a FIFO each. -/
def Dev.queueFor (d : Dev) (lp tclass tenant vc : Nat) : Nat :=
  if vc ≥ 6 then 81920 + lp * 8 + vc
  else
    let die := lpDie lp
    let s := lpJ lp * 8 + tclass
    match d.leafFor die s tenant with
    | some l =>
      match SMap.find? d.sch.owner (die * 8192 + l) with
      | some n => if n = s then die * 10240 + l else dfltQueue die s
      | none => die * 10240 + l
    | none => dfltQueue die s

/-- The node and the leaves that the queue lookup of a packet for a port meets, handled if bad (05 R125). -/
def Dev.queueMeets (d : Dev) (lp tclass tenant vc : Nat) : Dev :=
  if vc ≥ 6 then d
  else
    let die := lpDie lp
    let s := lpJ lp * 8 + tclass
    let w0 := d.entW 7 0 die s 0
    if !d.nodeValid die s then d.meets die 7 0 die s
    else ((upto (bits w0 19 13)).map fun i => bits w0 12 0 + i).foldl (fun d' l =>
      if bit (d.entW 6 0 die l 0) 31 && bits (d.entW 6 0 die l 0) 15 0 == tenant && ((d.leafFor die s tenant).all fun x => decide (l < x))
      then d'.meets die 6 0 die l else d') d

/-- Start tags are compared modulo 2^48 (R191). -/
def tagLt (a b : Nat) : Bool := decide (2 ^ 47 ≤ (a + 2 ^ 48 - b) % 2 ^ 48)
def tagMax (a b : Nat) : Nat := if tagLt a b then b else a

/-- The start tag of a queue. -/
def Dev.queueTag (d : Dev) (q : Nat) : Nat :=
  let die := q / 10240
  let i := q % 10240
  if i < 8192 then SMap.getD d.sch.leafS (die * 8192 + i) 0 else SMap.getD d.sch.dfltS (die * 2048 + (i - 8192)) 0

/-- The start tag of a queue set. -/
def Dev.setQueueTag (d : Dev) (q v : Nat) : Dev :=
  let die := q / 10240
  let i := q % 10240
  if i < 8192 then { d with sch := { d.sch with leafS := SMap.put d.sch.leafS (die * 8192 + i) 0 v } }
  else { d with sch := { d.sch with dfltS := SMap.put d.sch.dfltS (die * 2048 + (i - 8192)) 0 v } }

/-- Leaves of a die that hold packets of node s. -/
def Dev.ownedLeaves (d : Dev) (die s : Nat) : List Nat :=
  (d.sch.owner.filter fun e => e.1 / 8192 == die && e.2 == s).map fun e => e.1 % 8192

/-- The queues of a node that may hold packets: its leaves, then its default queue. -/
def Dev.nodeQueues (d : Dev) (die s : Nat) : List Nat :=
  ((d.ownedLeaves die s).map fun l => die * 10240 + l) ++ [dfltQueue die s]

/-- A node has packets. -/
def Dev.nodeBusy (d : Dev) (die s : Nat) : Bool := (d.nodeQueues die s).any fun q => d.queueBusy q

/-- A copy placed at the end of its queue. A queue and a node that had no packet start at their parent's virtual time or
later (R191); a leaf is the child of the node whose packets it holds (R189). -/
def Dev.enqueue (d : Dev) (e : QEnt) (tclass vc : Nat) : Dev :=
  let put := fun (d : Dev) => { d with keep := { d.keep with
    queues := SMap.modify d.keep.queues (e.q * 8 + vc) [] (· ++ [e]) } }
  if vc ≥ 6 then put d
  else
    let die := lpDie e.lp
    let s := lpJ e.lp * 8 + tclass
    let n := die * 2048 + s
    let d := if d.nodeBusy die s then d
      else { d with sch := { d.sch with nodeS := SMap.modify d.sch.nodeS n 0 (tagMax · (SMap.getD d.sch.portV e.lp 0)) } }
    let d := if d.queueBusy e.q then d else d.setQueueTag e.q (tagMax (d.queueTag e.q) (SMap.getD d.sch.nodeV n 0))
    let i := e.q % 10240
    let d := if i < 8192 then { d with sch := { d.sch with owner := SMap.insert (die * 8192 + i) s d.sch.owner } } else d
    put d

/-- LEAF_EMPTIED (R189): a leaf that holds no packet any more has no node, and takes the values of its last WRITE. -/
def Dev.leafEmptied (d : Dev) (q : Nat) : Dev :=
  if q ≥ 81920 ∨ q % 10240 ≥ 8192 ∨ SMap.getD d.keep.depth q 0 ≠ 0 then d
  else
    let die := q / 10240
    let l := q % 10240
    let k := die * 8192 + l
    let d := { d with sch := { d.sch with owner := SMap.erase d.sch.owner k } }
    match SMap.find? d.sch.after k with
    | some ws => d.takeLeaf die l ws
    | none => d

/-! Packets held. -/

/-- A packet's record. -/
def Dev.held (d : Dev) (pid : Nat) : Option Held := SMap.find? d.keep.pkts pid

/-- A packet's record put. -/
def Dev.putHeld (d : Dev) (pid : Nat) (h : Held) : Dev :=
  { d with keep := { d.keep with pkts := SMap.insert pid h d.keep.pkts } }

/-- A packet's record dropped. -/
def Dev.dropHeld (d : Dev) (pid : Nat) : Dev := { d with keep := { d.keep with pkts := SMap.erase d.keep.pkts pid } }

/-- A new packet's number, and the device with its record. -/
def Dev.newHeld (d : Dev) (h : Held) : Nat × Dev :=
  let pid := d.keep.nextPid
  (pid, ({ d with keep := { d.keep with nextPid := pid + 1 } }).putHeld pid h)

/-- Credits of a VC owed to the far end of a port (03 R69). -/
def Dev.owe (d : Dev) (lp vc n : Nat) : Dev :=
  let f := fun (c : Credit) => { c with owed := c.owed + n }
  { d with link := { d.link with credits := SMap.modify d.link.credits (lp * 8 + vc) {} f } }

/-- Cells of a packet that leave the credit reserve; a credit is owed to the far end for each (03 R69, 06 R152). -/
def Dev.unstage (d : Dev) (pid : Nat) : Dev :=
  match d.held pid with
  | some h =>
    match h.lp with
    | some lp =>
      ((d.poolMove h.die .staging (· - h.staged)).putHeld pid { h with staged := 0 }).owe lp h.pkt.vc h.staged
    | none => d
  | none => d

/-- The packet leaves the pipeline for nothing: dropped if its tail has arrived, else what still arrives is discarded. -/
def Dev.forget (d : Dev) (pid : Nat) : Dev :=
  let d := d.unstage pid
  match d.held pid with
  | some h => if h.done then d.dropHeld pid else d.putHeld pid { h with phase := .gone }
  | none => d

/-- Copies of a packet waiting in queues, and in slots. -/
def Dev.waiting (d : Dev) (pid : Nat) : List QEnt := (d.keep.queues.flatMap fun e => e.2).filter fun e => e.pid == pid
def Dev.slotted (d : Dev) (pid : Nat) : List (Nat × Slot) := d.keep.slots.filter fun e => e.2.ent.pid == pid

/-- The packet's head has been forwarded: a copy has begun transmission (03 R75). -/
def Dev.forwarded (d : Dev) (pid : Nat) : Bool := (d.slotted pid).any fun e => e.2.pos != 0

/-- Cells held in HBM spill change (R176). -/
def Dev.spillMove (d : Dev) (die : Nat) (f : Nat → Nat) : Dev :=
  { d with keep := { d.keep with spilled := SMap.modify d.keep.spilled die 0 f } }

/-- A copy ends: its last cell was sent, or it was discarded. Its queue's depth falls, and the cells are freed with the
last copy (R171). -/
def Dev.copyEnds (d : Dev) (e : QEnt) : Dev :=
  match d.held e.pid with
  | none => d
  | some h =>
    let d := (d.depthDown e h.pkt.vc h.cells).leafEmptied e.q
    let h := { h with refs := h.refs - 1 }
    if h.refs = 0 then
      let d := d.poolMove h.die h.pool (· - h.cells)
      let d := if h.spill = .hbm then d.spillMove h.die (· - h.cells) else d
      if h.done then d.dropHeld e.pid else d.putHeld e.pid { h with phase := .gone, cells := 0, pool := .none }
    else d.putHeld e.pid h

/-- Copies that have not begun are discarded from queues and slots. -/
def Dev.dropUnbegun (d : Dev) (pid : Nat) : Dev :=
  let es := d.waiting pid ++ ((d.slotted pid).filter fun e => e.2.pos == 0).map fun e => e.2.ent
  let d := { d with keep := { d.keep with
    queues := (d.keep.queues.map fun x => (x.1, x.2.filter fun e => e.pid != pid)).filter fun x => !x.2.isEmpty
    slots := d.keep.slots.filter fun x => x.2.ent.pid != pid || x.2.pos != 0 } }
  es.foldl (fun d e => d.copyEnds e) d

/-- The cells of a packet fall to n: cells reserved and never filled are freed (R154). -/
def Dev.shrink (d : Dev) (pid n : Nat) : Dev :=
  match d.held pid with
  | some h =>
    if n < h.cells then
      let d := (d.waiting pid ++ (d.slotted pid).map fun e => e.2.ent).foldl
        (fun d e => d.depthDown e h.pkt.vc (h.cells - n)) d
      (d.poolMove h.die h.pool (· - (h.cells - n))).putHeld pid { h with cells := n }
    else d
  | none => d

/-- A packet is ended early (03 R75, 06 R169): copies that have begun will end with an ABORT TAIL, the others are
discarded. -/
def Dev.endEarly (d : Dev) (pid : Nat) : Dev :=
  match d.held pid with
  | none => d
  | some h =>
    match h.phase with
    | .kept =>
      let d := (d.shrink pid (max 1 h.rcvd)).dropUnbegun pid
      match d.held pid with
      | some h => if h.refs = 0 then d.dropHeld pid else d.putHeld pid { h with done := true, bad := true }
      | none => d
    | _ => ((d.unreserve h.resv).unstage pid).dropHeld pid

end Sys2Proof.Machine
end

