-- ==== Sys2Proof/Machine/Admit.lean ====
section
/-! DEFINITION. Admission to the Keep (06_keep_buffer.md R154 to R164, R170, R172, R176), LFSRs, and ports in service. -/

namespace Sys2Proof.Machine

/-! Ports. -/

/-- The state of a native port (Table 3-11, field state of PLN_LNK_STATUS). -/
def Dev.lnkState (d : Dev) (lp : Nat) : Nat := d.rdF .plnLnkStatus lp 3 0

/-- The link layer of a port. -/
def Dev.port (d : Dev) (lp : Nat) : Port := SMap.getD d.link.ports lp {}

/-- The link layer of a port set. -/
def Dev.setPort (d : Dev) (lp : Nat) (p : Port) : Dev :=
  { d with link := { d.link with ports := SMap.insert lp p d.link.ports } }

/-- A port is in service: ACTIVE, or its PCS aligned (04 R118). -/
def Dev.inService (d : Dev) (lp : Nat) : Bool := if d.isEth lp then (d.port lp).pcs else d.lnkState lp == 5

/-- The rate of a logical port in Gb/s (00 Table 0-5). -/
def Dev.rate (d : Dev) (lp : Nat) : Nat := 200 * d.fibLanes (lpFp lp)

/-! LFSRs (04 R105, 06 R161). -/

/-- One step of the 32-bit Galois LFSR, shifting left. -/
def lfsrStep (s : Nat) : Nat :=
  let t := s * 2 % 2 ^ 32
  if s % 2 ^ 32 ≥ 2 ^ 31 then xorN t 0x00400007 else t

/-- The 32 bits of a number in reverse order. -/
def rev32 (n : Nat) : Nat := maskOf ((maskBits 32 n).map fun b => 31 - b)

/-- A draw of the WRED LFSR of a pipeline: its low 8 bits after a step (R161). -/
def Dev.wredDraw (d : Dev) (pl : Nat) : Nat × Dev :=
  let s := lfsrStep (SMap.getD d.keep.wredLfsr pl 1)
  (s % 256, { d with keep := { d.keep with wredLfsr := SMap.insert pl s d.keep.wredLfsr } })

/-! WRED (R161, R162). -/

/-- avg of a queue updated for a packet of a class judged against it; depth_q as the ingress die knows it. -/
def Dev.wredAvg (d : Dev) (die c q : Nat) : Nat × Dev :=
  let w := d.rdF .kepProfCfg (die * 8 + c) 15 12
  let a := SMap.getD d.keep.avg q 0
  let a' := ((a : Int) + ((d.depthSeen die q : Int) - (a : Int)).fdiv (2 ^ w : Nat)).toNat
  (a', { d with keep := { d.keep with avg := SMap.put d.keep.avg q 0 a' } })

/-- wred_acts (R161). -/
def Dev.wredActs (d : Dev) (die pl c : Nat) (green : Bool) (avg : Nat) : Bool × Dev :=
  let i := die * 8 + c
  let prof := if green then d.rd .kepProfGreen i else d.rd .kepProfYellow i
  let lo := fld prof 15 0 * 16
  let hi := fld prof 31 16 * 16
  let maxp := if green then d.rdF .kepProfCfg i 31 24 else d.rdF .kepProfCfg i 23 16
  if avg < lo then (false, d)
  else if hi ≤ avg then (true, d)
  else
    let (r, d) := d.wredDraw pl
    (decide (r < maxp * (avg - lo) / (hi - lo)), d)

/-- The profile's mode is MARK. -/
def Dev.wredMarks (d : Dev) (die c : Nat) (green : Bool) : Bool := d.rdB .kepProfCfg (die * 8 + c) (if green then 10 else 11)

/-- The ECN field of a routed frame (03 R91): 0 is Not-ECT, 3 is CE. -/
def frameEcn (h : Held) : Nat :=
  match h.frame with
  | some f =>
    let b1 := beAt h.pkt.payload (f.ipOff + 1) 1
    if f.ipVer = 4 then b1 % 4 else b1 / 16 % 4
  | none => 0

/-- A target with its queue and whether its copy is marked. -/
structure Judged where
  tgt : Target
  q : Nat
  ce : Bool

/-- What WRED makes of one target (R162): none where the packet is refused to it, with true where that is because a frame
to mark is Not-ECT. -/
def Dev.wredOne (d : Dev) (h : Held) (lossless green : Bool) (t : Judged) : (Option Judged × Bool) × Dev :=
  let c := h.pkt.tclass
  let (a, d) := d.wredAvg h.die c t.q
  let (acts, d) := d.wredActs h.die h.pl c green a
  if !acts then ((some t, false), d)
  else if !lossless && !d.wredMarks h.die c green then ((none, false), d)
  else if h.pkt.vc ≥ 6 then ((some t, false), d)
  else match h.frame with
    | none => ((some { t with ce := true }, false), d)
    | some f =>
      if f.routed then
        if frameEcn h = 0 then ((none, true), d) else ((some { t with ce := true }, false), d)
      else ((some { t with ce := !d.isEth t.tgt.lp }, false), d)

/-- WRED over all targets: those kept, and whether the last one refused was Not-ECT. -/
def Dev.wredAll (d : Dev) (h : Held) (lossless green : Bool) : List Judged → (List Judged × Bool) × Dev
  | [] => (([], false), d)
  | t :: ts =>
    let ((r, ne), d) := d.wredOne h lossless green t
    let ((ks, ne'), d) := d.wredAll h lossless green ts
    match r with
    | some k => ((k :: ks, ne'), d)
    | none => ((ks, ne || ne'), d)

/-! Table 6-3. -/

/-- The outcome of an admission check. -/
inductive Verdict where
  | take (pool : Pool) (ts : List Judged)
  | spill (ts : List Judged)
  | wait
  /-- Refused: the counter that counts it. -/
  | drop (r : Reg)

/-- Targets left out (R170): counted for a multicast packet; refused with `r` when none is left. -/
def Dev.leftOut (d : Dev) (h : Held) (before after : List Judged) (r : Reg) : Dev × Option Verdict :=
  let d := if h.mcast then d.bumpN .kepDropMcast h.die (before.length - after.length) else d
  (d, if after.isEmpty then some (.drop r) else none)

/-- Cells that admission reserves (R154). -/
def Held.need (h : Held) : Nat :=
  match h.frame with
  | some f => cellsOf f.fixed
  | none => cellsOf h.pkt.len

/-- The spill region of a die lies in a stack that serves P3 (12 R330, Table 12-6); throttle step 7 stops spill writes
(18 Table 18-6). -/
def Dev.spillServed (d : Dev) (die : Nat) : Bool :=
  let hs := d.rdBase .kepSpillBaseLo .kepSpillBaseHi die / 2 ^ 36
  d.stackUp hs && !d.bulkPaused hs

/-- Cells in the stage of a die that are still to be written to its spill region. -/
def Dev.spillDue (d : Dev) (die : Nat) : Nat :=
  (d.keep.pkts.filter fun x => x.2.die == die && x.2.spill == Spill.stage).foldl (fun n x => n + x.2.cells) 0

/-- A refusal at step 4 or 5 goes to spill instead (R176). -/
def Dev.spillOk (d : Dev) (h : Held) : Bool :=
  let n := h.need
  d.spillServed h.die && d.rdF .pwrStatus 0 31 29 != 7 &&
  !h.mcast && h.pkt.vc == 2 && d.rdB .kepProfCfg (h.die * 8 + h.pkt.tclass) 9 && d.rdF .kepSpillSize h.die 7 0 != 0 &&
    d.rdB .kepSpillBaseHi h.die 31 && d.poolRoom h.die .spill n &&
    decide (SMap.getD d.keep.spilled h.die 0 + d.spillDue h.die + n ≤ d.rdF .kepSpillSize h.die 7 0 * 2 ^ 24)

/-- Steps 3 to 5: the pool and the targets left, or another outcome. -/
def Dev.admitRoom (d : Dev) (h : Held) (lossless : Bool) (ts : List Judged) : Dev × Verdict :=
  let n := h.need
  let reserve := (vcPool h.pkt.vc).filter fun p => d.poolRoom h.die p n
  match reserve with
  | some p => (d, .take p ts)
  | none =>
    let alpha := d.rdF .kepProfCfg (h.die * 8 + h.pkt.tclass) 3 0
    let ok := ts.filter fun t => decide ((d.depthSeen h.die t.q + n) * 256 ≤ d.sharedFree h.die * 2 ^ alpha)
    let room := d.poolRoom h.die .shared n
    if (ok.length < ts.length || !room) && d.spillOk h then (d, .spill ts)
    else if lossless then (d, if ok.length < ts.length || !room then .wait else .take .shared ts)
    else
      let (d, v) := d.leftOut h ts ok .kepDropThresh
      match v with
      | some v => (d, v)
      | none => (d, if room then .take .shared ok else .drop .kepDropThresh)

/-- A WRED step: targets kept, or the refusal. -/
def Dev.admitWred (d : Dev) (h : Held) (lossless green : Bool) (ts : List Judged) : Dev × (Verdict ⊕ List Judged) :=
  let ((ks, ne), d) := d.wredAll h lossless green ts
  if ks.length = ts.length then (d, .inr ks)
  else
    let r : Reg := if ne then .kepDropNotEct else if green then .kepDropWredG else .kepDropWredY
    let (d, v) := d.leftOut h ts ks r
    match v with
    | some v => (d, .inl v)
    | none => (d, .inr ks)

/-- The admission check of Table 6-3. A packet with a reservation for it (R179) skips steps 3 to 5. -/
def Dev.admitCheck (d : Dev) (h : Held) (lossless : Bool) : Dev × Verdict :=
  let d := h.targets.foldl (fun d t => d.queueMeets t.lp h.pkt.tclass h.pkt.tenant h.pkt.vc) d
  let ts : List Judged := h.targets.map fun t => ⟨t, d.queueFor t.lp h.pkt.tclass h.pkt.tenant h.pkt.vc, false⟩
  let col := if lossless then .green else h.colour
  if col = .red then (d, .drop .kepDropRed)
  else
    let (d, r) := if col = .yellow then d.admitWred h lossless false ts else (d, .inr ts)
    match r with
    | .inl v => (d, v)
    | .inr ts =>
      let (d, v) := if h.resv.pool = .none then d.admitRoom h lossless ts else (d, .take h.resv.pool ts)
      match v with
      | .take p ts =>
        if col = .green then
          let (d, r) := d.admitWred h lossless true ts
          match r with
          | .inl v => (d, v)
          | .inr ts => (d, .take p ts)
        else (d, .take p ts)
      | v => (d, v)

/-- The tags of a packet for Oculus. -/
def Held.tag (h : Held) (lp : Option Nat) : OcuTag :=
  { tenant := some h.pkt.tenant, lp := lp, tclass := some h.pkt.tclass, vc := some h.pkt.vc }

/-- A copy may be sent before the tail has arrived (R165). -/
def Dev.cutThrough (d : Dev) (h : Held) (lp : Nat) : Bool :=
  match h.lp with
  | some i => decide (d.rate lp ≤ d.rate i) && !(h.frame.isNone && d.isEth lp)
  | none => true

/-- The packet enters the Keep: its cells leave staging, its copies are enqueued (R152, R165, R170). -/
def Dev.keepIn (d : Dev) (pid : Nat) (h : Held) (pool : Pool) (spill : Spill) (ts : List Judged) : Dev :=
  let n := h.need
  let marked := ts.any fun t => t.ce
  let d := d.unreserve h.resv
  let d := d.poolMove h.die pool (· + n)
  let d := d.unstage pid
  let h := { h with staged := 0, phase := .kept, pool := pool, cells := n, refs := ts.length, spill := spill, resv := {} }
  let d := d.putHeld pid h
  let d := if marked then
      ((d.bump .kepMarked h.die).ocu h.die 11 (h.tag h.lp) 1).page h.pkt.tenant tMarked 1
    else d
  ts.foldl (fun d t =>
    let e : QEnt := ⟨pid, t.tgt.lp, t.q, t.ce, t.tgt.rw, spill = .no && d.cutThrough h t.tgt.lp⟩
    (d.depthUp h.die e h.pkt.vc n).enqueue e h.pkt.tclass h.pkt.vc) d

/-- A packet from a port is dropped before any copy is enqueued: RX_DROP (17 R447). -/
def Dev.rxDrop (d : Dev) (h : Held) : Dev :=
  let d := d.page h.pkt.tenant tDropped 1
  match h.lp with
  | some lp => d.portCount lp fRxDrop 1
  | none => d

/-- A drop of Table 6-3. -/
def Dev.keepDrop (d : Dev) (pid : Nat) (h : Held) (r : Reg) : Dev :=
  (((d.bump r h.die).ocu h.die 10 (h.tag h.lp) 1).rxDrop h).forget pid

/-- Lossless by Table 6-2. -/
def Held.lossless (h : Held) : Bool :=
  match h.lp with
  | none => true
  | some _ => h.frame.isNone && h.pkt.vc != 2 && h.pkt.vc != 3

/-- A spilled packet's admission (R176). -/
def Dev.spillIn (d : Dev) (pid : Nat) (h : Held) (ts : List Judged) : Dev :=
  let d := (d.bump .kepSpillPkts h.die).ocu h.die 12 (h.tag h.lp) 1
  d.keepIn pid h .spill .stage ts

/-- Admission of a packet from a port whose targets stand (R157, R158). -/
def Dev.admission (d : Dev) (pid : Nat) : Dev :=
  match d.held pid with
  | none => d
  | some h =>
    let (d, v) := d.admitCheck h h.lossless
    match v with
    | .take p ts => d.keepIn pid h p .no ts
    | .spill ts => d.spillIn pid h ts
    | .wait => d.putHeld pid { h with phase := .wait }
    | .drop r => d.keepDrop pid h r

/-! Spill (R176). -/

/-- The lowest n cells of a die's spill region that hold nothing. -/
def Dev.spillCells (d : Dev) (die n : Nat) : List Nat :=
  let used := d.keep.pkts.flatMap fun x => if x.2.die = die ∧ x.2.spill = .hbm then x.2.spillAt else []
  ((upto (used.length + n)).filter fun c => !used.contains c).take n

/-- The HPA of a cell of a die's spill region. -/
def Dev.spillHpa (d : Dev) (die c : Nat) : Nat := d.rdBase .kepSpillBaseLo .kepSpillBaseHi die + 64 * c

/-- Bytes written to cells of a die's spill region, 64 each, at P3. -/
def spillPut (s : State) (die : Nat) (bs : List Byte) (cs : List Nat) : State :=
  ((upto cs.length).zip cs).foldl (fun s x => (hbmWrite s (s.dev.spillHpa die x.2) (slice bs (64 * x.1) 64) 3).1) s

/-- Cells of a die's spill region read back, at P3; none where one is uncorrectable. -/
def spillGet (s : State) (die : Nat) : List Nat → State × Option (List Byte)
  | [] => (s, some [])
  | c :: cs =>
    match hbmRead s (s.dev.spillHpa die c) 64 3 with
    | (s, r) => match spillGet s die cs with
      | (s, q) => (s, match r, q with
        | some a, some b => some (a ++ b)
        | _, _ => none)

/-- The region of a die takes n more cells now. -/
def Dev.spillRoom (d : Dev) (die n : Nat) : Bool :=
  d.spillServed die && d.rdF .pwrStatus 0 31 29 != 7 &&
    decide (SMap.getD d.keep.spilled die 0 + n ≤ d.rdF .kepSpillSize die 7 0 * 2 ^ 24)

/-- SPILL_WRITE: once its tail has arrived, a spilled packet is written and its stage cells are freed. While no packet goes to
spill (12 R330, Table 12-6, 18 Table 18-6) it stays in the stage and is sent from there. -/
def spillWrite (s : State) (die pid : Nat) : State :=
  match s.dev.held pid with
  | some h =>
    if h.die = die ∧ h.spill = .stage ∧ h.done then
      if s.dev.spillRoom die h.cells then
        let cs := s.dev.spillCells die h.cells
        let bs := h.pkt.payload
        (spillPut s die bs cs).on fun d =>
          let d := (d.poolMove die .spill (· - h.cells)).spillMove die (· + h.cells)
          d.putHeld pid { h with spill := .hbm, pool := .none, spillAt := cs, spillLen := bs.length, pkt := { h.pkt with payload := [] } }
      else s.on fun d => d.putHeld pid { h with spill := .back }
    else s
  | none => s

/-- SPILL_WRITE. -/
def execSpillWrite (die : Fin 8) (pid : Nat) (s : State) : Host.Outcome State Fault Refusal :=
  .next (spillWrite s die pid)

end Sys2Proof.Machine
end

