-- ==== Sys2Proof/Machine/Crypto.lean ====
section
/-! DEFINITION. SHA-512 and the verification of Ed25519 signatures (RFC 8032), which the boot checks use
(16_belfry_boot_security.md R414, R416, R417). -/

namespace Sys2Proof.Machine

/-! SHA-512. -/

def shaK0 : List Nat :=
  [0x428A2F98D728AE22, 0x7137449123EF65CD, 0xB5C0FBCFEC4D3B2F, 0xE9B5DBA58189DBBC, 0x3956C25BF348B538,
   0x59F111F1B605D019, 0x923F82A4AF194F9B, 0xAB1C5ED5DA6D8118, 0xD807AA98A3030242, 0x12835B0145706FBE,
   0x243185BE4EE4B28C, 0x550C7DC3D5FFB4E2, 0x72BE5D74F27B896F, 0x80DEB1FE3B1696B1, 0x9BDC06A725C71235,
   0xC19BF174CF692694, 0xE49B69C19EF14AD2, 0xEFBE4786384F25E3, 0x0FC19DC68B8CD5B5, 0x240CA1CC77AC9C65]
def shaK1 : List Nat :=
  [0x2DE92C6F592B0275, 0x4A7484AA6EA6E483, 0x5CB0A9DCBD41FBD4, 0x76F988DA831153B5, 0x983E5152EE66DFAB,
   0xA831C66D2DB43210, 0xB00327C898FB213F, 0xBF597FC7BEEF0EE4, 0xC6E00BF33DA88FC2, 0xD5A79147930AA725,
   0x06CA6351E003826F, 0x142929670A0E6E70, 0x27B70A8546D22FFC, 0x2E1B21385C26C926, 0x4D2C6DFC5AC42AED,
   0x53380D139D95B3DF, 0x650A73548BAF63DE, 0x766A0ABB3C77B2A8, 0x81C2C92E47EDAEE6, 0x92722C851482353B]
def shaK2 : List Nat :=
  [0xA2BFE8A14CF10364, 0xA81A664BBC423001, 0xC24B8B70D0F89791, 0xC76C51A30654BE30, 0xD192E819D6EF5218,
   0xD69906245565A910, 0xF40E35855771202A, 0x106AA07032BBD1B8, 0x19A4C116B8D2D0C8, 0x1E376C085141AB53,
   0x2748774CDF8EEB99, 0x34B0BCB5E19B48A8, 0x391C0CB3C5C95A63, 0x4ED8AA4AE3418ACB, 0x5B9CCA4F7763E373,
   0x682E6FF3D6B2B8A3, 0x748F82EE5DEFB2FC, 0x78A5636F43172F60, 0x84C87814A1F0AB72, 0x8CC702081A6439EC]
def shaK3 : List Nat :=
  [0x90BEFFFA23631E28, 0xA4506CEBDE82BDE9, 0xBEF9A3F7B2C67915, 0xC67178F2E372532B, 0xCA273ECEEA26619C,
   0xD186B8C721C0C207, 0xEADA7DD6CDE0EB1E, 0xF57D4F7FEE6ED178, 0x06F067AA72176FBA, 0x0A637DC5A2C898A6,
   0x113F9804BEF90DAE, 0x1B710B35131C471B, 0x28DB77F523047D84, 0x32CAAB7B40C72493, 0x3C9EBE0A15C9BEBC,
   0x431D67C49C100D4C, 0x4CC5D4BECB3E42B6, 0x597F299CFC657E2A, 0x5FCB6FAB3AD6FAEC, 0x6C44198C4A475817]

/-- The 80 round constants. -/
def shaK : List Nat := shaK0 ++ shaK1 ++ shaK2 ++ shaK3

/-- The initial hash value. -/
def shaInit : List Nat :=
  [0x6A09E667F3BCC908, 0xBB67AE8584CAA73B, 0x3C6EF372FE94F82B, 0xA54FF53A5F1D36F1, 0x510E527FADE682D1,
   0x9B05688C2B3E6C1F, 0x1F83D9ABFB41BD6B, 0x5BE0CD19137E2179]

/-- Rotation right in 64 bits. -/
def rotr64 (n x : Nat) : Nat := (x / 2 ^ n + x * 2 ^ (64 - n)) % 2 ^ 64

/-- Exclusive or of three words. -/
def xor3 (a b c : Nat) : Nat := xorN (xorN a b) c

/-- One word more of the message schedule, held with the latest word first. -/
def shaExtend (ws : List Nat) : List Nat :=
  let x := ws.getD 14 0
  let y := ws.getD 1 0
  let s0 := xor3 (rotr64 1 x) (rotr64 8 x) (x / 2 ^ 7)
  let s1 := xor3 (rotr64 19 y) (rotr64 61 y) (y / 2 ^ 6)
  ((s1 + ws.getD 6 0 + s0 + ws.getD 15 0) % 2 ^ 64) :: ws

/-- The schedule of a block of 16 words. -/
def shaSchedule (block : List Nat) : List Nat := ((upto 64).foldl (fun ws _ => shaExtend ws) block.reverse).reverse

/-- One round with a constant and a schedule word. -/
def shaRound (s : List Nat) (kw : Nat × Nat) : List Nat :=
  match s with
  | [a, b, c, d, e, f, g, h] =>
    let ch := xorN (andN e f) (andN (2 ^ 64 - 1 - e) g)
    let t1 := h + xor3 (rotr64 14 e) (rotr64 18 e) (rotr64 41 e) + ch + kw.1 + kw.2
    let maj := xor3 (andN a b) (andN a c) (andN b c)
    let t2 := xor3 (rotr64 28 a) (rotr64 34 a) (rotr64 39 a) + maj
    [(t1 + t2) % 2 ^ 64, a, b, c, (d + t1) % 2 ^ 64, e, f, g]
  | _ => s

/-- A block of 128 bytes taken into the hash value. -/
def shaBlock (s : List Nat) (block : List Byte) : List Nat :=
  let ws := (upto 16).map fun i => beAt block (8 * i) 8
  List.zipWith (fun a b => (a + b) % 2 ^ 64) s ((shaK.zip (shaSchedule ws)).foldl shaRound s)

/-- The blocks of a padded message. -/
def shaBlocks : Nat → List Nat → List Byte → List Nat
  | 0, s, _ => s
  | n + 1, s, bs => shaBlocks n (shaBlock s (bs.take 128)) (bs.drop 128)

/-- SHA-512: the 64 bytes of the digest. -/
def sha512 (bs : List Byte) : List Byte :=
  let zeros := (239 - bs.length % 128) % 128
  let padded := bs ++ [0x80#8] ++ List.replicate zeros 0 ++ toBE 16 (bs.length * 8)
  (shaBlocks (padded.length / 128) shaInit padded).flatMap (toBE 8)

/-! Ed25519. -/

/-- The field prime, the group order and the curve constant. -/
def edP : Nat := 2 ^ 255 - 19
def edL : Nat := 2 ^ 252 + 27742317777372353535851937790883648493
def edD : Nat := 37095705934669439343138083508754565189542113879843219016388785533085940283555

/-- b to the power e in the field, over the bits of e below n. -/
def edPow (b : Nat) : Nat → Nat → Nat
  | 0, _ => 1
  | n + 1, e =>
    let h := edPow (b * b % edP) n (e / 2)
    if e % 2 = 1 then h * b % edP else h

/-- A point in extended coordinates. -/
structure EdPoint where
  x : Nat
  y : Nat
  z : Nat
  t : Nat

/-- The neutral element. -/
def edZero : EdPoint := ⟨0, 1, 1, 0⟩

/-- The sum of two points. -/
def edAdd (p q : EdPoint) : EdPoint :=
  let a := (p.y + edP - p.x) * (q.y + edP - q.x) % edP
  let b := (p.y + p.x) * (q.y + q.x) % edP
  let c := p.t * 2 * edD * q.t % edP
  let d := p.z * 2 * q.z % edP
  let e := (b + edP - a) % edP
  let f := (d + edP - c) % edP
  let g := (d + c) % edP
  let h := (b + a) % edP
  ⟨e * f % edP, g * h % edP, f * g % edP, e * h % edP⟩

/-- A multiple of a point, over the bits of k below n. -/
def edMul (p : EdPoint) : Nat → Nat → EdPoint
  | 0, _ => edZero
  | n + 1, k =>
    let h := edMul (edAdd p p) n (k / 2)
    if k % 2 = 1 then edAdd h p else h

/-- The x coordinate of a point of given y and sign, if there is one. -/
def edRecover (y sign : Nat) : Option Nat :=
  let u := (y * y + edP - 1) % edP
  let v := (edD * y % edP * y + 1) % edP
  let v3 := v * v % edP * v % edP
  let x := u * v3 % edP * edPow (u * (v3 * v3 % edP * v % edP) % edP) 256 ((edP - 5) / 8) % edP
  let x := if v * x % edP * x % edP = u then some x
    else if (v * x % edP * x + u) % edP = 0 then some (x * edPow 2 256 ((edP - 1) / 4) % edP) else none
  match x with
  | none => none
  | some x => if x = 0 ∧ sign = 1 then none else some (if x % 2 = sign then x else (edP - x) % edP)

/-- A point from its 32 bytes. -/
def edDecode (bs : List Byte) : Option EdPoint :=
  let n := leAt bs 0 32
  let y := n % 2 ^ 255
  if edP ≤ y then none else (edRecover y (n / 2 ^ 255)).map fun x => ⟨x, y, 1, x * y % edP⟩

/-- The base point: y is 4/5 and x even. -/
def edBase : EdPoint :=
  let y := 4 * edPow 5 256 (edP - 2) % edP
  let x := (edRecover y 0).getD 0
  ⟨x, y, 1, x * y % edP⟩

/-- Two points are equal. -/
def edEq (p q : EdPoint) : Bool := p.x * q.z % edP == q.x * p.z % edP && p.y * q.z % edP == q.y * p.z % edP

/-- A pure Ed25519 signature of 64 bytes over a message verifies under a public key of 32 bytes: 8SB = 8R + 8kA. -/
def edVerify (key msg sig : List Byte) : Bool :=
  let s := leAt sig 32 32
  match edDecode (slice sig 0 32), edDecode (slice key 0 32) with
  | some r, some a =>
    if edL ≤ s then false
    else
      let k := ofLE (sha512 (slice sig 0 32 ++ slice key 0 32 ++ msg)) % edL
      edEq (edMul (edMul edBase 256 s) 4 8) (edMul (edAdd r (edMul a 256 k)) 4 8)
  | _, _ => false

end Sys2Proof.Machine
end

