-- ==== Sys2Proof/Machine/Forward.lean ====
section
/-! DEFINITION. Forwarding of packets (04_forwarding.md R94 to R120): decisions at the head, next-hop groups, choice of a
member, and the packets the device originates (R486). -/

namespace Sys2Proof.Machine

/-! Opcodes (03 R78, Table 3-7; 01 Table 1-3). -/

/-- The VCs of an opcode and whether its length may be 0; none for a reserved opcode. -/
def opForm : Nat → Option (List Nat × Bool)
  | 0x10 | 0x11 | 0x14 => some ([2, 3], false)
  | 0x12 => some ([0], false)
  | 0x13 => some ([1], false)
  | 0x20 | 0x21 | 0x26 => some ([0], true)
  | 0x22 | 0x23 | 0x24 | 0x25 => some ([0], false)
  | 0x28 => some ([1], false)
  | 0x29 | 0x2A => some ([1], true)
  | 0x40 => some ([4], true)
  | 0x41 | 0x42 | 0x43 => some ([5], true)
  | 0x50 | 0x52 => some ([0], false)
  | 0x51 => some ([1], false)
  | 0x53 | 0x54 => some ([1], true)
  | 0x60 => some ([6], true)
  | 0x61 | 0x70 | 0x71 => some ([6], false)
  | 0x72 | 0x73 => some ([6], true)
  | 0x74 => some ([7], true)
  | _ => none

/-- The opcode has an engine on the device (Table 1-3). -/
def consumable (op : Nat) : Bool :=
  [0x11, 0x12, 0x13, 0x20, 0x21, 0x22, 0x23, 0x24, 0x25, 0x26, 0x28, 0x29, 0x2A, 0x40, 0x41, 0x42, 0x43, 0x50, 0x52,
    0x60, 0x70, 0x71, 0x72, 0x73, 0x74].contains op

/-- A memory opcode, never forwarded by route lookup (11 R293). -/
def memOp (op : Nat) : Bool := decide (0x20 ≤ op) && decide (op ≤ 0x2A)

/-- The device's identity on a die (R96). -/
def Dev.selfDid (d : Dev) (die : Nat) : Nat := d.rdF .plnFwdSelf die 19 0

/-- The link-local destination. -/
def linkLocal : Nat := 0xFFFFF

/-- The state of generation x on a die (Table 4-9): 0 IDLE, 1 LIVE, 2 DRAINING, 3 CURRENT. -/
def Dev.genState (d : Dev) (die x : Nat) : Nat := d.rdF .plnFwdGenStatus die (2 * x + 1) (2 * x)

/-! Drops (R120). -/

/-- The newest record of an origin with a code, w0 and w1. -/
def Dev.newestRecord (d : Dev) (origin code w0 w1 : Nat) : Option (Nat × Rec) :=
  d.rcd.slots.foldl (fun (a : Option (Nat × Rec)) e =>
    if e.2.origin = origin ∧ e.2.code = code ∧ e.2.w[0]? = some w0 ∧ e.2.w[1]? = some w1 then
      match a with
      | some (_, r) => if r.seq < e.2.seq then some e else a
      | none => some e
    else a) none

/-- One repeat more for the FWD_DROP event of a pipeline and reason in this bell: in its queue, or in the record it was
written to or folded into. An event that no record took gets none. -/
def Dev.fwdRepeat (d : Dev) (die pl r : Nat) : Dev :=
  let hit := fun (e : Event) => e.code == 0x0301 && e.w[0]? == some pl && e.w[1]? == some r
  let q := SMap.getD d.rcd.queues die []
  if q.any hit then
    let q' := q.map fun e => if hit e then { e with extra := e.extra + 1 } else e
    { d with rcd := { d.rcd with queues := SMap.put d.rcd.queues die [] q' } }
  else match d.newestRecord die 0x0301 pl r with
    | some (slot, x) =>
      if x.lastBell ≠ d.time.bell % 2 ^ 32 then d
      else
        let x' := { x with rep := min 65535 (x.rep + 1), flushed := false, wcount := (x.wcount + 2) % 2 ^ 16 }
        { d with rcd := { d.rcd with slots := SMap.insert slot x' d.rcd.slots } }
    | none => d

/-- FWD_DROP (R120): reasons FRAMING, UPDOWN and STALE_GEN offer one event in each bell. -/
def Dev.fwdEvent (d : Dev) (die pl r : Nat) (h : Held) : Dev :=
  if r = 4 ∨ r = 5 ∨ r = 6 then
    if d.fwd.offered.contains (pl, r) then d.fwdRepeat die pl r
    else
      let d := { d with fwd := { d.fwd with offered := (pl, r) :: d.fwd.offered } }
      let w2 := match h.lp with
        | some lp => lp
        | none => 2 ^ 31
      d.raise die 0x0301 sevWarning [pl, r, w2, h.pkt.did]
  else d

/-- A forwarding drop of reason r is counted in a pipeline (R94, R120). -/
def Dev.fwdCount (d : Dev) (h : Held) (r : Nat) : Dev :=
  let die := h.pl / 8
  (((d.bump .plnFwdDrop (h.pl * 10 + r)).ocu die 9 (h.tag h.lp) 1).fwdEvent die h.pl r h)

/-- Reasons of Table 4-10. -/
def rNoRoute : Nat := 0
def rRouteDrop : Nat := 1
def rNoLive : Nat := 2
def rHairpin : Nat := 3
def rFraming : Nat := 4
def rUpdown : Nat := 5
def rStaleGen : Nat := 6
def rHopLimit : Nat := 7
def rTtlExp : Nat := 8
def rPortDown : Nat := 9

/-! The candidate filter (R100, Table 4-6). -/

/-- A member of a group: its offset and what its entry says. -/
structure Cand where
  off : Nat
  tgt : Target

/-- The logical port is live and created (filter 1). -/
def Dev.lpLive (d : Dev) (lp : Nat) : Bool := d.rdB .plnFwdLpStatus lp 0 && d.created lp

/-- The role of a port: 0 DOWN, 1 UP, 2 PEER (R107). -/
def Dev.role (d : Dev) (lp : Nat) : Nat := d.rdF .plnFwdLpCfg lp 1 0

/-- The up/down rule lets a packet that entered on `lp` (none: as on a DOWN port) leave through `out` (R107). -/
def Dev.updownOk (d : Dev) (lp : Option Nat) (out : Nat) : Bool :=
  match lp with
  | some i => d.role i == 0 || d.role out == 0
  | none => true

/-- The port's framing can carry the packet (filter 3). -/
def Dev.framingOk (d : Dev) (h : Held) (out : Nat) : Bool := h.frame.isSome || h.pkt.op == 0x14 || !d.isEth out

/-- The members that pass every filter, or the reason of the filter that leaves none. -/
def Dev.filterCands (d : Dev) (h : Held) (cs : List Cand) : Nat ⊕ List Cand :=
  let a := cs.filter fun c => d.lpLive c.tgt.lp
  if a.isEmpty then .inl rNoLive
  else
    let b := a.filter fun c => h.lp != some c.tgt.lp
    if b.isEmpty then .inl rHairpin
    else
      let e := b.filter fun c => d.framingOk h c.tgt.lp
      if e.isEmpty then .inl rFraming
      else
        let f := e.filter fun c => d.updownOk h.lp c.tgt.lp
        if f.isEmpty then .inl rUpdown else .inr f

/-! Choosing one member (R102 to R106). -/

/-- The native hash tuple (Table 4-7). -/
def nativeTuple (p : Pkt) : List Byte :=
  toBE 4 p.did ++ toBE 4 p.sid ++ toBE 2 p.tenant ++ toBE 2 p.flow ++ toBE 1 p.tclass ++ toBE 3 0

/-- The hash of a tuple on a die (R104). -/
def Dev.hash (d : Dev) (die : Nat) (bs : List Byte) : Nat := crc32cSeed (d.rdN .plnFwdHashSeed die) bs

/-- pick_hash (R104): among a group's count and its eligible members. -/
def pickHash (count : Nat) (cs : List Cand) (h : Nat) : Option Cand :=
  let i := h % 65536 * count / 65536
  match cs.find? fun c => c.off == i with
  | some c => some c
  | none => cs[h / 65536 * cs.length / 65536]?

/-- The cost of a member for spraying (R105). -/
def Dev.sprayCost (d : Dev) (die vc lp : Nat) : Nat :=
  let s := d.rd .plnFwdSpray die
  let q := min 255 (d.queuedSeen die lp vc / 2 ^ fld s 3 0)
  let c := if d.isEth lp then 0 else 15 - min 15 (d.rdF .plnLnkCrdAvail (lp * 8 + vc) 16 0 / 2 ^ fld s 19 16)
  q + fld s 11 8 * c

/-- The first candidate of least cost. -/
def minCost (cost : Cand → Nat) : List Cand → Option Cand
  | [] => none
  | c :: cs =>
    match minCost cost cs with
    | some b => if cost c ≤ cost b then some c else some b
    | none => some c

/-- The key of last[x][g] of a pipeline. -/
def lastKey (pl x g : Nat) : Nat := (pl * 2 + x) * 65536 + g

/-- pick_spray (R105). -/
def Dev.pickSpray (d : Dev) (h : Held) (x g count : Nat) (cs : List Cand) (hash : Nat) : Dev × Option Cand :=
  let r := lfsrStep (SMap.getD d.fwd.lfsr h.pl 1)
  let d := { d with fwd := { d.fwd with lfsr := SMap.insert h.pl r d.fwd.lfsr } }
  let k := lastKey h.pl x g
  let offs := [SMap.getD d.fwd.last k 0, r % 65536 * count / 65536, r / 65536 * count / 65536]
  let cand := offs.filterMap fun o => if o < count then cs.find? fun c => c.off == o else none
  let best := match minCost (fun c => d.sprayCost h.die h.pkt.vc c.tgt.lp) cand with
    | some c => some c
    | none => pickHash count cs hash
  match best with
  | some c => ({ d with fwd := { d.fwd with last := SMap.put d.fwd.last k 0 c.off } }, some c)
  | none => (d, none)

/-- Choice by flowlet (R106). -/
def Dev.pickFlowlet (d : Dev) (h : Held) (x g count : Nat) (cs : List Cand) (hash : Nat) : Dev × Option Cand :=
  let k := h.pl * 65536 + hash % 65536
  let gap := d.rdF .plnFwdFlowlet h.die 15 0 * 64 * nsUnit
  let reuse := match SMap.find? d.fwd.flowlets k with
    | some f => if f.gen = x ∧ f.group = g ∧ d.time.now - f.time < gap then cs.find? fun c => c.off == f.offset else none
    | none => none
  let (d, best) := match reuse with
    | some c => (d, some c)
    | none => d.pickSpray h x g count cs hash
  match best with
  | some c =>
    ({ d with fwd := { d.fwd with flowlets := SMap.insert k ⟨x, g, c.off, d.time.now⟩ d.fwd.flowlets } }, some c)
  | none => (d, none)

/-- The flowlet table of a pipeline is cleared (R106). -/
def Dev.flushFlowlets (d : Dev) (pl : Nat) : Dev :=
  { d with fwd := { d.fwd with flowlets := SMap.keep d.fwd.flowlets fun k => k / 65536 != pl } }

/-- FLUSH_FLOWLETS: PLN_FWD_CTRL.flush_flowlets of a pipeline. -/
def execFlushFlowlets (who : Partner) (pl : Fin 64) (s : State) : Host.Outcome State Fault Refusal :=
  .next (s.on fun d => d.ctl who (regOffset .plnFwdCtrl pl) fun d => d.flushFlowlets pl)

/-- What a lookup finds: targets in service, and whether the group is MCAST. -/
structure Found where
  targets : List Target
  mcast : Bool

/-- A port takes packets: it is in service, and its live bit does not wait to be cleared (R118). -/
def Dev.takes (d : Dev) (lp : Nat) : Bool := d.inService lp && !(d.port lp).leaving

/-- Targets whose port is out of service, or has left it since the last bell, are dropped, PORT_DOWN (R118). -/
def Dev.inServiceOnly (d : Dev) (h : Held) (ts : List Target) : Dev × List Target :=
  (ts.foldl (fun d t => if d.takes t.lp then d else d.fwdCount h rPortDown) d,
   ts.filter fun t => d.takes t.lp)

/-- Steps 8 and 9 of Table 4-1 for group g of generation x: a reason, or the targets. -/
def Dev.throughGroup (d : Dev) (h : Held) (x g hash : Nat) : Dev × (Nat ⊕ Found) :=
  let bad := d.entBad h.die 1 x 0 g
  let d := if bad then d.perr h.die 1 0 g else d
  let grp := d.group x g
  let offs := if bad then [] else upto grp.count
  let badM := offs.filter fun o => d.entBad h.die 2 x 0 (grp.base + o)
  let d := badM.foldl (fun d o => d.perr h.die 2 0 (grp.base + o)) d
  let cs : List Cand := (offs.filter fun o => !badM.contains o).map fun o => ⟨o, d.member x (grp.base + o)⟩
  match d.filterCands h cs with
  | .inl r => (d, .inl r)
  | .inr cs =>
    if grp.mcast then
      let (d, ts) := d.inServiceOnly h (cs.map fun c => c.tgt)
      (d, .inr ⟨ts, true⟩)
    else
      let spray := grp.sprayOk && (match h.frame with
        | none => h.pkt.spray && decide (h.pkt.vc ≤ 5)
        | some _ => match h.lp with
          | some lp => d.rdB .plnFwdLpCfg lp 2
          | none => false)
      let (d, c) := if spray then d.pickSpray h x g grp.count cs hash
        else if h.frame.isSome then d.pickFlowlet h x g grp.count cs hash
        else (d, pickHash grp.count cs hash)
      match c with
      | some c =>
        let (d, ts) := d.inServiceOnly h [c.tgt]
        (d, .inr ⟨ts, false⟩)
      | none => (d, .inl rNoLive)

/-- Steps 6 to 9: longest-prefix lookup of an address of a kind in generation x. -/
def Dev.throughRoute (d : Dev) (h : Held) (x kind addr hash : Nat) : Dev × (Nat ⊕ Found) :=
  match d.route x kind addr with
  | none => (d, .inl rNoRoute)
  | some (slot, data) =>
    if d.entBad h.die 0 x 0 slot then (d.perr h.die 0 0 slot, .inl rNoRoute)
    else if bits data 31 30 = 1 then (d, .inl rRouteDrop)
    else d.throughGroup h x (bits data 15 0) hash

/-- Steps 4 to 9 for a native packet (Table 4-1). -/
def Dev.lookupNative (d : Dev) (h : Held) : Dev × (Nat ⊕ Found) :=
  if d.genState h.die h.pkt.gen = 0 then (d, .inl rStaleGen)
  else if h.pkt.hops ≥ 14 then (d, .inl rHopLimit)
  else d.throughRoute h h.pkt.gen 0 h.pkt.did (d.hash h.die (nativeTuple h.pkt))

/-! Packets the device originates (R486, 06 R156, R175). -/

/-- The flow label of a packet that die `die` originates on VC0 to VC5 (06 R175). -/
def dieFlow (die flow : Nat) : Nat := die * 2 ^ 13 + flow % 2 ^ 13

/-- The limiter of a flow on a die. -/
def Dev.limiter (d : Dev) (die : Nat) (p : Pkt) : Option Limiter :=
  (SMap.getD d.keep.limiters die []).find? fun l => l.did == p.did && l.flow == p.flow && l.vc == p.vc

/-- A packet passes its limiter: the next may pass once its bytes have taken their time at rate R. -/
def Dev.limiterPass (d : Dev) (die bytes : Nat) (p : Pkt) : Dev :=
  let f := fun (l : Limiter) => if l.did = p.did ∧ l.flow = p.flow ∧ l.vc = p.vc then
    { l with next := max d.time.now l.next + bytes * 8 * nsUnit / (max 1 l.rate) } else l
  { d with keep := { d.keep with limiters := SMap.modify d.keep.limiters die [] (·.map f) } }

/-- A limiter holds the packet back now. -/
def Dev.limiterHolds (d : Dev) (die : Nat) (p : Pkt) : Bool :=
  match d.limiter die p with
  | some l => decide (d.time.now < l.next)
  | none => false

/-- The logical port a flow last used (06 R175). -/
def Dev.flowUsed (d : Dev) (die : Nat) (p : Pkt) (lp : Nat) : Dev :=
  let f := fun (fs : List FlowPort) => ⟨p.did, p.flow, p.vc, lp⟩ ::
    fs.filter fun x => !(x.did == p.did && x.flow == p.flow && x.vc == p.vc)
  { d with keep := { d.keep with flows := SMap.modify d.keep.flows die [] f } }

/-- The record of a packet that the device originates: written whole before it is enqueued (06 R165). -/
def ownHeld (u : Unsent) : Held :=
  { pkt := u.pkt, lp := none, die := u.die, pl := u.die * 8, done := true, targets := u.targets, mcast := u.mcast,
    stamp := u.stamp }

/-- The packet's targets: its named port, or what the lookup finds; none where it is dropped. -/
def Dev.lookOwn (d : Dev) (u : Unsent) : Dev × Option Unsent :=
  if u.looked then (d, some u)
  else match u.via with
    | some lp =>
      let (d, ts) := d.inServiceOnly (ownHeld u) [⟨lp, ⟨0, 0, 0, 0⟩⟩]
      (d, if ts.isEmpty then none else some { u with looked := true, targets := ts })
    | none =>
      match d.lookupNative (ownHeld u) with
      | (d, .inl r) => ((d.fwdCount (ownHeld u) r).page u.pkt.tenant tDropped 1, none)
      | (d, .inr f) =>
        let u := { u with looked := true, targets := f.targets, mcast := f.mcast, pkt := { u.pkt with hops := u.pkt.hops + 1 } }
        (d, if f.targets.isEmpty then none else some u)

/-- An engine's packet tries to enter the Keep, into its reservation if it has one; it is held while its flow is paced
(06 R175) and while it cannot enter (Table 6-2). -/
def Dev.trySend (d : Dev) (u : Unsent) : Dev × Option Unsent :=
  if u.pkt.vc ≤ 5 && d.limiterHolds u.die u.pkt then (d, some u)
  else
    let (d, o) := d.lookOwn u
    match o with
    | none => (d.unreserve u.resv, none)
    | some u =>
      let h := { ownHeld u with resv := u.resv }
      let (d, v) := d.admitCheck h true
      let enter := fun (d : Dev) (h : Held) (f : Dev → Nat → Held → Dev) =>
        let (pid, d) := d.newHeld h
        let d := f d pid h
        let d := if u.pkt.vc ≤ 5 then d.limiterPass u.die (cellsOf u.pkt.len * 64) u.pkt else d
        match u.targets with
        | t :: _ => if u.pkt.vc ≤ 5 then d.flowUsed u.die u.pkt t.lp else d
        | [] => d
      match v with
      | .take p ts => (enter d h fun d pid h => d.keepIn pid h p .no ts, none)
      | .spill ts => (enter d h fun d pid h => d.spillIn pid h ts, none)
      | .wait => (d, some u)
      | .drop _ => (d.unreserve u.resv, none)

/-- A packet of an engine goes behind those that the engines of its die hold: of its own flow always, and of its VC unless
it has a reservation, but for packets that are only paced. -/
def Dev.sendsBehind (d : Dev) (u : Unsent) : Bool :=
  d.keep.unsent.any fun x => x.die == u.die && x.pkt.vc == u.pkt.vc &&
    ((x.pkt.did == u.pkt.did && x.pkt.flow == u.pkt.flow) ||
      (u.resv.pool == .none && x.resv.pool == .none && !d.limiterHolds x.die x.pkt))

/-- A packet handed over by an engine is sent, or held until it can be. -/
def Dev.engineSends (d : Dev) (u : Unsent) : Dev :=
  let hold := fun (d : Dev) (u : Unsent) => { d with keep := { d.keep with unsent := d.keep.unsent ++ [u] } }
  if d.sendsBehind u then hold d u
  else match d.trySend u with
    | (d, some u) => hold d u
    | (d, none) => d

/-- A packet built by the device on a die: its generation and flow label are set; without an identity only replies to
link-local requests are sent (R96, R486). -/
def Dev.originate (d : Dev) (die : Nat) (p : Pkt) (via : Option Nat) (reply stamp : Bool) (resv : Resv) : Dev :=
  if d.selfDid die = 0 && !reply then d.unreserve resv
  else
    let p := { p with gen := d.rdF .plnFwdGen die 0 0, hops := 0,
                      flow := if p.vc ≤ 5 then dieFlow die p.flow else p.flow, len := p.payload.length }
    d.engineSends ⟨die, p, via, false, [], false, stamp, 0, resv⟩

/-- The oldest packet that engines of a die hold on a VC, and that is not only paced, tries again. -/
def Dev.retryUnsent (d : Dev) (die vc : Nat) : Dev :=
  let mine := fun (x : Unsent) => x.die == die && x.pkt.vc == vc && !(decide (vc ≤ 5) && d.limiterHolds die x.pkt)
  match d.keep.unsent.find? mine with
  | none => d
  | some u =>
    let i := d.keep.unsent.findIdx mine
    match d.trySend u with
    | (d, some u) => { d with keep := { d.keep with unsent := setAt d.keep.unsent i u } }
    | (d, none) => { d with keep := { d.keep with unsent := d.keep.unsent.eraseIdx i } }

/-! Congestion echo (06 R173, R174). -/

/-- The CONG_ECHO of Table 6-4 is sent on the die that coalesced it. -/
def Dev.sendEcho (d : Dev) (die : Nat) (e : EchoEnt) : Dev :=
  let p : Pkt := { op := 0x72, vc := 6, did := e.sid, sid := d.selfDid die, tenant := e.tenant, flow := e.flow,
                   tclass := e.tclass, opf := min 65535 e.count * 2 ^ 48 + e.vc * 2 ^ 45 }
  if d.selfDid die = 0 then d else (d.originate die p none false false {}).bump .kepEchoTx die

/-- The device consumes a marked packet (R174): echoed at once with interval 0 or a full table, else coalesced. -/
def Dev.echoMark (d : Dev) (die : Nat) (p : Pkt) : Dev :=
  let es := SMap.getD d.keep.echoes die []
  let same := fun (e : EchoEnt) => e.sid == p.sid && e.flow == p.flow && e.vc == p.vc
  let put := fun (es : List EchoEnt) => { d with keep := { d.keep with echoes := SMap.put d.keep.echoes die [] es } }
  if d.rdF .kepEchoCfg die 15 0 = 0 then d.sendEcho die ⟨p.sid, p.flow, p.vc, p.tenant, p.tclass, 1⟩
  else if es.any same then put (es.map fun e => if same e then { e with count := e.count + 1 } else e)
  else if es.length ≥ 1024 then d.sendEcho die ⟨p.sid, p.flow, p.vc, p.tenant, p.tclass, 1⟩
  else put (es ++ [⟨p.sid, p.flow, p.vc, p.tenant, p.tclass, 1⟩])

/-- ECHO_INTERVAL: the interval of a die's oldest entry ends, and its echo is sent. -/
def execEchoInterval (die : Fin 8) (s : State) : Host.Outcome State Fault Refusal :=
  .next (s.on fun d =>
    match SMap.getD d.keep.echoes die [] with
    | [] => d
    | e :: es => ({ d with keep := { d.keep with echoes := SMap.put d.keep.echoes die [] es } }).sendEcho die e)

/-! Consumed packets (01 R20, 06 R169, R179). -/

/-- VC and cells of the largest answer to a request or contribution (R179): its die reserves them before it consumes. -/
def answerNeed (op : Nat) : Option (Nat × Nat) :=
  match op with
  | 0x20 => some (1, 2)
  | 0x21 | 0x22 | 0x23 | 0x24 | 0x25 | 0x26 => some (1, 1)
  | 0x12 | 0x50 => some (1, 69)
  | 0x52 => some (1, 1)
  | 0x40 => some (5, 1)
  | _ => none

/-- A PTP message in a native packet is of version 2. -/
def ptpV2 (bs : List Byte) : Bool := decide (34 ≤ bs.length) && beAt bs 1 1 % 16 == 2

/-- PTP_TO_BELFRY (02 R51): with ptp_client = 1 a version 2 message for the device's own clock goes to Belfry with its
receive time, and one of another version goes nowhere (assumption 42); with ptp_client = 0 each is discarded and counted. -/
def Dev.ptpToBelfry (d : Dev) (lp : Nat) (p : Pkt) (t : Nat) : Dev :=
  if !d.rdB .timCtrl 0 2 then d.bump .timPtpDrop 0
  else if ptpV2 p.payload then d.emit (.ptpIn lp p t) else d

/-- Packets that wake a die's compute domain (18 R456): ring-engine messages, COLL_UP, EMB_LOOKUP, EMB_UPDATE and
RING_DOORBELL. -/
def wakesDie (op : Nat) : Bool := [0x11, 0x12, 0x13, 0x40, 0x50, 0x52, 0x60].contains op

/-- A whole good packet goes to its engine. -/
def Dev.handOff (d : Dev) (pid : Nat) : Dev :=
  match d.held pid with
  | none => d
  | some h =>
    let lp := h.lp.getD 0
    let d := d.dropHeld pid
    let d := if h.pkt.ce then d.echoMark h.die h.pkt else d
    let d := if wakesDie h.pkt.op then d.touch (2112 + h.die) else d
    if h.pkt.op = 0x71 then d.ptpToBelfry lp h.pkt h.tin
    else
      let x : Handed := { lp := lp, pkt := h.pkt, resv := h.resv, seq := pid, cells := h.staged, win := h.win }
      { d with keep := { d.keep with handed := d.keep.handed ++ [x] } }

/-- A packet handed over is this one. -/
def Handed.isFor (x : Handed) (lp : Nat) (p : Pkt) : Bool := x.lp == lp && decide (x.pkt = p)

/-- An engine's command takes its packet from those handed over. -/
def Dev.takeHanded (d : Dev) (lp : Nat) (p : Pkt) : Dev × Handed :=
  match d.keep.handed.find? fun x => x.isFor lp p with
  | none => (d, { lp := lp, pkt := p, resv := {} })
  | some x =>
    ({ d with keep := { d.keep with handed := d.keep.handed.eraseIdx (d.keep.handed.findIdx fun x => x.isFor lp p) } }, x)

/-- The same, with what is reserved for the answer only. -/
def Dev.take (d : Dev) (lp : Nat) (p : Pkt) : Dev × Resv := ((d.takeHanded lp p).1, (d.takeHanded lp p).2.resv)

/-- A VC0 packet handed over waits behind an older head of its port that is held for the order of memory requests
(11 R305). -/
def Dev.behindHeld (d : Dev) (lp : Nat) (p : Pkt) : Bool :=
  match d.keep.handed.find? fun x => x.isFor lp p with
  | some x => p.vc == 0 && d.mem.waiting.any fun w => w.lp == lp && decide (w.seq < x.seq)
  | none => false

/-- The command of a VC0 packet takes effect unless an older head of its port is held (11 R305). -/
def vc0Order (lp : Nat) (p : Pkt) (f : State → State) (s : State) : State := if s.dev.behindHeld lp p then s else f s

/-- The cells of a request held in staging leave it. -/
def Dev.unstageReq (d : Dev) (h : Handed) : Dev :=
  if h.cells = 0 then d else (d.poolMove (lpDie h.lp) .staging (· - h.cells)).owe h.lp h.pkt.vc h.cells

/-- The die that holds ring r, and the group g (00 Table 0-4). -/
def ringDie (r : Nat) : Nat := r / 2048 % 8
def groupDie (g : Nat) : Nat := g / 1024 % 8

/-- The counter of a consumed packet that ends ABORT or fails its CRC (Table 6-8); ring and group as their chapters place
them in the opfield. -/
def Dev.discardCount (d : Dev) (die : Nat) (p : Pkt) : Dev :=
  if memOp p.op then d.bump .memDiscard die
  else if p.op = 0x50 ∨ p.op = 0x52 then d.bump .embDiscard die
  else if p.op = 0x40 ∨ p.op = 0x41 ∨ p.op = 0x43 ∨ p.op = 0x74 then d.bump .colDiscard (groupDie (p.opf / 2 ^ 51))
  else if p.op = 0x60 then d.bump .rngDbReject (ringDie (p.opf / 2 ^ 50))
  else if p.op = 0x11 ∨ p.op = 0x12 ∨ p.op = 0x13 then d.bump .rngMsgDrop die
  else if p.op = 0x70 then d.bump .hubMbxMctpDrop 0
  else d

/-- The die whose engine answers a packet: for a contribution, the home die of its group. -/
def answerDie (h : Held) : Nat := if h.pkt.op = 0x40 then groupDie (h.pkt.opf / 2 ^ 51) else h.die

/-- A head for an engine: consumed once its answer is reserved, else it waits in staging (R179). The window of a memory
request is matched here, once (11 R286), and its cells stay in staging until the memory fabric takes it (11 R305). -/
def Dev.consume (d : Dev) (pid : Nat) : Dev :=
  match d.held pid with
  | none => d
  | some h =>
    let (d, h) := if memReq h.pkt.op && h.win.isNone then
        let (d, w) := d.windowOf h.die h.pkt
        (d, { h with win := some w })
      else (d, h)
    let go := fun (d : Dev) (r : Resv) =>
      let d := d.putHeld pid { h with phase := .engine, resv := r }
      let d := if memReq h.pkt.op then d else d.unstage pid
      if h.done then d.handOff pid else d
    match answerNeed h.pkt.op with
    | none => go d {}
    | some (v, n) =>
      match d.reserve (answerDie h) v n with
      | some (d, r) => go d r
      | none => d.putHeld pid { h with phase := .waitEngine }

/-! Head lookup of a native packet (R94). -/

/-- A malformed packet is dropped and counted (03 R75). -/
def Dev.malformed (d : Dev) (pid : Nat) (h : Held) : Dev :=
  let d := match h.lp with
    | some lp => d.bump .plnLnkMalformed lp
    | none => d
  (d.rxDrop h).forget pid

/-- Conditions of Table 3-6 detected at the head, but for a length of 0. -/
def headFormBad (h : Held) : Bool :=
  let p := h.pkt
  (match opForm p.op with
   | none => true
   | some (vcs, _) => !vcs.contains p.vc) ||
  decide (p.len > 4096) || p.tenant == 0xFFFF || p.did == 0 ||
  (match h.solo with
   | some v => v != p.len || decide (p.len > 32)
   | none => decide (p.len ≤ 32))

/-- A length of 0 where Table 3-7 says No. -/
def headLenBad (p : Pkt) : Bool :=
  match opForm p.op with
  | none => true
  | some (_, zero) => p.len == 0 && !zero

/-- Conditions of Table 3-6 detected at the head. -/
def headMalformed (h : Held) : Bool := headFormBad h || headLenBad h.pkt

/-- The answer to a get that failed (03 R81): a MSG_GET_RSP of length 0 that ends ABORT is no malformed packet
(assumption 78). -/
def failedGet (h : Held) (fin : Nat) : Bool := !headFormBad h && h.pkt.op == 0x13 && h.pkt.len == 0 && fin != 0

/-- The packet is for an engine of its die (Table 4-1, steps 2 and 3). -/
def Dev.forEngine (d : Dev) (h : Held) : Bool :=
  (h.pkt.did == linkLocal || h.pkt.did == d.selfDid h.die || memOp h.pkt.op) && consumable h.pkt.op

/-- One meter of the policer table (07 R198): the colour, buckets and red count. -/
def Dev.meter (d : Dev) (pl idx n : Nat) (col : Colour) : Dev × Colour :=
  let idx := idx % 4096
  let w0 := d.entW 5 0 pl idx 0
  if d.entBad (pl / 8) 5 0 pl idx then (d.meets (pl / 8) 5 0 pl idx, col)
  else if !bit w0 31 then (d, col)
  else
    let (c, p) := d.polBuckets pl idx
    let b : Int := (n * byteUnit : Nat)
    let col := if bit w0 29 then col else .green
    let (c', p', out) : Bucket × Bucket × Colour :=
      if !bit w0 30 then
        if col = .red ∨ p.tok < b then (c, p, .red)
        else if col = .yellow ∨ c.tok < b then (c, p.take n, .yellow)
        else (c.take n, p.take n, .green)
      else if col = .green ∧ b ≤ c.tok then (c.take n, p, .green)
      else if col ≠ .red ∧ b ≤ p.tok then (c, p.take n, .yellow)
      else (c, p, .red)
    let k := pl * 4096 + idx
    let d := { d with sch := { d.sch with metC := SMap.insert k c' d.sch.metC, metP := SMap.insert k p' d.sch.metP } }
    let red := d.entW 5 0 pl idx 7
    (if out = .red then d.putEntW 5 0 pl idx 7 (min 0xFFFFFFFF (red + 1)) else d, out)

/-- METER (07 R196, R197): the class meter, then the aggregate meter, of the ingress port. -/
def Dev.meterPort (d : Dev) (lp tclass n : Nat) (col : Colour) : Dev × Colour :=
  let cfg := d.rd .plnPolLpCfg lp
  let pl := lpPl lp
  let (d, col) := if wbit cfg 31 then d.meter pl (fld cfg 11 0 + tclass) n col else (d, col)
  let (d, col) := if wbit cfg 30 then d.meter pl (fld cfg 27 16) n col else (d, col)
  match col with
  | .green => (d.bump .plnPolGreen pl, col)
  | .yellow => (d.bump .plnPolYellow pl, col)
  | .red => (d.bump .plnPolRed pl, col)

/-- What the lookup found is admitted, or its drop is counted. -/
def Dev.decided (d : Dev) (pid : Nat) (h : Held) (r : Nat ⊕ Found) : Dev :=
  match r with
  | .inl r => ((d.fwdCount h r).rxDrop h).forget pid
  | .inr f =>
    if f.targets.isEmpty then (d.rxDrop h).forget pid
    else (d.putHeld pid { h with targets := f.targets, mcast := f.mcast }).admission pid

/-- The decisions of Table 4-1 for a packet. -/
def Dev.nativeHead (d : Dev) (pid : Nat) (h : Held) : Dev :=
  if headMalformed h then d.malformed pid h
  else
    let d := d.ocu h.die 8 (h.tag h.lp) 1
    let own := h.pkt.did == linkLocal || h.pkt.did == d.selfDid h.die
    let (d, h) := match h.lp with
      | some lp =>
        if h.pkt.vc = 2 ∨ h.pkt.vc = 3 then
          let (d, c) := d.meterPort lp h.pkt.tclass (cellsOf h.pkt.len * 64) .green
          (d, { h with colour := c })
        else (d, h)
      | none => (d, h)
    let d := d.putHeld pid h
    if own || memOp h.pkt.op then
      if consumable h.pkt.op then d.consume pid else d.malformed pid h
    else match d.lookupNative h with
      | (d, .inl r) => d.decided pid h (.inl r)
      | (d, .inr f) => d.decided pid { h with pkt := { h.pkt with hops := h.pkt.hops + 1 } } (.inr f)

/-- The oldest packet of a port and VC in a phase. -/
def Dev.oldest (d : Dev) (lp vc : Nat) (p : Phase → Bool) : Option (Nat × Held) :=
  d.keep.pkts.find? fun e => e.2.lp == some lp && e.2.pkt.vc == vc && p e.2.phase

/-- A head of the port is held for the order of memory requests: every later VC0 packet waits behind it (11 R305). -/
def Dev.heldBehind (d : Dev) (lp vc : Nat) : Bool := vc == 0 && d.mem.waiting.any fun h => h.lp == lp

/-- HEAD_LOOKUP: the oldest head of a port and VC, unless one before it waits in staging (R157). -/
def Dev.headLookup (d : Dev) (lp vc : Nat) : Dev :=
  if d.heldBehind lp vc then d else
  match d.oldest lp vc fun p => p == Phase.head || p == Phase.wait || p == Phase.waitEngine with
  | some (pid, h) => if h.phase = .head then d.nativeHead pid h else d
  | none => d

/-- HEAD_LOOKUP. -/
def execHeadLookup (lp : Fin 2048) (vc : Fin 8) (s : State) : Host.Outcome State Fault Refusal :=
  .next (s.on fun d => d.headLookup lp vc)

/-- ADMISSION_RECHECK (06 R157): the waiting head of a port and VC is checked again, and so is the oldest packet that an
engine of the die holds on the VC. -/
def Dev.recheck (d : Dev) (lp vc : Nat) : Dev :=
  let d := match d.oldest lp vc fun p => p == Phase.wait || p == Phase.waitEngine with
    | some (pid, h) => if d.heldBehind lp vc then d else if h.phase = Phase.wait then d.admission pid else d.consume pid
    | none => d
  d.retryUnsent (lpDie lp) vc

/-! Generations (R112). -/

/-- One generation's state as a committed PLN_FWD_GEN makes it. -/
def genNext (old : Nat) (current live : Bool) : Nat :=
  if current then 3 else if live then 1 else if old = 1 ∨ old = 3 then 2 else old

/-- GEN_FLIP: step 2 of a bell at which PLN_FWD_GEN was committed (R112). -/
def Dev.genFlip (d : Dev) (die : Nat) : Dev :=
  let cur := d.rdF .plnFwdGen die 0 0
  let live := d.rdB .plnFwdGen die 1
  let o0 := d.genState die 0
  let o1 := d.genState die 1
  let n0 := genNext o0 (cur == 0) (cur == 1 && live)
  let n1 := genNext o1 (cur == 1) (cur == 0 && live)
  let starts := (n0 = 2 ∧ o0 ≠ 2) ∨ (n1 = 2 ∧ o1 ≠ 2)
  let drains := n0 = 2 ∨ n1 = 2
  let left := if starts then d.rdF .plnFwdGenDrain die 15 0 else if drains then d.rdF .plnFwdGenStatus die 31 16 else 0
  d.wr .plnFwdGenStatus die (word (left * 2 ^ 16 + n1 * 4 + n0))

/-- The drain of a die ends: the draining generation becomes IDLE. -/
def Dev.drainEnd (d : Dev) (die : Nat) : Dev :=
  let s0 := d.genState die 0
  let s1 := d.genState die 1
  d.wr .plnFwdGenStatus die (word ((if s1 = 2 then 0 else s1) * 4 + (if s0 = 2 then 0 else s0)))

/-- The drain count of a die falls by one at a bell after the flip. -/
def Dev.drainTick (d : Dev) (die : Nat) : Dev :=
  let n := d.rdF .plnFwdGenStatus die 31 16
  if n = 0 then d else if n = 1 then d.drainEnd die else d.wrF .plnFwdGenStatus die 31 16 (n - 1)

/-- GEN_DRAIN_END: drain_left reaches 0. -/
def execGenDrainEnd (die : Fin 8) (s : State) : Host.Outcome State Fault Refusal :=
  .next (s.on fun d => if d.genState die 0 = 2 ∨ d.genState die 1 = 2 then d.drainEnd die else d)

/-! Rate limiters (06 R175). -/

/-- KEP_LIM_CFG fields of a die. -/
def Dev.limMinRate (d : Dev) (die : Nat) : Nat := d.rdF .kepLimCfg die 11 0

/-- A CONG_ECHO for a die: it lowers or makes the flow's limiter. A flow that has sent nothing yet has no port that it
last used, so there is no R for its limiter, and none is made (DEDUCED, assumption 57). -/
def Dev.echoTaken (d : Dev) (die : Nat) (p : Pkt) : Dev :=
  let vc := bits p.opf 47 45
  let ls := SMap.getD d.keep.limiters die []
  let put := fun (d : Dev) (ls : List Limiter) => { d with keep := { d.keep with limiters := SMap.put d.keep.limiters die [] ls } }
  let same := fun (l : Limiter) => l.did == p.sid && l.flow == p.flow && l.vc == vc
  let lower := fun (r : Nat) => max (d.limMinRate die) (r - r / 2 ^ d.rdF .kepLimCfg die 31 28)
  let d := d.bump .kepEchoRx die
  if ls.any same then put d (ls.map fun l => if same l then { l with rate := lower l.rate, idle := 0 } else l)
  else if ls.length ≥ 4096 then d.bump .kepEchoNolim die
  else
    match (SMap.getD d.keep.flows die []).find? fun f => f.did == p.sid && f.flow == p.flow && f.vc == vc with
    | some f => put d (ls ++ [⟨p.sid, p.flow, vc, lower (d.rate f.lp), d.rate f.lp, 0, d.time.now⟩])
    | none => d

/-- CONG_ECHO for the device goes to die flow[15:13]. -/
def execCongEcho (lp : Fin 2048) (p : Pkt) (s : State) : Host.Outcome State Fault Refusal :=
  .next (s.on fun d => (d.take lp p).1.echoTaken (p.flow / 2 ^ 13 % 8) p)

/-- A limiter for which ai_bells bells have passed without an echo: its rate rises by ai_step, and it is freed at the port
rate. -/
def Dev.limRise (d : Dev) (die i : Nat) : Dev :=
  let ls := SMap.getD d.keep.limiters die []
  let n := d.rdF .kepLimCfg die 19 12
  match ls[i]? with
  | none => d
  | some l =>
    if l.idle < n then d
    else
      let r := l.rate + d.rdF .kepLimCfg die 27 20
      let ls := if l.portRate ≤ r then ls.eraseIdx i else setAt ls i { l with rate := r, idle := l.idle - n }
      { d with keep := { d.keep with limiters := SMap.put d.keep.limiters die [] ls } }

/-- LIMITER_INCREASE: ai_bells bells have passed without an echo for limiter i of a die (assumption 6). -/
def execLimiterIncrease (die : Fin 8) (i : Nat) (s : State) : Host.Outcome State Fault Refusal :=
  .next (s.on fun d => d.limRise die i)

/-- At each bell the bells without an echo of every limiter count one more (R175); LIMITER_INCREASE is what they bring. -/
def Dev.limBell (d : Dev) (die : Nat) : Dev :=
  let ls := (SMap.getD d.keep.limiters die []).map fun l => { l with idle := l.idle + 1 }
  { d with keep := { d.keep with limiters := SMap.put d.keep.limiters die [] ls } }

end Sys2Proof.Machine
end

