-- ==== Sys2Proof/Machine/RingCore.lean ====
section
/-! DEFINITION. Ring contexts, states and completions (13_rings_and_tenants.md R340 to R345, R349 to R357). -/

namespace Sys2Proof.Machine

/-! Contexts (Table 13-1). -/

/-- Word w of ring r's context. -/
def Dev.rw (d : Dev) (r w : Nat) : Nat := d.entW 9 0 (r / 2048) (r % 2048) w

/-- Field [hi:lo] of word w of a context. -/
def Dev.rf (d : Dev) (r w hi lo : Nat) : Nat := bits (d.rw r w) hi lo

/-- Field [hi:lo] of word w of a context takes the value v. -/
def Dev.setRf (d : Dev) (r w hi lo v : Nat) : Dev :=
  d.putEntW 9 0 (r / 2048) (r % 2048) w (putBits (d.rw r w) hi lo v)

def Dev.rValid (d : Dev) (r : Nat) : Bool := bit (d.rw r 0) 31 && !d.entBad (r / 2048) 9 0 (r / 2048) (r % 2048)
def Dev.rTenant (d : Dev) (r : Nat) : Nat := d.rf r 0 15 0
def Dev.rGrpEn (d : Dev) (r : Nat) : Bool := bit (d.rw r 0) 23
def Dev.rGroup (d : Dev) (r : Nat) : Nat := d.rf r 8 12 0
def Dev.sqLog2 (d : Dev) (r : Nat) : Nat := d.rf r 1 31 27
def Dev.cqLog2 (d : Dev) (r : Nat) : Nat := d.rf r 1 26 22
def Dev.rState (d : Dev) (r : Nat) : Nat := d.rf r 9 31 28
def Dev.rReclaimed (d : Dev) (r : Nat) : Bool := bit (d.rw r 9) 27
def Dev.sqHead (d : Dev) (r : Nat) : Nat := d.rf r 9 15 0
def Dev.sqTail (d : Dev) (r : Nat) : Nat := d.rf r 10 31 16
def Dev.cqTail (d : Dev) (r : Nat) : Nat := d.rf r 10 15 0
def Dev.cqHead (d : Dev) (r : Nat) : Nat := d.rf r 11 31 16

/-- States of Table 13-3. -/
def rIdle : Nat := 0
def rActive : Nat := 1
def rSuspending : Nat := 2
def rSuspended : Nat := 3
def rFaulted : Nat := 4
def rCancelling : Nat := 5
def rError : Nat := 6

def Dev.setRState (d : Dev) (r st : Nat) : Dev := d.setRf r 9 31 28 st
def Dev.setSqHead (d : Dev) (r v : Nat) : Dev := d.setRf r 9 15 0 v

/-- What a ring holds beside its context. -/
def Dev.ring (d : Dev) (r : Nat) : RingSt := SMap.getD d.rng.rings r {}
def Dev.setRing (d : Dev) (r : Nat) (x : RingSt) : Dev := { d with rng := { d.rng with rings := SMap.put d.rng.rings r {} x } }

/-- The armed operations of the ring's group that its descriptors armed. -/
def Dev.ringOps (d : Dev) (r : Nat) : List CollOp :=
  let g := d.rGroup r
  if d.rGrpEn r && bits (d.entW 8 0 (g / 1024) (g % 1024) 1) 13 0 == r then (SMap.getD d.col.groups g {}).armed else []

/-- Index arithmetic modulo 2^16 (R342). -/
def idxSub (a b : Nat) : Nat := (a + 2 ^ 16 - b) % 2 ^ 16
def idxAdd (a n : Nat) : Nat := (a + n) % 2 ^ 16

/-- The engine meets a ring's context, which is handled if it is bad (05 R125). -/
def Dev.ringMeets (d : Dev) (r : Nat) : Dev := d.meets (r / 2048) 9 0 (r / 2048) (r % 2048)

/-- The ring runs a loop (R345): a status that took it to ERROR has not ended it. -/
def Dev.rLoop (d : Dev) (r : Nat) : Bool := bit (d.rw r 0) 24 && d.rf r 7 15 0 != 0 && !(d.ring r).loopOver
def Dev.loopFirst (d : Dev) (r : Nat) : Nat := d.rf r 7 31 16
def Dev.loopLen (d : Dev) (r : Nat) : Nat := d.rf r 7 15 0

/-- sq_head stands in the ring's loop. -/
def Dev.inLoop (d : Dev) (r : Nat) : Bool := d.rLoop r && decide (idxSub (d.sqHead r) (d.loopFirst r) < d.loopLen r)

/-- A status of descriptor idx that takes the ring to ERROR ends the loop that the descriptor is in (R345). -/
def Dev.endLoop (d : Dev) (r idx : Nat) : Dev :=
  if d.rLoop r && decide (idxSub idx (d.loopFirst r) < d.loopLen r) then d.setRing r { d.ring r with loopOver := true, loopExit := false }
  else d

/-- Where the count of posted descriptors begins (R342). -/
def Dev.postedFrom (d : Dev) (r : Nat) : Nat := if d.inLoop r then d.loopFirst r else d.sqHead r

/-- Descriptors from sq_head on that are posted. -/
def Dev.left (d : Dev) (r : Nat) : Nat := idxSub (d.sqTail r) (d.sqHead r)

/-- Descriptors from sq_head on that have started: the one running or held, or the armed ones. -/
def Dev.started (d : Dev) (r : Nat) : Nat := b2n (d.ring r).run.isSome + (d.ringOps r).length

/-- Free completion entries, less the records that wait for one. -/
def Dev.cqFree (d : Dev) (r : Nat) : Nat :=
  2 ^ d.cqLog2 r - idxSub (d.cqTail r) (d.cqHead r) - (d.ring r).recs.length

/-- The HBM class of a ring's transfers (R344). -/
def Dev.ringCls (d : Dev) (r : Nat) : Nat := if d.rGrpEn r then 2 else 3

/-! Completion records (R352, R353, Table 13-6). -/

/-- Statuses of Table 13-7. -/
def sOk : Nat := 0
def sFaulted : Nat := 1
def sCancelled : Nat := 2
def sPreempted : Nat := 3
def sGroupBroken : Nat := 4
def sGroupTimeout : Nat := 5
def sNoSlots : Nat := 6
def sUncorr : Nat := 7
def sInvalid : Nat := 8
def sSuspended : Nat := 9
def sTileReset : Nat := 10

/-- Codes of an INVALID completion (Table 13-8). -/
def cKind : Nat := 16
def cField : Nat := 17
def cSpace : Nat := 18
def cTenant : Nat := 19
def cAlign : Nat := 20
def cRange : Nat := 21
def cState : Nat := 22

/-- The bytes of a record. -/
def Dev.recBytes (d : Dev) (r : Nat) (c : CRec) : List Byte :=
  toLE 4 (c.status * 2 ^ 24 + b2n c.final * 2 ^ 23 + d.rf r 9 26 26 * 2 ^ 22 + c.idx) ++
  toLE 4 (c.kind * 2 ^ 24 + c.code * 2 ^ 16) ++ toLE 4 (c.prog / 2 ^ 32) ++ toLE 4 c.prog ++
  toLE 4 (c.result / 2 ^ 32) ++ toLE 4 c.result ++ toLE 4 (d.rTenant r) ++ toLE 4 d.time.bell

/-- RING_EVENT and MSI-X after a record (R349). -/
def Dev.ringEvent (d : Dev) (r : Nat) (c : CRec) (bs : List Byte) : Dev :=
  let die := r / 2048
  let d :=
    if bit (d.rw r 1) 8 && (c.ev || c.status != sOk) then
      if (d.keep.unsent.filter fun u => u.die == die && u.pkt.op == 0x61).length ≥ 64 then d.bump .rngEventDrop die
      else d.originate die { op := 0x61, vc := 6, did := d.rf r 6 19 0, sid := d.selfDid die, tenant := d.rTenant r,
                             opf := r * 2 ^ 50, payload := bs } none false false {}
    else d
  if bit (d.rw r 1) 10 && (c.irq || c.status != sOk) then d.msix (d.rf r 1 9 9) (d.rf r 1 21 11) else d

/-- The counters of a record written. -/
def Dev.recCount (d : Dev) (r : Nat) (c : CRec) : Dev :=
  let die := r / 2048
  let t := d.rTenant r
  let d := if c.final then (d.bump64 .rngDescLo .rngDescHi die 1).page t tCompl 1 else d
  let d := if c.status = sFaulted then (d.bump .rngFaults die).page t tFaulted 1 else d
  if c.status = sInvalid then d.bump .rngInvalid die else d

/-- What the write of a record comes to: written, failed, or waiting for its class to run again (12 R330). -/
inductive PutRec where
  | done | failed | waits

/-- A record written to the completion ring (R352, R355). -/
def putRec (s : State) (r : Nat) (c : CRec) : State × PutRec :=
  let d := s.dev
  let tail := d.cqTail r
  let a := d.rw r 4 * 2 ^ 32 + d.rw r 5 + 32 * (tail % 2 ^ d.cqLog2 r)
  let bs := d.recBytes r c
  match spaceWrite s (r / 2048) (d.rf r 0 27 25) (d.rTenant r) a bs (d.ringCls r) with
  | (s, 0) =>
    (s.on fun d =>
      let d := d.setRf r 10 15 0 (idxAdd tail 1)
      let d := if (tail + 1) % 2 ^ d.cqLog2 r = 0 then d.setRf r 9 26 26 (1 - d.rf r 9 26 26) else d
      ((d.setRf r 15 31 24 c.code).recCount r c).ringEvent r c bs, .done)
  | (s, code) => (s, if code = cWait then .waits else .failed)

/-- held and progress of a context. -/
def Dev.hold (d : Dev) (r idx prog acc : Nat) : Dev :=
  let d := d.setRf r 11 15 0 idx
  let d := d.setRf r 12 31 0 (prog / 2 ^ 32)
  (d.setRf r 13 31 0 prog).setRf r 14 31 0 acc

/-- The write of a record failed (R355): an ACTIVE or SUSPENDING ring faults with RING_MEM, holding the record's descriptor
at its progress, and its FAULTED record waits behind; a ring that has stopped already keeps its state (Table 13-3;
DEDUCED, assumption 159). The write is repeated on RESUME or at a doorbell. -/
def Dev.recFailed (d : Dev) (r : Nat) (c : CRec) : Dev :=
  let d := d.setRf r 15 31 24 cRingMem
  if d.rState r = rActive ∨ d.rState r = rSuspending then
    let f : CRec := { c with status := sFaulted, final := false, code := cRingMem, result := 0 }
    ((d.hold r c.idx c.prog 0).setRState r rFaulted).setRing r { d.ring r with recs := (d.ring r).recs ++ [f] }
  else d

/-- Waiting records written while entries are free. -/
def flushRecs (s : State) (r : Nat) : Nat → State
  | 0 => s
  | n + 1 =>
    match (s.dev.ring r).recs with
    | [] => s
    | c :: t =>
      if idxSub (s.dev.cqTail r) (s.dev.cqHead r) ≥ 2 ^ s.dev.cqLog2 r then s
      else match putRec s r c with
        | (s, .done) => flushRecs (s.on fun d => d.setRing r { d.ring r with recs := t }) r n
        | (s, .failed) => s.on fun d => d.recFailed r c
        | (s, .waits) => s

/-- A record offered: written at once if none waits and an entry is free, else it waits and is counted (R353). -/
def addRec (s : State) (r : Nat) (c : CRec) : State :=
  let full := !(s.dev.ring r).recs.isEmpty || decide (idxSub (s.dev.cqTail r) (s.dev.cqHead r) ≥ 2 ^ s.dev.cqLog2 r)
  let s := if full then s.on fun d => d.bump .rngCqStall (r / 2048) else s
  let s := s.on fun d => d.setRing r { d.ring r with recs := (d.ring r).recs ++ [c] }
  flushRecs s r 64

/-! Descriptors (R341, R350). -/

/-- Word i of a descriptor. -/
def dw (desc : List Byte) (i : Nat) : Nat := leAt desc (4 * i) 4
/-- Its kind. -/
def dKind (desc : List Byte) : Nat := dw desc 0 / 2 ^ 24
/-- The 40-bit length (R350). -/
def dLen (desc : List Byte) : Nat := bits (dw desc 6) 7 0 * 2 ^ 32 + dw desc 7
/-- The source and destination addresses. -/
def dSrc (desc : List Byte) : Nat := dw desc 2 * 2 ^ 32 + dw desc 3
def dDst (desc : List Byte) : Nat := dw desc 4 * 2 ^ 32 + dw desc 5
/-- Their spaces. -/
def dSrcSp (desc : List Byte) : Nat := bits (dw desc 0) 21 19
def dDstSp (desc : List Byte) : Nat := bits (dw desc 0) 18 16

/-- irq and ev of a descriptor; bits [23:20] of a collective descriptor are its op (Table 9-5). -/
def dIrq (desc : List Byte) : Bool := dKind desc != 0xC0 && bit (dw desc 0) 23
def dEv (desc : List Byte) : Bool := dKind desc != 0xC0 && bit (dw desc 0) 22

/-- A record of a descriptor. -/
def mkRec (idx : Nat) (desc : List Byte) (status : Nat) (final : Bool) (code prog result : Nat) : CRec :=
  ⟨idx, dKind desc, status, final, code, prog, result, dIrq desc, dEv desc⟩

/-- The ring's unit is no longer in flight and waits for no turn (R344). -/
def Dev.unitStops (d : Dev) (r : Nat) : Dev :=
  match (d.ring r).run with
  | some x => d.setRing r { d.ring r with run := some { x with live := false, turn := 0 } }
  | none => d

/-- A fault takes the ring to FAULTED (R355): the unit is performed again on RESUME. -/
def ringFault (s : State) (r idx : Nat) (desc : List Byte) (code prog acc : Nat) : State :=
  let s := s.on fun d => ((d.unitStops r).hold r idx prog acc).setRState r rFaulted
  addRec s r (mkRec idx desc sFaulted false code prog 0)

/-- What a suspension leaves: SUSPENDED, holding an index at a progress, with its record (Table 13-3). -/
def ringSuspend (s : State) (r idx : Nat) (desc : List Byte) (prog acc : Nat) : State :=
  let s := s.on fun d => ((d.unitStops r).hold r idx prog acc).setRState r rSuspended
  addRec s r (mkRec idx desc sSuspended false 0 prog 0)

/-- sq_head after descriptor idx has completed OK (R345): the loop's first after its last, unless a loop exit pends. -/
def Dev.advance (d : Dev) (r idx : Nat) (ok : Bool) : Dev :=
  let last := d.rLoop r && idx == idxAdd (d.loopFirst r) (d.loopLen r - 1)
  if last && ok && !(d.ring r).loopExit then
    (d.setSqHead r (d.loopFirst r)).setRf r 15 23 0 (d.rf r 15 23 0 + 1)
  else
    let d := d.setSqHead r (idxAdd idx 1)
    if last then d.setRing r { d.ring r with loopExit := false } else d

/-- After a descriptor has ended without stopping the ring: IDLE when nothing is posted, SUSPENDED when a suspension
waits and nothing is armed. -/
def settle (s : State) (r : Nat) : State :=
  let d := s.dev
  if d.rState r = rActive ∧ d.left r = 0 ∧ d.inLoop r = false then s.on fun d => d.setRState r rIdle
  else if d.rState r = rSuspending ∧ d.started r = 0 then ringSuspend s r (d.sqHead r) [] 0 0
  else s

/-- A progress unit of a ring is counted (17 RING_UNITS). -/
def Dev.unitCount (d : Dev) (r : Nat) : Dev := d.ocu (r / 2048) 29 { tenant := some (d.rTenant r) } 1

/-- A status that takes the ring to ERROR (R352). -/
def stops (status : Nat) : Bool := [8, 7, 6, 4, 5, 10, 3].contains status

/-- The final record of a descriptor that does not end by CANCEL, and what the ring does then (R352). A descriptor that is
one unit as a whole counts it (Table 13-9). -/
def finish (s : State) (r idx : Nat) (desc : List Byte) (status code prog result : Nat) : State :=
  let s := s.on fun d =>
    let d := if status = sOk ∧ [0x12, 0x20, 0x21, 0x31].contains (dKind desc) = true then d.unitCount r else d
    let d := d.setRing r { d.ring r with run := none }
    if stops status then (((d.endLoop r idx).advance r idx false).hold r idx prog 0).setRState r rError
    else d.advance r idx (status == sOk)
  settle (addRec s r (mkRec idx desc status true code prog result)) r

/-! Fetching (R341, R353). -/

/-- The index after i, as a loop runs on (R345). -/
def Dev.idxAfter (d : Dev) (r i : Nat) : Nat :=
  if d.rLoop r && !(d.ring r).loopExit && i == idxAdd (d.loopFirst r) (d.loopLen r - 1) then d.loopFirst r else idxAdd i 1

/-- The index of the next descriptor to start. -/
def Dev.nextIdx (d : Dev) (r : Nat) : Nat := (upto (d.started r)).foldl (fun i _ => d.idxAfter r i) (d.sqHead r)

/-- A descriptor is posted (R342). -/
def Dev.posted (d : Dev) (r i : Nat) : Bool :=
  decide (idxSub i (d.postedFrom r) < idxSub (d.sqTail r) (d.postedFrom r)) &&
    (d.started r == 0 || i != d.sqHead r)

/-- The ring may start its next descriptor: ACTIVE, not reclaimed (R362), no descriptor running, one posted and two
completion entries free. Armed collectives let a further descriptor be read (R344). -/
def Dev.mayStart (d : Dev) (r : Nat) : Bool :=
  d.rValid r && d.rState r == rActive && !d.rReclaimed r && (d.ring r).run.isNone && (d.ring r).recs.isEmpty &&
    d.posted r (d.nextIdx r) && decide (2 ≤ d.cqFree r) && !d.frozen (r / 2048)

/-- The next descriptor read: a code, or its bytes. -/
def fetchDesc (s : State) (r : Nat) (host : HostData) : State × (Nat ⊕ List Byte) :=
  let d := s.dev
  let a := d.rw r 2 * 2 ^ 32 + d.rw r 3 + 64 * (d.nextIdx r % 2 ^ d.sqLog2 r)
  spaceRead s (r / 2048) (d.rf r 0 30 28) (d.rTenant r) a 64 (d.ringCls r) host

/-- A ring starts its next descriptor: `f` is given the descriptor where its kind is one that `k` accepts; other kinds
are other commands'. Only a collective descriptor starts beside an armed one (R344). -/
def startDesc (s : State) (r : Nat) (host : HostData) (k : Nat → Bool) (f : State → Nat → List Byte → State) : State :=
  if !s.dev.mayStart r then s.on fun d => d.ringMeets r
  else match fetchDesc s r host with
    | (s1, .inl code) => if code = cWait then s else ringFault s1 r (s.dev.nextIdx r) [] cRingMem 0 0
    | (s1, .inr desc) =>
      if k (dKind desc) && (s.dev.started r == 0 || dKind desc == 0xC0) then f s1 (s.dev.nextIdx r) desc else s

/-! The checks of rule R351. -/

/-- The bits a kind of descriptor uses in each of its 16 words (Tables 13-5 and 9-5). -/
def descMask (kind : Nat) : List Nat :=
  let all := 2 ^ 32 - 1
  let w0 := 0xFFC00000
  match kind with
  | 0x01 => [w0 + 0x3F0000, 0x070FFFFF, all, all, all, all, 0xFF, all]
  | 0x02 => [w0 + 0x070000, 0, 0, 0, all, all, 0xFF, all, all, all]
  | 0x03 => [w0 + 0x380000, 0, all, all, 0, 0, 0xFF, all]
  | 0x04 => [w0 + 0x3FFFC0, 0, all, all, 0, 0, 0, all]
  | 0x05 => [w0 + 0x070000, 0, 0, 0, all, all, 0xFF, all]
  | 0x10 | 0x11 => [w0, 0xFFF]
  | 0x12 => [w0, 0xFFFF0FFF, all, 1]
  | 0x20 | 0x21 => [w0, 0x1FFF]
  | 0x30 => [w0 + 0x380000, 0, all, all, 0, 0, 0xFF, all]
  | 0x31 => [w0, 0x00FFFFFF]
  | 0xC0 => [0xFFFF1FFF, all, all, 0x00FFFFFF, 0x800007FF, all]
  | _ => []

/-- A reserved bit of a descriptor is 1, op = 3, or a table number is 13 to 15. -/
def badField (desc : List Byte) : Bool :=
  let m := descMask (dKind desc)
  (upto 16).any (fun i => andN (dw desc i) (m.getD i 0) != dw desc i) ||
    (dKind desc == 0x04 && (bits (dw desc 0) 10 9 == 3 || decide (13 ≤ bits (dw desc 0) 18 15)))

/-- A space is not allowed to a ring (Table 13-2). -/
def Dev.noSpace (d : Dev) (r sp : Nat) : Bool :=
  decide (4 ≤ sp) || (sp == 0 && d.rTenant r != 0) || (sp == 2 && !bit (d.rw r 0) 20) || (sp == 3 && !bit (d.rw r 0) 21)

/-- The SPACE check. -/
def Dev.badSpaces (d : Dev) (r : Nat) (desc : List Byte) : Bool :=
  let a := dSrcSp desc
  let b := dDstSp desc
  match dKind desc with
  | 0x01 =>
    let no := fun sp => sp != 4 && d.noSpace r sp
    no a || no b || (if bits (dw desc 1) 19 0 = 0 then a == 4 || b == 4 else (a == 4) == (b == 4))
  | 0x02 => d.noSpace r b
  | 0x05 => d.noSpace r b || decide (2 ≤ b)
  | 0x03 | 0x04 | 0x30 => d.noSpace r a
  | _ => false

/-- The TENANT check (Table 13-4). -/
def Dev.badTenant (d : Dev) (r : Nat) (desc : List Byte) : Bool :=
  let t := d.rTenant r
  match dKind desc with
  | 0x04 | 0x30 | 0x31 => t != 0
  | 0x10 | 0x11 | 0x12 => bits (d.entW 10 0 0 (bits (dw desc 1) 11 0) 0) 15 0 != t
  | 0x20 | 0x21 =>
    let g := bits (dw desc 1) 12 0
    bits (d.entW 8 0 (g / 1024) (g % 1024) 0) 15 0 != t
  | 0xC0 =>
    let g := d.rGroup r
    d.rGrpEn r && bits (d.entW 8 0 (g / 1024) (g % 1024) 0) 15 0 != t
  | _ => false

/-- Two ranges overlap. -/
def overlap (a b n : Nat) : Bool := decide (a < b + n) && decide (b < a + n)

/-- The code of rule R351 for a descriptor, 0 where none of its cases up to RANGE applies. -/
def Dev.descCode (d : Dev) (r : Nat) (desc : List Byte) : Nat :=
  let k := dKind desc
  if descMask k = [] then cKind
  else if badField desc then cField
  else if d.badSpaces r desc then cSpace
  else if d.badTenant r desc then cTenant
  else if k = 0x05 ∧ (dDst desc % 32 ≠ 0 ∨ dLen desc % 32 ≠ 0) then cAlign
  else if (k = 0x01 ∧ dSrcSp desc = dDstSp desc ∧ overlap (dSrc desc) (dDst desc) (dLen desc) = true) ∨
      (k = 0x30 ∧ 2 ^ 27 < dLen desc) ∨ (k = 0x04 ∧ bits (dw desc 0) 18 15 = 9) ∨ (k = 0xC0 ∧ d.rGrpEn r = false) then cRange
  else 0

/-- INVALID with a code. -/
def invalid (s : State) (r idx : Nat) (desc : List Byte) (code : Nat) : State := finish s r idx desc sInvalid code 0 0

end Sys2Proof.Machine
end

