-- ==== Sys2Proof/Machine/Tiles.lean ====
section
/-! DEFINITION. Cupola tiles and their slots (08_cupola_arithmetic.md R207, R230, R231; 09 R238), the samples of the
Sentinel (15 R400) and the fault context (15 R391). -/

namespace Sys2Proof.Machine

/-! The fault context (15 R391, Table 15-2). -/

/-- What a fault context says; none where a field does not apply. -/
structure Context where
  die : Nat := 15
  cause : Nat
  op : Nat := 0
  ct : Option Nat := none
  tenant : Option Nat := none
  /-- A ring with the index of its descriptor. -/
  ring : Option (Nat × Nat) := none
  group : Option Nat := none
  /-- A space and an address in it. -/
  addr : Option (Nat × Nat) := none
  lp : Option Nat := none

/-- HUB_FAULT_CTX0 to 7 take a context; word 1 takes the number of its record when that is written. -/
def Dev.faultCtx (d : Dev) (c : Context) : Dev :=
  let ring := match c.ring with
    | some (r, _) => 2 ^ 15 + r
    | none => 0
  let idx := match c.ring with
    | some (_, i) => i % 2 ^ 16
    | none => 0
  let grp := match c.group with
    | some g => 2 ^ 15 + g
    | none => 0
  let (lo, hi) := match c.addr with
    | some (sp, a) => (a % 2 ^ 32, 2 ^ 31 + sp * 2 ^ 21 + a / 2 ^ 32 % 2 ^ 20)
    | none => (0, 0)
  let lp := match c.lp with
    | some lp => 2 ^ 31 + lp
    | none => 0
  let ws := [2 ^ 31 + c.die * 2 ^ 24 + c.cause * 2 ^ 16 + c.op * 2 ^ 8 + c.ct.getD 0x3F, 0,
    c.tenant.getD 0xFFFF * 2 ^ 16 + ring, idx * 2 ^ 16 + grp, lo, hi, d.time.bell % 2 ^ 32, lp]
  (upto 8).foldl (fun d i => d.wr .hubFaultCtx i (word (ws.getD i 0))) d

/-- The trip of a watchdog (15 R389): the fault context is latched, the record written and the trip counted. -/
def Dev.trip (d : Dev) (wd die target sev : Nat) (ctr : Option (Reg × Nat)) (c : Context) : Dev :=
  let d := d.faultCtx c
  let d := match ctr with
    | some (r, i) => d.bump r i
    | none => d
  d.raise die 0x0A01 sev ([wd + (if die < 8 then die else 15) * 2 ^ 4, target] ++ [0, 2, 3, 4, 5, 7].map fun i => d.rdN .hubFaultCtx i)

/-! Tiles (Table 8-7). -/

def Dev.fenced (d : Dev) (ct : Nat) : Bool := d.rdB .cupStatus ct 2
def Dev.isSentinel (d : Dev) (ct : Nat) : Bool := d.rdB .cupStatus ct 1

/-- CUP_STATUS.serving: serve = 1, not fenced and not the Sentinel. -/
def Dev.serving (d : Dev) (ct : Nat) : Bool := d.rdB .cupCfg ct 0 && !d.fenced ct && !d.isSentinel ct

/-- The Sentinel of a die. -/
def Dev.sentinel (d : Dev) (die : Nat) : Option Nat := ((upto 8).map (die * 8 + ·)).find? d.isSentinel

/-- Who holds slot i of a tile. -/
def Dev.slot (d : Dev) (ct i : Nat) : Option SlotUse := SMap.find? d.col.slots (ct * 32 + i)

def Dev.setSlot (d : Dev) (ct i : Nat) (u : SlotUse) : Dev :=
  { d with col := { d.col with slots := SMap.insert (ct * 32 + i) u d.col.slots } }

def Dev.freeSlot (d : Dev) (ct i : Nat) : Dev := { d with col := { d.col with slots := SMap.erase d.col.slots (ct * 32 + i) } }

/-- The slots of a tile that a group holds reserved. -/
def Dev.groupSlots (d : Dev) (g ct : Nat) : List Nat :=
  (upto 32).filter fun i => match d.slot ct i with
    | some (.group g' _) => g' == g
    | _ => false

/-- CUP_STATUS.slots_reserved: slots held by resident groups. -/
def Dev.slotsReserved (d : Dev) (ct : Nat) : Nat :=
  ((upto 32).filter fun i => match d.slot ct i with
    | some (.group _ _) => true
    | _ => false).length

/-- A lookup gathers in a slot. -/
def Dev.lookupIn (d : Dev) (ct i : Nat) : Bool := d.emb.lookups.any fun e => e.2.ct == ct && e.2.slot == i

/-- The slots of a tile that nothing holds. -/
def Dev.openSlots (d : Dev) (ct : Nat) : List Nat := (upto 32).filter fun i => (d.slot ct i).isNone && !d.lookupIn ct i

/-- A slot of a group's reservation takes no chunk and no lookup and its last result has been admitted (R247). -/
def Dev.slotReady (d : Dev) (g ct i : Nat) : Bool :=
  (match d.slot ct i with
   | some (.group g' ref) => g' == g && (ref == 0 || !d.keep.unsent.any fun u => u.ref == ref)
   | _ => false) &&
  !(SMap.getD d.col.groups g {}).chunks.any (fun c => c.ct == ct && c.slot == i) && !d.lookupIn ct i

/-- A free slot of a group on a tile. -/
def Dev.bindSlot (d : Dev) (g ct : Nat) : Option Nat := (upto 32).find? fun i => d.slotReady g ct i

/-- Elements added on a tile (R231). -/
def Dev.addsCount (d : Dev) (ct n : Nat) : Dev :=
  ((d.touch (2048 + ct)).bump64 .cupAddsLo .cupAddsHi ct n).ocu (ct / 8) 28 { lp := some (ct % 8) } n

/-- Elements rounded on a tile, with what they counted as (R220, R222, R225). -/
def Dev.tallyCount (d : Dev) (ct n : Nat) (t : Tally) : Dev :=
  (((((((d.touch (2048 + ct)).bump64 .cupRoundsLo .cupRoundsHi ct n).bumpN .cupNanOut ct t.nan).bumpN .cupInfOut ct t.inf).bumpN .cupSatOut ct
    t.sat).bumpN .cupWrapOut ct t.wrap).bumpN .cupZeroOut ct t.zero).bumpN .cupMxNanblk ct t.nanBlk

/-- SLOT_POISON: an uncorrectable error of slot memory poisons the slot, is counted and recorded (R230). -/
def Dev.poison (d : Dev) (ct slot g : Nat) : Dev :=
  let k := ct * 32 + slot
  let d := { d with col := { d.col with poisoned := k :: d.col.poisoned.filter (· != k) } }
  (d.bump .cupEccUnc ct).raise (ct / 8) 0x0501 sevError [ct + slot * 2 ^ 8, g]

/-- A slot is poisoned. -/
def Dev.isPoisoned (d : Dev) (ct slot : Nat) : Bool := d.col.poisoned.contains (ct * 32 + slot)

/-- A slot is armed: that clears it, and its poison with it (R214, R230). -/
def Dev.armSlot (d : Dev) (ct slot : Nat) : Dev :=
  { d with col := { d.col with poisoned := d.col.poisoned.filter (· != ct * 32 + slot) } }

/-- Errors of slot memory that a tile corrected (R230). -/
def Dev.corrected (d : Dev) (ct : Nat) (x : SlotFault) : Dev := d.bumpN .cupEccCorr ct x.corr

/-- A result as a tile gives it. -/
def tileOut (x : SlotFault) (bs : List Byte) : List Byte := if x.flip = 0 then bs else toLE bs.length (xorN (ofLE bs) x.flip)

/-! Samples (15 R400). -/

/-- The hash of a candidate selects it. -/
def Dev.sampleHash (d : Dev) (die id seq chunk : Nat) : Bool :=
  let s := die * 0x0101010101010101
  let x := xorN s (orN (orN (id * 2 ^ 40) (seq * 2 ^ 16)) chunk % 2 ^ 64)
  cupMix x / 2 ^ (64 - d.rdF .cupSenCfg die 4 0) == 0

/-- The first input of a candidate arrives on a tile: it is sampled into a free retain record with a slot of the
Sentinel, or counted as skipped if the hash selects it. -/
def Dev.sampleOpen (d : Dev) (table : Bool) (id seq chunk cw ct : Nat) : Dev :=
  let die := ct / 8
  if !d.rdB .cupSenCfg die 9 || !d.rdB .cupSenBaseHi die 31 || !d.sampleHash die id seq chunk then d
  else
    let rec? := (upto 8).find? fun k => (SMap.find? d.sen.samples (die * 8 + k)).isNone
    let base := d.rdBase .cupSenBaseLo .cupSenBaseHi die
    match rec?, d.sentinel die with
    | some k, some sct =>
      match if d.bulkPaused (base / 2 ^ 36) then none else (d.openSlots sct).head? with
      | some i =>
        let x : Sample := { table := table, id := id, seq := seq, chunk := chunk, cw := cw, ct := ct, sct := sct, slot := i, stage := .filling }
        let d := (d.setSlot sct i (.sentinel die k)).armSlot sct i
        { d with sen := { d.sen with samples := SMap.insert (die * 8 + k) x d.sen.samples } }
      | none => d.bump .cupSenSkipped die
    | _, _ => d.bump .cupSenSkipped die

/-- A sample that is still filling is of this candidate. -/
def Sample.fills (x : Sample) (table : Bool) (id seq chunk : Nat) : Bool :=
  x.table == table && x.id == id && x.seq == seq && x.chunk == chunk && x.stage == .filling

/-- The HPA of retain record k, counted over the dies (R400). -/
def Dev.retainAt (d : Dev) (k : Nat) : Nat := d.rdBase .cupSenBaseLo .cupSenBaseHi (k / 8) + k % 8 * 2 ^ 23

/-- An input of a candidate, n bytes long, goes to the Sentinel's slot too, if the candidate is sampled, and is written to
the retain record at P3 (R400). -/
def Dev.sampleIn (d : Dev) (table : Bool) (id seq chunk : Nat) (es : List Elem) (n : Nat) : Dev :=
  (d.sen.samples.filter fun e => e.2.fills table id seq chunk).foldl (fun d e =>
    let d := { d with sen := { d.sen with samples := SMap.insert e.1 { e.2 with ins := es :: e.2.ins } d.sen.samples } }
    let d := if es.isEmpty then d else d.addsCount e.2.sct es.length
    d.hbmUse (d.retainAt e.1) n 3) d

/-- The serving tile has rounded a candidate: how, and the result it gave. -/
def Dev.sampleRounded (d : Dev) (table : Bool) (id seq chunk : Nat) (how : SampleHow) (o : List Byte) : Dev :=
  let f := fun (x : Sample) => if x.fills table id seq chunk then { x with stage := .rounded, how := how, o := o } else x
  { d with sen := { d.sen with samples := d.sen.samples.map fun e => (e.1, f e.2) } }

/-- What a correct tile computes from the retained inputs (R228): the same inputs, seed, seq and element indices. -/
def Sample.result (x : Sample) : List Byte × Tally :=
  let h := x.how
  let accs := x.ins.foldr (fun es accs => List.zipWith (fun a e => a.add h.op h.w e) accs es) (List.replicate h.n {})
  roundChunk h.cfg accs fun i => srDraw h.seed h.seq (h.first + i)

/-- A retain record and its Sentinel slot are freed. -/
def Dev.sampleFree (d : Dev) (k : Nat) : Dev :=
  match SMap.find? d.sen.samples k with
  | some x =>
    { d with sen := { d.sen with samples := SMap.erase d.sen.samples k },
             col := { d.col with slots := SMap.erase d.col.slots (x.sct * 32 + x.slot) } }
  | none => d

/-- Samples of a candidate that ended before both tiles rounded it are freed. -/
def Dev.sampleDrop (d : Dev) (p : Sample → Bool) : Dev :=
  (d.sen.samples.filter fun e => decide (e.2.stage = .filling) && p e.2).foldl (fun d e => d.sampleFree e.1) d

end Sys2Proof.Machine
end

