-- ==== Sys2Proof/Machine/Collectives.lean ====
section
/-! DEFINITION. Collectives in the fabric (09_collectives.md R232 to R257; FAULT_BEACON of 15 R398): group contexts,
activation, contributions, closing chunks, results, and early ends. -/

namespace Sys2Proof.Machine

/-! Packets of engines that go through named ports. -/

/-- The flow label of a packet of a die whose low bits no rule gives: they are free (06 R175). -/
def Dev.freeFlow (d : Dev) (die : Nat) : Nat × Dev :=
  let (f, d) := d.free
  (dieFlow die f, d)

/-- A packet goes out of named ports as one stored copy (09 R248, R249); `ref` marks what its admission frees. -/
def Dev.sendTo (d : Dev) (die : Nat) (p : Pkt) (ports : List Nat) (ref : Nat) : Dev :=
  if d.selfDid die = 0 then d
  else
    let p := { p with len := p.payload.length }
    let u : Unsent := ⟨die, p, none, false, [], decide (1 < ports.length), false, ref, {}⟩
    let (d, ts) := d.inServiceOnly (ownHeld u) (ports.map fun lp => ⟨lp, ⟨0, 0, 0, 0⟩⟩)
    if ts.isEmpty then d else d.engineSends { u with looked := true, targets := ts }

/-- A NAK of rule 03 R80: code, hint and detail, out of a named port, into its reservation. -/
def Dev.sendNak (d : Dev) (die op vc lp : Nat) (p : Pkt) (code hint detail : Nat) (resv : Resv) : Dev :=
  d.originate die { op := op, vc := vc, did := p.sid, sid := d.selfDid die, tenant := p.tenant, tclass := p.tclass,
                    flow := p.flow, tag := p.tag, opf := code * 2 ^ 56 + hint * 2 ^ 32 + detail } (some lp) true false resv

/-- NAK codes (03 Table 3-9). -/
def nRetry : Nat := 1
def nNotReady : Nat := 2
def nFault : Nat := 3
def nPerm : Nat := 4
def nUncorr : Nat := 5
def nLinkDown : Nat := 6
def nBusy : Nat := 7
def nMalformed : Nat := 8
def nPreempted : Nat := 9
def nNotArmed : Nat := 10

/-! Contexts (Table 9-1). -/

/-- Word w of group g's context. -/
def Dev.gw (d : Dev) (g w : Nat) : Nat := d.entW 8 0 (groupDie g) (g % 1024) w
def Dev.setGw (d : Dev) (g w v : Nat) : Dev := d.putEntW 8 0 (groupDie g) (g % 1024) w v

def Dev.gValid (d : Dev) (g : Nat) : Bool := bit (d.gw g 0) 31 && !d.entBad (groupDie g) 8 0 (groupDie g) (g % 1024)
/-- The engine meets a group's context, which is handled if it is bad (05 R125). -/
def Dev.groupMeets (d : Dev) (g : Nat) : Dev := d.meets (groupDie g) 8 0 (groupDie g) (g % 1024)

def Dev.gRole (d : Dev) (g : Nat) : Nat := bits (d.gw g 0) 30 29
def Dev.gRoot (d : Dev) (g : Nat) : Bool := d.gRole g == 2
def Dev.nchild (d : Dev) (g : Nat) : Nat := bits (d.gw g 0) 28 17
def Dev.gTenant (d : Dev) (g : Nat) : Nat := bits (d.gw g 0) 15 0
def Dev.parentLp (d : Dev) (g : Nat) : Nat := bits (d.gw g 1) 26 16
def Dev.gRing (d : Dev) (g : Nat) : Nat := bits (d.gw g 1) 13 0
def Dev.slotsPerTile (d : Dev) (g : Nat) : Nat := bits (d.gw g 4) 21 16
def Dev.seed (d : Dev) (g : Nat) : Nat := d.gw g 5 * 2 ^ 32 + d.gw g 6
def Dev.gState (d : Dev) (g : Nat) : Nat := if d.gValid g then bits (d.gw g 8) 31 28 else 0
def Dev.gPreempted (d : Dev) (g : Nat) : Bool := bit (d.gw g 8) 27
def Dev.nextSeq (d : Dev) (g : Nat) : Nat := bits (d.gw g 8) 23 0

def gDormant : Nat := 1
def gResident : Nat := 2
def gBroken : Nat := 3

/-- The tiles of a group, ascending. -/
def Dev.gTiles (d : Dev) (g : Nat) : List Nat := maskBits 64 (d.gw g 2 * 2 ^ 32 + d.gw g 3)

def Dev.grp (d : Dev) (g : Nat) : GroupSt := SMap.getD d.col.groups g {}
def Dev.setGrp (d : Dev) (g : Nat) (x : GroupSt) : Dev := { d with col := { d.col with groups := SMap.put d.col.groups g {} x } }

/-- The device-state words show the oldest armed operation: its seq, its finished chunks and its chunk count. -/
def chunkCount (o : CollOp) : Nat := if o.op = 5 ∨ o.elems = 0 then 1 else (o.elems + o.chunkElems - 1) / o.chunkElems

def Dev.showGroup (d : Dev) (g : Nat) : Dev :=
  match (d.grp g).armed with
  | [] => d
  | o :: _ => (d.setGw g 9 o.seq).setGw g 10 (o.fin.length * 2 ^ 16 + chunkCount o)

/-! The group record (R236). -/

/-- The HPA of a group's record, if its die's records are allocated. -/
def Dev.recordAt (d : Dev) (g : Nat) : Option Nat :=
  let die := groupDie g
  if d.rdB .colRecBaseHi die 31 then some (d.rdBase .colRecBaseLo .colRecBaseHi die + g % 1024 * 512) else none

/-- Ports of a bitmap. -/
def bitmapPorts (bs : List Byte) : List Nat := maskBits 2048 (ofLE bs)

/-- The bitmap of ports. -/
def portsBitmap (ps : List Nat) : List Byte := toLE 256 (maskOf ps)

/-- The children of the record as it stands: none where it cannot be read. -/
def readKids (s : State) (g : Nat) : State × Option (List Nat) :=
  match s.dev.recordAt g with
  | none => (s, none)
  | some a =>
    if !s.dev.usable a 256 then (s, none)
    else match hbmRead s a 256 2 with
      | (s, none) => (s, none)
      | (s, some bs) => (s, some (bitmapPorts bs))

/-- The far end of a port is an endpoint: PLN_LNK_STATUS.far_endpoint (03 Table 3-13). -/
def Dev.farEndpoint (d : Dev) (lp : Nat) : Bool := d.rdB .plnLnkStatus lp 12

/-- A native port is ACTIVE. -/
def Dev.active (d : Dev) (lp : Nat) : Bool := d.lnkState lp == 5

/-! Activation (R237, R238, Tables 9-3 and 9-4). -/

/-- Slots that a group still needs on a tile. -/
def Dev.slotsShort (d : Dev) (g ct : Nat) : Nat := d.slotsPerTile g - (d.groupSlots g ct).length

/-- Slots of a tile that an activation may take: free ones, then those that lookups hold (10 R265). -/
def Dev.takeable (d : Dev) (ct : Nat) : List Nat :=
  d.openSlots ct ++ (upto 32).filter fun i => match d.slot ct i with
    | some (.lookup _ _) => true
    | some _ => false
    | none => d.lookupIn ct i

/-- Checks 1 to 6: a status and code, or the children. -/
def activation (s : State) (g r : Nat) : State × ((Nat × Nat) ⊕ List Nat) :=
  let d := s.dev
  if d.gRing g ≠ r ∨ d.gState g = 0 then (s, .inl (sInvalid, cState))
  else match s.dev.recordAt g with
  | none => (s, .inl (sInvalid, cState))
  | some _ =>
    match readKids s g with
    | (s, none) => (s, .inl (sUncorr, cMemory))
    | (s, some kids) =>
      let d := s.dev
      let role := d.gRole g
      let root := d.gRoot g
      if kids.length ≠ d.nchild g ∨ (!root && kids.contains (d.parentLp g)) = true ∨ kids.any (fun lp => !d.created lp) = true then
        (s, .inl (sInvalid, cState))
      else if (d.gTiles g).any fun ct => !d.serving ct then (s, .inl (sInvalid, cState))
      else if (role == 0 && kids.any fun lp => !d.farEndpoint lp) || (role == 1 && kids.any d.farEndpoint) then
        (s, .inl (sInvalid, cState))
      else if (!root && !d.active (d.parentLp g)) || kids.any fun lp => !d.active lp then (s, .inl (sGroupBroken, 0))
      else if (d.gTiles g).any fun ct => decide ((d.takeable ct).length < d.slotsShort g ct) then (s, .inl (sNoSlots, 0))
      else (s, .inr kids)

/-- The reservation: every tile's missing slots (R238). -/
def Dev.reserveSlots (d : Dev) (g : Nat) : Dev :=
  (d.gTiles g).foldl (fun d ct => ((d.takeable ct).take (d.slotsShort g ct)).foldl (fun d i => d.setSlot ct i (.group g 0)) d) d

/-- Every slot of a group freed. -/
def Dev.freeGroupSlots (d : Dev) (g : Nat) : Dev :=
  { d with col := { d.col with slots := d.col.slots.filter fun e => match e.2 with
    | .group g' _ => g' != g
    | _ => true } }

/-- The read of a group's record waits, since P2 is paused in its stack (12 R330). -/
def Dev.recordWaits (d : Dev) (g : Nat) : Bool :=
  match d.recordAt g with
  | some a => d.usable a 256 && d.hbmWaits a 256 2
  | none => false

/-- GROUP_ACTIVATE in the states of Table 9-3. -/
def activateGroup (s : State) (r idx : Nat) (desc : List Byte) : State :=
  let g := bits (dw desc 1) 12 0
  let s := s.on fun d => d.groupMeets g
  if s.dev.rGrpEn r = false ∨ s.dev.rGroup r ≠ g then invalid s r idx desc cState
  else if s.dev.gState g = 0 ∨ s.dev.gState g = gResident then invalid s r idx desc cState
  else if s.dev.gRing g == r && s.dev.recordWaits g then s
  else match activation s g r with
    | (s, .inl (st, code)) => finish s r idx desc st code 0 0
    | (s, .inr kids) =>
      let s := s.on fun d =>
        let d := (d.reserveSlots g).setGrp g { kids := kids }
        ((d.setGw g 8 (gResident * 2 ^ 28 + bits (d.gw g 8) 26 24 * 2 ^ 24)).setGw g 9 0).setGw g 10 0
      finish s r idx desc sOk 0 0 0

/-- GROUP_DEACTIVATE: slots freed, DORMANT; it waits for every earlier descriptor (Table 9-3). -/
def deactivateGroup (s : State) (r idx : Nat) (desc : List Byte) : State :=
  let g := bits (dw desc 1) 12 0
  let s := s.on fun d => d.groupMeets g
  let st := s.dev.gState g
  if s.dev.rGrpEn r = false ∨ s.dev.rGroup r ≠ g ∨ s.dev.gRing g ≠ r ∨ st = 0 then invalid s r idx desc cState
  else if st = gDormant then finish s r idx desc sOk 0 0 0
  else
    let s := s.on fun d =>
      let d := (d.freeGroupSlots g).setGrp g {}
      d.setGw g 8 (gDormant * 2 ^ 28 + d.gw g 8 % 2 ^ 27)
    finish s r idx desc sOk 0 0 0

/-- A descriptor with the checks of rule R351 first. -/
def checked (s : State) (r idx : Nat) (desc : List Byte) (f : State → State) : State :=
  let code := s.dev.descCode r desc
  if code ≠ 0 then invalid s r idx desc code else f s

/-- GROUP_ACTIVATE. -/
def execGroupActivate (ring : Fin 16384) (host : HostData) (s : State) : Host.Outcome State Fault Refusal :=
  .next (startDesc s ring host (· == 0x20) fun s idx desc => checked s ring idx desc fun s => activateGroup s ring idx desc)

/-- GROUP_DEACTIVATE. -/
def execGroupDeactivate (ring : Fin 16384) (host : HostData) (s : State) : Host.Outcome State Fault Refusal :=
  .next (startDesc s ring host (· == 0x21) fun s idx desc => checked s ring idx desc fun s => deactivateGroup s ring idx desc)

/-! Operations (R239 to R242). -/

/-- A reducing operation, or BARRIER. -/
def CollOp.reduces (o : CollOp) : Bool := decide (o.op ≤ 2)
def CollOp.tiled (o : CollOp) : Bool := decide (o.op ≤ 2) || o.op == 5

/-- Elements of chunk c. -/
def CollOp.elemsIn (o : CollOp) (c : Nat) : Nat :=
  if o.op = 5 then 0 else min o.chunkElems (o.elems - c * o.chunkElems)

/-- Formats that only reducing operations read beside fmt. -/
def CollOp.carrier (o : CollOp) : Nat := if o.reduces then cwCarrier o.cw else cwFmt o.cw
def CollOp.down (o : CollOp) : Nat := if o.reduces then cwDown o.cw else cwFmt o.cw

/-- The operation of a descriptor. -/
def opOf (idx seq : Nat) (desc : List Byte) : CollOp :=
  { idx := idx, op := bits (dw desc 0) 23 20, tclass := bits (dw desc 0) 18 16, chunkElems := bits (dw desc 0) 12 0,
    cw := dw desc 1, elems := dw desc 2, seq := seq,
    sel := if bit (dw desc 4) 31 then some (bits (dw desc 4) 10 0) else none,
    first := bits (dw desc 5) 31 16, n := bits (dw desc 5) 15 0 }

/-- An operation of length 0 acts as a barrier (00 Table 0-6, 08 R226). -/
def CollOp.asBarrier (o : CollOp) : CollOp := if o.elems = 0 then { o with op := 5 } else o

/-- E for operations that read only fmt: their slot limits and carrier are fmt's (R208). -/
def CollOp.limit (o : CollOp) : Nat :=
  if o.reduces then chunkLimit o.cw else min (if compactFmt (cwFmt o.cw) then 4096 else 2048) (fmtLimit (cwFmt o.cw))

/-- The checks of rule R240: a code, 0 for none. -/
def Dev.opCode (d : Dev) (g : Nat) (desc : List Byte) (o : CollOp) : Nat :=
  let kids := (d.grp g).kids
  let badSel := match o.sel with
    | some lp => !(kids.contains lp || (o.op == 4 && !d.gRoot g && lp == d.parentLp g))
    | none => false
  if 5 < o.op then cField
  else if (if o.reduces then cwBad o.cw else cwFmt o.cw == 15) then cField
  else if o.chunkElems = 0 ∨ o.limit < o.chunkElems then cRange
  else if 65535 < chunkCount o then cRange
  else if isMx (cwFmt o.cw) = true ∧ (o.chunkElems % 32 ≠ 0 ∨ o.elems % 32 ≠ 0) then cRange
  else if bit (dw desc 0) 19 = true ∧ dw desc 3 ≠ d.nextSeq g then cState
  else if o.sel = none ∧ d.gRoot g = true ∧ (o.op = 1 ∨ o.op = 4) then cField
  else if badSel then cField
  else if o.op = 2 ∧ chunkCount o < o.first + o.n then cRange
  else 0

/-- The chip sends nothing up for the operation, so every chunk counts as finished when it is armed (R242): a BROADCAST
whose source is not below it. -/
def Dev.nothingUp (d : Dev) (g : Nat) (o : CollOp) : Bool :=
  o.op == 4 && !d.gRoot g && (match o.sel with
    | some lp => !(d.grp g).kids.contains lp
    | none => true)

/-- Every chunk of an operation is finished here. -/
def CollOp.finished (o : CollOp) : Bool := decide (chunkCount o ≤ o.fin.length)

/-- The next collective descriptor may be armed (R242). -/
def Dev.mayArm (d : Dev) (g : Nat) : Bool :=
  match (d.grp g).armed with
  | [] => true
  | [o] => o.finished
  | _ => false

/-- How a collective descriptor ends without being armed: its status and code (R239, R240, Table 9-3, 13 R351). -/
def Dev.armRefused (d : Dev) (r : Nat) (desc : List Byte) (o : CollOp) : Option (Nat × Nat) :=
  let g := d.rGroup r
  let code := d.descCode r desc
  if code ≠ 0 then some (sInvalid, code)
  else if d.gRing g ≠ r then some (sInvalid, cState)
  else if d.gState g = gBroken then some (sGroupBroken, 0)
  else if d.gState g ≠ gResident then
    if d.gState g = gDormant ∧ d.gPreempted g = true then some (sPreempted, 0) else some (sInvalid, cState)
  else if d.opCode g desc o ≠ 0 then some (sInvalid, d.opCode g desc o)
  else none

/-- An operation is armed (R241). -/
def Dev.arm (d : Dev) (g : Nat) (o : CollOp) : Dev :=
  let o := o.asBarrier
  let o := if d.nothingUp g o then { o with fin := upto (chunkCount o) } else o
  let x := d.grp g
  let d := d.setGrp g { x with armed := x.armed ++ [o] }
  (d.setGw g 8 (putBits (d.gw g 8) 23 0 (o.seq + 1))).showGroup g

/-- A collective descriptor is reached: it is checked and armed, or waits for the older operation. One that is not armed
completes in its turn, after every older operation has completed (13 R344). -/
def armDesc (s : State) (r idx : Nat) (desc : List Byte) : State :=
  let s' := s.on fun d => if d.rGrpEn r then d.groupMeets (d.rGroup r) else d
  let d := s'.dev
  let g := d.rGroup r
  let o := opOf idx (d.nextSeq g) desc
  match d.armRefused r desc o with
  | some (st, code) =>
    if (d.ringOps r).isEmpty then finish s' r idx desc st code 0 (if st = sInvalid then 0 else o.seq) else s
  | none => if d.mayArm g then s'.on fun d => d.arm g o else s

/-- COLLECTIVE_DESCRIPTOR. -/
def execCollectiveDescriptor (ring : Fin 16384) (host : HostData) (s : State) : Host.Outcome State Fault Refusal :=
  .next (startDesc s ring host (· == 0xC0) fun s idx desc => armDesc s ring idx desc)

/-- COLLECTIVE_ARM: the older operation has finished every chunk here, and the ring's next collective descriptor is
armed. -/
def execCollectiveArm (g : Fin 8192) (host : HostData) (s : State) : Host.Outcome State Fault Refusal :=
  let r := s.dev.gRing g
  .next (if s.dev.gState g = gResident ∧ (s.dev.grp g).armed.length = 1 ∧ s.dev.mayArm g = true then
    startDesc s r host (· == 0xC0) fun s idx desc => armDesc s r idx desc
  else s)

/-! Early ends (R254, R255). -/

/-- Kinds of Table 9-9. -/
def kLink : Nat := 1
def kTile : Nat := 2
def kMemory : Nat := 3
def kSkew : Nat := 4
def kReclaim : Nat := 5
def kCancel : Nat := 6
def kEndpoint : Nat := 7

/-- The failed-entity record (Table 9-9): word 0 and the far device identity. -/
def Dev.failRecord (d : Dev) (die w0 far : Nat) : List Byte :=
  toLE 4 w0 ++ toLE 4 (d.rdN .secDevIdHi 0) ++ toLE 4 (d.rdN .secDevIdLo 0) ++ toLE 4 (far / 2 ^ 32) ++ toLE 4 far ++
    toLE 4 (d.selfDid die)

/-- The far device identity of a port. -/
def Dev.farId (d : Dev) (lp : Nat) : Nat := d.rd64 .plnLnkFarIdLo .plnLnkFarIdHi lp

/-- An early end: the kind, the status of this chip's completions, the code and seq sent, the payload, and the port that
the news came from. -/
structure EarlyEnd where
  kind : Nat
  status : Nat
  code : Nat
  seq : Nat
  payload : List Byte
  fromLp : Option Nat
  /-- The cause is the reclaim of the group's tenant here, not news of one elsewhere. -/
  reclaim : Bool := false

/-- The seq that an early end reports: that of the oldest armed operation, or next_seq. -/
def Dev.endSeq (d : Dev) (g : Nat) : Nat :=
  match (d.grp g).armed with
  | o :: _ => o.seq
  | [] => d.nextSeq g

/-- COLL_ABORT and FAULT_BEACON of an early end (R245, 15 R398): to endpoint children, chip children and the parent. -/
def Dev.tellGroup (d : Dev) (g : Nat) (e : EarlyEnd) : Dev :=
  let die := groupDie g
  let kids := (d.grp g).kids
  let ports := (if d.gRoot g || kids.contains (d.parentLp g) then kids else kids ++ [d.parentLp g]).filter fun lp =>
    d.active lp && e.fromLp != some lp
  let opf := g * 2 ^ 51 + e.code * 2 ^ 48 + e.seq
  ports.foldl (fun d lp =>
    let ep := kids.contains lp && d.farEndpoint lp
    let (flow, d) := d.freeFlow die
    let p : Pkt := { op := if ep then 0x43 else 0x74, vc := if ep then 5 else 7, did := linkLocal, sid := d.selfDid die,
                     tenant := d.gTenant g, flow := flow, opf := opf, payload := e.payload, gen := d.rdF .plnFwdGen die 0 0 }
    (d.sendTo die p [lp] 0).bump .colBeaconTx die) d

/-- An armed descriptor's completion at an early end, with its result: the ring goes to ERROR, which ends its loop, or to
SUSPENDED holding the descriptor after it (13 R345, R352). CANCEL with all = 1 leaves the ring to its own rule. -/
def endOp (s : State) (r : Nat) (o : CollOp) (status result : Nat) : State :=
  let code := if status = sUncorr then cMemory else 0
  let crec : CRec := ⟨o.idx, 0xC0, status, true, code, o.fin.length, result, false, false⟩
  let s := s.on fun d =>
    if status = sPreempted ∧ d.rReclaimed r = true then
      let nxt := d.idxAfter r o.idx
      ((d.setSqHead r nxt).hold r nxt 0 0).setRState r rSuspended
    else (((d.endLoop r o.idx).setSqHead r (idxAdd o.idx 1)).hold r o.idx o.fin.length 0).setRState r rError
  addRec s r crec

/-- Results and contributions of a group that the Keep has not admitted are not sent (R255). -/
def Dev.unsendGroup (d : Dev) (g : Nat) : Dev :=
  let mine := fun (u : Unsent) => (u.pkt.op == 0x40 || u.pkt.op == 0x41) && u.pkt.did == linkLocal && u.pkt.opf / 2 ^ 51 % 2 ^ 13 == g
  { d with keep := { d.keep with unsent := d.keep.unsent.filter fun u => !mine u } }

/-- EARLY_END (R255). `skipped`: of a CANCEL with all = 1, the descriptors it skips, which its records give as their
result (13 R357). -/
def earlyEnd (s : State) (g : Nat) (e : EarlyEnd) (skipped : Option Nat) : State :=
  let die := groupDie g
  let r := s.dev.gRing g
  let ops := (s.dev.grp g).armed
  let kids := (s.dev.grp g).kids
  let seq := s.dev.endSeq g
  let s := s.on fun d => ((d.sampleDrop fun x => !x.table && x.id == g).unsendGroup g).setGrp g { kids := kids }
  let s := ops.foldl (fun s o => endOp s r o e.status (skipped.getD o.seq)) s
  s.on fun d =>
    let d := d.tellGroup g e
    let d := d.raise die 0x0601 (if e.reclaim then sevNotice else sevWarning) [g, e.kind, seq]
    let d := (d.wr .colLastEnd die (word (e.kind * 2 ^ 28 + g))).page (d.gTenant g) tEnds 1
    let d := if e.code = 1 then d.bump .colBroken die else if e.code = 2 then d.bump .colTimeout die else d
    if e.reclaim then
      let d := (d.freeGroupSlots g).setGrp g {}
      d.setGw g 8 (gDormant * 2 ^ 28 + 2 ^ 27 + e.code * 2 ^ 24 + bits (d.gw g 8) 23 0)
    else d.setGw g 8 (gBroken * 2 ^ 28 + e.code * 2 ^ 24 + bits (d.gw g 8) 23 0)

/-- An early end that this chip detects (Table 9-11): word 0 of its record, the far identity, and what follows the
record. -/
def Dev.ownCause (d : Dev) (g kind status code w0 far : Nat) (more : List Byte) (fromLp : Option Nat) : EarlyEnd :=
  ⟨kind, status, code, d.endSeq g, d.failRecord (groupDie g) (kind * 2 ^ 24 + w0) far ++ more, fromLp, kind == kReclaim⟩

/-- A RESIDENT group takes a cause; a BROKEN one takes only RECLAIM (Table 9-3). -/
def ownEnd (s : State) (g kind status code w0 far : Nat) (more : List Byte) (fromLp : Option Nat) : State :=
  if s.dev.gState g = gResident ∨ (kind = kReclaim ∧ s.dev.gState g = gBroken) then
    earlyEnd s g (s.dev.ownCause g kind status code w0 far more fromLp) none
  else s

/-- Groups that are RESIDENT. -/
def Dev.residents (d : Dev) : List Nat := (d.col.groups.map (·.1)).filter fun g => d.gState g == gResident

/-- LINK: a port has left ACTIVE (R254). -/
def groupsPortLost (s : State) (lp : Nat) : State :=
  let hit := s.dev.residents.filter fun g => (s.dev.grp g).kids.contains lp || (!s.dev.gRoot g && s.dev.parentLp g == lp)
  hit.foldl (fun s g => ownEnd s g kLink sGroupBroken 1 (s.dev.rdF .plnLnkStatus lp 11 4 * 2 ^ 16 + lp) (s.dev.farId lp) [] none) s

/-- TILE: a tile of the group is reset; its slots are lost. -/
def groupsTileLost (s : State) (ct : Nat) : State :=
  let hit := s.dev.residents.filter fun g => (s.dev.gTiles g).contains ct
  let s := hit.foldl (fun s g => ownEnd s g kTile sTileReset 1 ct 0 [] none) s
  s.on fun d => { d with col := { d.col with slots := SMap.keep d.col.slots (fun k => k / 32 != ct)
                                             poisoned := d.col.poisoned.filter fun k => k / 32 != ct } }

/-- RECLAIM: RESIDENT and BROKEN groups of a tenant (Table 9-3). -/
def groupsReclaim (s : State) (tenant : Nat) : State :=
  let gs := (upto 8192).filter fun g => s.dev.gTenant g == tenant && (s.dev.gState g == gResident || s.dev.gState g == gBroken)
  gs.foldl (fun s g => ownEnd s g kReclaim sPreempted 3 0 0 [] none) s

/-! Completing an operation (R242, R251). -/

/-- What a packet's admission to the Keep frees is still waiting (R247). -/
def Dev.waitsFor (d : Dev) (ref : Nat) : Bool := d.keep.unsent.any fun u => u.ref == ref

/-- A number for what a packet's admission frees. -/
def Dev.newRef (d : Dev) : Nat × Dev := (d.col.nextRef, { d with col := { d.col with nextRef := d.col.nextRef + 1 } })

/-- The oldest armed operation of a group ends with OK. -/
def completeOp (s : State) (g : Nat) : State :=
  match (s.dev.grp g).armed with
  | [] => s
  | o :: t =>
    let r := s.dev.gRing g
    let s := s.on fun d => (d.setGrp g { d.grp g with armed := t, marker := 0 }).showGroup g
    let s := s.on fun d => d.advance r o.idx true
    settle (addRec s r ⟨o.idx, 0xC0, sOk, true, 0, o.fin.length, o.seq, false, false⟩) r

/-- The done marker of the oldest operation goes out as `f` sends it; the operation completes once the marker has been sent,
which is when the Keep has admitted it (R242; DEDUCED, assumption 158). -/
def sendMarker (s : State) (g : Nat) (f : Dev → Nat → Dev) : State :=
  let (ref, d) := s.dev.newRef
  let d := f d ref
  let s := { s with dev := d }
  if d.waitsFor ref then s.on fun d => d.setGrp g { d.grp g with marker := ref } else completeOp s g

/-- The done marker to every child (R251). -/
def Dev.sendDone (d : Dev) (g : Nat) (o : CollOp) (ref : Nat) : Dev :=
  let die := groupDie g
  let (flow, d) := d.freeFlow die
  let p : Pkt := { op := 0x41, vc := 5, did := linkLocal, sid := d.selfDid die, tenant := d.gTenant g, tclass := o.tclass,
                   flow := flow, tag := 0xFFFF, opf := g * 2 ^ 51 + o.total % 2 ^ 24 * 2 ^ 24 + o.seq,
                   gen := d.rdF .plnFwdGen die 0 0 }
  d.sendTo die p (d.grp g).kids ref

/-- At a ROOT every operation whose chunks have all been sent down, oldest first, sends its done marker. -/
def rootDone (s : State) (g : Nat) : Nat → State
  | 0 => s
  | n + 1 =>
    match (s.dev.grp g).armed with
    | o :: _ =>
      if s.dev.gRoot g && o.finished && (s.dev.grp g).marker == 0 then rootDone (sendMarker s g fun d ref => d.sendDone g o ref) g n
      else s
    | [] => s

/-- A chunk of an operation is finished here: a progress unit of its ring (13 Table 13-9). -/
def Dev.finChunk (d : Dev) (g seq c total : Nat) : Dev :=
  let f := fun (o : CollOp) => if o.seq = seq then
    { o with fin := if o.fin.contains c then o.fin else c :: o.fin, total := total } else o
  ((d.setGrp g { d.grp g with armed := (d.grp g).armed.map f }).showGroup g).unitCount (d.gRing g)

/-- A chunk's packet has been handed to the Keep: the chunk is finished once the packet has been sent, which is when the Keep
has admitted it (R242; DEDUCED, assumption 158). -/
def Dev.chunkOut (d : Dev) (g seq c total ref : Nat) : Dev :=
  if d.waitsFor ref then d.setGrp g { d.grp g with sending := (d.grp g).sending ++ [⟨seq, c, total, ref⟩] }
  else d.finChunk g seq c total

/-- Chunks and done markers of a group whose packets have been admitted by now. -/
def groupSent (s : State) (g : Nat) : State :=
  let s := s.on fun d =>
    let x := d.grp g
    let out := x.sending.filter fun y => !d.waitsFor y.ref
    out.foldl (fun d y => d.finChunk g y.seq y.chunk y.total) (d.setGrp g { x with sending := x.sending.filter fun y => d.waitsFor y.ref })
  let m := (s.dev.grp g).marker
  let s := if m ≠ 0 ∧ s.dev.waitsFor m = false then completeOp s g else s
  rootDone s g 2

/-- Packets that the engines held have been admitted: what they finish, in every group. -/
def groupsSent (s : State) : State :=
  ((s.dev.col.groups.filter fun e => !e.2.sending.isEmpty || e.2.marker != 0).map (·.1)).foldl groupSent s

/-! Sending up and down (R243, R248 to R250). -/

/-- The child that takes a chunk of a REDUCE_SCATTER; none outside the range (R250). -/
def Dev.scatterKid (d : Dev) (g : Nat) (o : CollOp) (c : Nat) : Option Nat :=
  let kids := (d.grp g).kids
  let n := kids.length
  if c < o.first ∨ o.first + o.n ≤ c then none
  else ((upto n).zip kids).findSome? fun (i, lp) =>
    if i * o.n / n ≤ c - o.first ∧ c - o.first < (i + 1) * o.n / n then some lp else none

/-- The children that a chunk goes down to (Table 9-6); none where the chunk lies outside the chip's range. -/
def Dev.downTo (d : Dev) (g : Nat) (o : CollOp) (c : Nat) : Option (List Nat) :=
  match o.op with
  | 1 => some (match o.sel with
    | some lp => if (d.grp g).kids.contains lp then [lp] else []
    | none => [])
  | 2 => (d.scatterKid g o c).map ([·])
  | _ => some (d.grp g).kids

/-- A COLL_UP of this chip (Table 9-7), kept for a refusal. -/
def Dev.sendUp (d : Dev) (die g : Nat) (o : CollOp) (c : Nat) (p : Pkt) (ref : Nat) : Dev :=
  let f := fun (x : CollOp) => if x.seq = o.seq then { x with sent := SMap.insert c p x.sent } else x
  let d := d.setGrp g { d.grp g with armed := (d.grp g).armed.map f }
  d.sendTo die p [d.parentLp g] ref

/-- A chunk's COLL_DOWN at a ROOT, as one stored copy. -/
def Dev.sendDown (d : Dev) (die g : Nat) (o : CollOp) (c count : Nat) (payload : List Byte) (ref : Nat) : Dev :=
  match d.downTo g o c with
  | none => d.bump .colDiscard (groupDie g)
  | some [] => d
  | some ports =>
    let (flow, d) := d.freeFlow die
    let car := b2n (o.reduces && bit o.cw 21)
    let p : Pkt := { op := 0x41, vc := 5, did := linkLocal, sid := d.selfDid die, tenant := d.gTenant g, tclass := o.tclass,
                     flow := flow, tag := c, opf := g * 2 ^ 51 + car * 2 ^ 50 + count % 2 ^ 24 * 2 ^ 24 + o.seq,
                     payload := payload, gen := d.rdF .plnFwdGen die 0 0 }
    d.sendTo die p ports ref

/-! Contributions (R246, R247, Table 9-10). -/

/-- Fields of a tree packet's opfield. -/
def pGroup (p : Pkt) : Nat := p.opf / 2 ^ 51 % 2 ^ 13
def pCarrier (p : Pkt) : Bool := bit p.opf 50
def pCount (p : Pkt) : Nat := bits p.opf 47 24
def pSeq (p : Pkt) : Nat := bits p.opf 23 0

/-- Where a seq stands against the armed operations (R246). -/
inductive SeqAt where
  | armed (o : CollOp)
  | ahead
  | behind

def Dev.seqAt (d : Dev) (g seq : Nat) : SeqAt :=
  let ops := (d.grp g).armed
  let x := (seq + 2 ^ 24 - d.endSeq g) % 2 ^ 24
  match ops[x]? with
  | some o => .armed o
  | none => if x < 2 ^ 23 then .ahead else .behind

/-- What a check of Table 9-10 decides. -/
inductive UpCheck where
  /-- COLL_NAK with a code, a hint, and whether CUP_MALFORMED counts it (R213). -/
  | nak (code hint : Nat) (mal : Bool)
  | discard
  | dup
  | accept (o : CollOp)

/-- Bytes that a contribution to a chunk must have. -/
def CollOp.upBytes (o : CollOp) (c : Nat) (car : Bool) : Nat :=
  fmtBytes (if car then o.carrier else cwFmt o.cw) (o.elemsIn c)

/-- Checks 8 to 10 for an armed operation. -/
def Dev.chunkCheck (d : Dev) (g lp : Nat) (o : CollOp) (p : Pkt) : UpCheck :=
  let c := p.tag
  let car := pCarrier p
  let ep := d.farEndpoint lp
  let open? := (d.grp g).chunks.find? fun x => x.seq == o.seq && x.chunk == c
  if (car && ep) || (o.tiled && !car && !ep) then .nak nMalformed 0 o.tiled
  else if chunkCount o ≤ c then .nak nMalformed 0 false
  else if p.payload.length ≠ o.upBytes c car then .nak nMalformed 0 o.tiled
  else if o.op = 4 ∧ o.sel ≠ some lp then .nak nMalformed 0 false
  else if !o.tiled then .accept o
  else match open? with
    | some x => if x.kids.contains lp then .dup else .accept o
    | none =>
      if o.fin.contains c then .dup
      else
        let ts := d.gTiles g
        match d.bindSlot g (ts.getD (c % ts.length) 0) with
        | some _ => .accept o
        | none => .nak nBusy (d.rdF .colCfg (groupDie g) 15 8) false

/-- Table 9-10; `kids`: the children as check 2 takes them. -/
def Dev.upCheck (d : Dev) (g lp : Nat) (kids : List Nat) (p : Pkt) : UpCheck :=
  let arm := d.rdF .colCfg (groupDie g) 7 0
  let st := d.gState g
  if !d.isReady ∨ st = 0 ∨ d.gTenant g ≠ p.tenant then .nak nPerm 0 false
  else if !kids.contains lp then .nak nPerm 0 false
  else if st = gDormant then if d.gPreempted g then .nak nPreempted 0 false else .nak nNotReady arm false
  else if st = gBroken then .discard
  else match d.seqAt g (pSeq p) with
    | .ahead => .nak nNotArmed arm false
    | .behind => .discard
    | .armed o => d.chunkCheck g lp o p

/-- A refusal is counted and sent back (R244). -/
def Dev.refuseUp (d : Dev) (lp g : Nat) (p : Pkt) (resv : Resv) (code hint : Nat) (mal : Bool) : Dev :=
  let die := groupDie g
  let d := if mal then match d.gTiles g with
    | ct :: _ => d.bump .cupMalformed ct
    | [] => d
    else d
  let d := d.bump (if code = nNotArmed ∨ code = nNotReady then .colNakNotArmed else if code = nBusy then .colNakBusy
    else .colNakOther) die
  let d := (d.ocu die 27 { tenant := some p.tenant, lp := some lp } 1).page p.tenant tCollNak 1
  d.sendNak die 0x42 5 lp p code hint (g * 2 ^ 19 + pSeq p % 2 ^ 19) resv

/-- An ALLGATHER or BROADCAST contribution goes on at once (Table 9-6): to the parent as it came, or down. -/
def passUp (s : State) (lp g : Nat) (o : CollOp) (p : Pkt) : State :=
  let die := lpDie lp
  let s := s.on fun d =>
    let (ref, d) := d.newRef
    let d := if d.gRoot g then d.sendDown die g o p.tag (pCount p) p.payload ref else d.sendUp die g o p.tag p ref
    d.chunkOut g o.seq p.tag (pCount p) ref
  rootDone s g 2

/-- A contribution is added to its chunk, which its first one binds to a slot (R247). -/
def Dev.addUp (d : Dev) (lp g : Nat) (o : CollOp) (p : Pkt) (bad : SlotFault) : Dev :=
  let c := p.tag
  let n := o.elemsIn c
  let ts := d.gTiles g
  let ct := ts.getD (c % ts.length) 0
  let x := d.grp g
  let (d, k) := match x.chunks.find? fun y => y.seq == o.seq && y.chunk == c with
    | some k => (d, k)
    | none =>
      let slot := (d.bindSlot g ct).getD 0
      (((d.setSlot ct slot (.group g 0)).armSlot ct slot).sampleOpen false g o.seq c o.cw ct,
       ⟨o.seq, c, ct, slot, [], 0, List.replicate n {}, d.time.now⟩)
  let fmt := if pCarrier p then o.carrier else cwFmt o.cw
  let es := if o.reduces then decodeElems fmt n p.payload else []
  let accs := if o.reduces then List.zipWith (fun a e => a.add (cwOp o.cw) (elemBits (cwFmt o.cw)) e) k.accs es else k.accs
  let k := { k with kids := lp :: k.kids, count := k.count + pCount p, accs := accs }
  let rest := (d.grp g).chunks.filter fun y => !(y.seq == o.seq && y.chunk == c)
  let d := (d.setGrp g { d.grp g with chunks := rest ++ [k] }).sampleIn false g o.seq c es p.payload.length
  (if o.reduces then d.addsCount ct n else d).corrected ct bad

/-- The open chunk of an operation of a group. -/
def Dev.chunkOf (d : Dev) (g seq c : Nat) : Option Chunk := (d.grp g).chunks.find? fun k => k.seq == seq && k.chunk == c

/-- An uncorrectable error in the slot of a chunk poisons the slot and ends the operation (R230, Table 9-11). -/
def slotLost (s : State) (g : Nat) (k : Chunk) : State :=
  ownEnd (s.on fun d => d.poison k.ct k.slot g) g kMemory sUncorr 1 k.ct 0 [] none

/-- COLL_UP (R246). `bad`: what the tile does wrong while it adds. -/
def collUp (s : State) (lp : Nat) (p : Pkt) (bad : SlotFault) : State :=
  let (d, resv) := s.dev.take lp p
  let g := pGroup p
  let s := { s with dev := d.groupMeets g }
  let die := groupDie g
  let (s, kids) := if s.dev.gState g = gDormant then let (s, k) := readKids s g; (s, k.getD []) else (s, (s.dev.grp g).kids)
  match s.dev.upCheck g lp kids p with
  | .nak code hint mal => s.on fun d => d.refuseUp lp g p resv code hint mal
  | .discard => s.on fun d => (d.unreserve resv).bump .colDiscard die
  | .dup => s.on fun d => (d.unreserve resv).bump .colDup die
  | .accept o =>
    let s := s.on fun d => (((d.unreserve resv).bump .colUpAccept die).ocu die 26
      { tenant := some p.tenant, lp := some lp } 1).page p.tenant tAccepted 1
    if o.tiled then
      let s := s.on fun d => d.addUp lp g o p bad
      match bad.unc, s.dev.chunkOf g o.seq p.tag with
      | true, some k => slotLost s g k
      | _, _ => s
    else passUp s lp g o p

/-- COLL_UP. -/
def execCollUp (lp : Fin 2048) (p : UpPacket) (s : State) : Host.Outcome State Fault Refusal :=
  .next (collUp s lp p.pkt p.bad)

/-! Closing a chunk (R248). -/

/-- The slot of a closed chunk waits for the admission of its result (R247). -/
def Dev.closeSlot (d : Dev) (g : Nat) (k : Chunk) : Dev × Nat :=
  let (ref, d) := d.newRef
  let rest := (d.grp g).chunks.filter fun y => !(y.seq == k.seq && y.chunk == k.chunk)
  ((d.setGrp g { d.grp g with chunks := rest }).setSlot k.ct k.slot (.group g ref), ref)

/-- How a chip rounds a chunk (R248): a ROOT to the down format with the count as AVG's divisor, another to the carrier. -/
def Dev.roundOf (d : Dev) (g : Nat) (o : CollOp) (k : Chunk) : RoundCfg :=
  let root := d.gRoot g
  { op := cwOp o.cw, fmt := if root then o.down else o.carrier, den := if root then k.count else 1, sr := cwSr o.cw,
    nanMode := cwE4m3Nan o.cw, sat := cwIntSat o.cw }

/-- The rounded payload of a full chunk, as a correct tile gives it; a BARRIER has none. -/
def Dev.chunkResult (d : Dev) (g : Nat) (o : CollOp) (k : Chunk) : List Byte × Tally :=
  if o.reduces then roundChunk (d.roundOf g o k) k.accs fun i => srDraw (d.seed g) o.seq (k.chunk * o.chunkElems + i) else ([], {})

/-- A full chunk is rounded once and sent up or down; a poisoned slot is never rounded and ends the operation instead
(R230). -/
def closeChunk (s : State) (g : Nat) (o : CollOp) (k : Chunk) (bad : SlotFault) : State :=
  let s := s.on fun d => d.corrected k.ct bad
  if bad.unc || s.dev.isPoisoned k.ct k.slot then slotLost s g k
  else
    let root := s.dev.gRoot g
    let (res, t) := s.dev.chunkResult g o k
    let bs := tileOut bad res
    let how : SampleHow := ⟨cwOp o.cw, elemBits (cwFmt o.cw), k.accs.length, s.dev.roundOf g o k, s.dev.seed g, o.seq, k.chunk * o.chunkElems⟩
    let die := k.ct / 8
    let s := s.on fun d =>
      let d := if o.reduces then d.tallyCount k.ct k.accs.length t else d
      let (d, ref) := d.closeSlot g k
      let d := d.sampleRounded false g k.seq k.chunk how bs
      let d :=
        if root then d.sendDown die g o k.chunk k.count bs ref
        else
          let (flow, d) := d.freeFlow die
          d.sendUp die g o k.chunk { op := 0x40, vc := 4, did := linkLocal, sid := d.selfDid die, tenant := d.gTenant g,
                                     tclass := o.tclass, flow := flow, tag := k.chunk, payload := bs,
                                     opf := g * 2 ^ 51 + 2 ^ 50 + k.count % 2 ^ 24 * 2 ^ 24 + o.seq,
                                     gen := d.rdF .plnFwdGen die 0 0, len := bs.length } ref
      d.chunkOut g o.seq k.chunk k.count ref
    rootDone s g 2

/-- CHUNK_CLOSE: every child has contributed to the chunk. `bad`: what the tile does wrong while it rounds. -/
def chunkClose (s : State) (g seq chunk : Nat) (bad : SlotFault) : State :=
  match s.dev.chunkOf g seq chunk, (s.dev.grp g).armed.find? fun o => o.seq == seq with
  | some k, some o =>
    if k.kids.length = s.dev.nchild g ∧ s.dev.gState g = gResident ∧ s.dev.frozen (s.dev.gRing g / 2048) = false then
      closeChunk s g o k bad
    else s
  | _, _ => s

/-- CHUNK_CLOSE. -/
def execChunkClose (g : Fin 8192) (seq chunk : Nat) (bad : SlotFault) (s : State) : Host.Outcome State Fault Refusal :=
  .next (chunkClose s g seq chunk bad)

/-! Results from the parent (R249, R251). -/

/-- COLL_DOWN: forwarded bit for bit, or discarded; the done marker completes the operation. -/
def collDown (s : State) (lp : Nat) (p : Pkt) : State :=
  let (d, _) := s.dev.take lp p
  let g := pGroup p
  let s := { s with dev := d.groupMeets g }
  let discard := s.on fun d => d.bump .colDiscard (groupDie g)
  if !s.dev.isReady ∨ s.dev.gState g ≠ gResident ∨ s.dev.gRoot g = true ∨ s.dev.parentLp g ≠ lp then discard
  else match s.dev.seqAt g (pSeq p) with
    | .armed o =>
      if p.tag = 0xFFFF then
        let first := (s.dev.grp g).armed.head?.any fun x => x.seq == o.seq
        if first && (s.dev.grp g).marker == 0 then sendMarker s g fun d ref => d.sendTo (lpDie lp) p (d.grp g).kids ref
        else s.on fun d => d.sendTo (lpDie lp) p (d.grp g).kids 0
      else match s.dev.downTo g o p.tag with
        | none => discard
        | some ports => s.on fun d =>
          let (ref, d) := d.newRef
          let d := d.sendTo (lpDie lp) p ports ref
          if o.tiled then d else d.chunkOut g o.seq p.tag (pCount p) ref
    | _ => discard

/-- COLL_DOWN. -/
def execCollDown (lp : Fin 2048) (p : Pkt) (s : State) : Host.Outcome State Fault Refusal := .next (collDown s lp p)

/-! Refusals from the parent (R244, R252). -/

/-- COLL_NAK: a transient refusal has the chunk sent again once the hint has passed; others end nothing here. -/
def Dev.collNak (d : Dev) (lp : Nat) (p : Pkt) : Dev :=
  let (d, _) := d.take lp p
  let g := bits p.opf 31 19
  let d := d.groupMeets g
  let code := bits p.opf 63 56
  let hint := bits p.opf 47 32
  if d.gState g ≠ gResident ∨ d.gRoot g = true ∨ d.parentLp g ≠ lp ∨ ¬(code = nNotArmed ∨ code = nNotReady ∨ code = nBusy) then
    d.bump .colDiscard (groupDie g)
  else match (d.grp g).armed.find? fun o => o.seq % 2 ^ 19 == bits p.opf 18 0 with
    | none => d.bump .colDiscard (groupDie g)
    | some o =>
      match SMap.find? o.sent p.tag with
      | none => d.bump .colDiscard (groupDie g)
      | some up =>
        if hint = 0 then d.sendTo (up.flow / 2 ^ 13 % 8) up [lp] 0
        else d.setGrp g { d.grp g with again := (d.grp g).again ++ [(up, d.time.bell + hint)] }

/-- COLL_NAK. -/
def execCollNak (lp : Fin 2048) (p : Pkt) (s : State) : Host.Outcome State Fault Refusal := .next (s.on fun d => d.collNak lp p)

/-- Refused contributions whose hint has passed go again at a bell. -/
def Dev.againBell (d : Dev) : Dev :=
  (d.col.groups.map (·.1)).foldl (fun d g =>
    let x := d.grp g
    let due := x.again.filter fun e => decide (e.2 ≤ d.time.bell)
    if due.isEmpty then d
    else
      let d := d.setGrp g { x with again := x.again.filter fun e => !decide (e.2 ≤ d.time.bell) }
      due.foldl (fun d e => d.sendTo (e.1.flow / 2 ^ 13 % 8) e.1 [d.parentLp g] 0) d) d

/-! Aborts and beacons (R245, R255, 15 R398). -/

/-- The status for an abort code (Table 9-8). -/
def abortStatus (code : Nat) : Nat := if code = 2 then sGroupTimeout else if code = 3 then sPreempted else sGroupBroken

/-- A code as sent on: reserved ones are BROKEN. -/
def abortCode (code : Nat) : Nat := if code = 2 ∨ code = 3 then code else 1

/-- COLL_ABORT from an endpoint child ends the group's operations; any other is discarded. -/
def collAbort (s : State) (lp : Nat) (p : Pkt) : State :=
  let (d, _) := s.dev.take lp p
  let g := pGroup p
  let die := groupDie g
  let s := ({ s with dev := d }).on fun d => (d.groupMeets g).bump .colBeaconRx die
  let len := p.payload.length
  if !(len == 0 || len == 24 || len == 280) || !s.dev.farEndpoint lp || !(s.dev.grp g).kids.contains lp then s
  else ownEnd s g kEndpoint sGroupBroken 1 lp (s.dev.farId lp) [] (some lp)

/-- COLL_ABORT. -/
def execCollAbort (lp : Fin 2048) (p : Pkt) (s : State) : Host.Outcome State Fault Refusal := .next (collAbort s lp p)

/-- FAULT_BEACON from a chip neighbour of the tree ends the group's operations with the code it carries, and its payload
is passed on. -/
def faultBeacon (s : State) (lp : Nat) (p : Pkt) : State :=
  let (d, _) := s.dev.take lp p
  let g := pGroup p
  let die := groupDie g
  let s := ({ s with dev := d }).on fun d => (d.groupMeets g).bump .colBeaconRx die
  let len := p.payload.length
  let kin := (s.dev.grp g).kids.contains lp || (!s.dev.gRoot g && s.dev.parentLp g == lp)
  if !(len == 0 || len == 24 || len == 280) || s.dev.farEndpoint lp || !kin || s.dev.gState g != gResident then s
  else
    let code := bits p.opf 50 48
    let pay := if len = 0 then List.replicate 24 0 else p.payload
    earlyEnd s g ⟨leAt pay 0 4 / 2 ^ 24, abortStatus code, abortCode code, pSeq p, pay, some lp, false⟩ none

/-- FAULT_BEACON. -/
def execFaultBeacon (lp : Fin 2048) (p : Pkt) (s : State) : Host.Outcome State Fault Refusal := .next (faultBeacon s lp p)

/-! The skew timer (R256). -/

/-- The group watchdog trips (15 R389, Table 15-1); COL_TIMEOUT counts it. Table 15-4 has no cause for it and Table 17-3 no
target: free values (assumption 176). -/
def Dev.groupTrip (d : Dev) (g : Nat) (k : Chunk) : Dev :=
  let (x, d) := d.free
  let (t, d) := d.free
  let op := (d.grp g).armed.find? fun o => o.seq == k.seq
  d.trip 2 (groupDie g) (t % 2 ^ 16) sevWarning none { die := groupDie g, cause := x % 2 ^ 8, tenant := some (d.gTenant g)
                                                       ring := op.map fun o => (d.gRing g, o.idx), group := some g }

/-- SKEW_TIMEOUT: an open chunk has waited skew_to; the missing bitmap is written to the record and sent. -/
def skewTimeout (s : State) (g seq chunk : Nat) : State :=
  match s.dev.chunkOf g seq chunk with
  | none => s
  | some k =>
    if s.dev.gState g ≠ gResident ∨ k.kids.length = s.dev.nchild g then s
    else
      let missing := ((s.dev.grp g).kids.filter fun lp => !k.kids.contains lp)
      let bm := portsBitmap missing
      let s := match s.dev.recordAt g with
        | some a => if s.dev.usable (a + 256) 256 then hbmPost s (a + 256) bm 2 else s
        | none => s
      ownEnd (s.on fun d => d.groupTrip g k) g kSkew sGroupTimeout 2 (missing.headD 0) 0 bm none

/-- SKEW_TIMEOUT. -/
def execSkewTimeout (g : Fin 8192) (seq chunk : Nat) (s : State) : Host.Outcome State Fault Refusal :=
  .next (skewTimeout s g seq chunk)

end Sys2Proof.Machine
end

