-- ==== Sys2Proof/Machine/Rings.lean ====
section
/-! DEFINITION. Doorbells, control, progress units and the message service of rings (13_rings_and_tenants.md R343 to R347,
R350 to R359). -/

namespace Sys2Proof.Machine

/-! Starting a descriptor. -/

/-- Bytes or records a descriptor moves (Table 13-9). -/
def dTotal (desc : List Byte) : Nat := if dKind desc = 0x04 then dw desc 7 else dLen desc

/-- The bytes of the unit at an offset. -/
def unitLen (desc : List Byte) (prog : Nat) : Nat := min 4096 (dLen desc - prog)

/-- The lowest free slot of a die's engine for a get. -/
def Dev.getSlot (d : Dev) (die : Nat) : Option Nat := (upto 8192).find? fun i => (SMap.find? d.rng.gets (die * 8192 + i)).isNone

/-- A COPY from REMOTE sends the get of its next unit (R359). -/
def Dev.sendGet (d : Dev) (r : Nat) (x : Run) : Dev :=
  let die := r / 2048
  match d.getSlot die with
  | none => d
  | some i =>
    let n := unitLen x.desc x.prog
    let p : Pkt := { op := 0x12, vc := 0, tclass := bits (dw x.desc 1) 26 24, spray := true, did := bits (dw x.desc 1) 19 0,
                     sid := d.selfDid die, tenant := d.rTenant r, flow := r % 8192, tag := die * 2 ^ 13 + i,
                     opf := (dSrc x.desc + x.prog) % 2 ^ 64, payload := toLE 8 x.prog ++ toLE 2 n ++ toLE 6 0 }
    let d := { d with rng := { d.rng with gets := SMap.insert (die * 8192 + i) ⟨r, x.prog, n⟩ d.rng.gets } }
    (d.setRing r { d.ring r with run := some { x with get := some i } }).originate die p none false false {}

/-- Rings of a die whose unit is in flight (R344). -/
def Dev.unitsLive (d : Dev) (die : Nat) : Nat :=
  (d.rng.rings.filter fun e => e.1 / 2048 == die && e.2.run.any fun x => x.live).length

/-- The ring of a die whose turn for a unit comes first: ACTIVE or SUSPENDING, its unit not in flight. -/
def Dev.nextTurn (d : Dev) (die : Nat) : Option Nat :=
  let due := d.rng.rings.filterMap fun e => match e.2.run with
    | some x => if e.1 / 2048 == die && x.turn != 0 && (d.rState e.1 == rActive || d.rState e.1 == rSuspending) then some (x.turn, e.1) else none
    | none => none
  match due with
  | [] => none
  | x :: t => some (t.foldl (fun (a b : Nat × Nat) => if b.1 < a.1 then b else a) x).2

/-- A unit is in flight from now on; only a unit from REMOTE does something before its end. -/
def Dev.unitStart (d : Dev) (r : Nat) : Dev :=
  match (d.ring r).run with
  | some x =>
    let x := { x with live := true, turn := 0, gone := [] }
    let d := d.setRing r { d.ring r with run := some x }
    if dKind x.desc = 0x01 ∧ dSrcSp x.desc = 4 ∧ x.get = none then d.sendGet r x else d
  | none => d

/-- Units start in turn while fewer than 256 of the die are in flight (R344). -/
def Dev.serveUnits (d : Dev) (die : Nat) : Nat → Dev
  | 0 => d
  | n + 1 =>
    match d.nextTurn die with
    | some r => if d.unitsLive die < 256 then (d.unitStart r).serveUnits die n else d
    | none => d

/-- A ring takes its turn for its next unit: the engine serves the rings of a die round-robin, a unit at a time (R344). -/
def Dev.beginUnit (d : Dev) (r : Nat) : Dev :=
  match (d.ring r).run with
  | some x =>
    if x.live || x.turn != 0 then d
    else
      let k := d.rng.turns + 1
      let d := { d with rng := { d.rng with turns := k } }
      (d.setRing r { d.ring r with run := some { x with turn := k } }).serveUnits (r / 2048) 2
  | none => d

/-- Rings whose units are in flight or wait for a turn, after a unit of the die has ended. -/
def serve (s : State) (r : Nat) : State := s.on fun d => d.serveUnits (r / 2048) 2

/-- A descriptor starts at progress 0; a length or count of 0 completes at once (R351). -/
def startRun (s : State) (r idx : Nat) (desc : List Byte) (acc : Nat) : State :=
  s.on fun d => (d.setRing r { d.ring r with run := some { idx := idx, desc := desc, acc := acc } }).beginUnit r

def startSized (s : State) (r idx : Nat) (desc : List Byte) : State :=
  if dTotal desc = 0 then finish s r idx desc sOk 0 0 0
  else startRun s r idx desc (if dKind desc = 0x03 then 0xFFFFFFFF else 0)

/-- A transfer of one kind starts. -/
def startKind (s : State) (r : Nat) (host : HostData) (k : Nat) : State :=
  startDesc s r host (· == k) fun s idx desc => checked s r idx desc fun s => startSized s r idx desc

/-- COPY. -/
def execCopy (ring : Fin 16384) (host : HostData) (s : State) : Host.Outcome State Fault Refusal :=
  .next (startKind s ring host 0x01)

/-- FILL. -/
def execFill (ring : Fin 16384) (host : HostData) (s : State) : Host.Outcome State Fault Refusal :=
  .next (startKind s ring host 0x02)

/-- CHECKSUM. -/
def execChecksum (ring : Fin 16384) (host : HostData) (s : State) : Host.Outcome State Fault Refusal :=
  .next (startKind s ring host 0x03)

/-- TABLE_LOAD. -/
def execTableLoad (ring : Fin 16384) (host : HostData) (s : State) : Host.Outcome State Fault Refusal :=
  .next (startKind s ring host 0x04)

/-- SCRUB. -/
def execScrub (ring : Fin 16384) (host : HostData) (s : State) : Host.Outcome State Fault Refusal :=
  .next (startKind s ring host 0x05)

/-- The staging area takes IMAGE_STAGE: it is allocated and no update operation runs (12 R337, 16 R423). -/
def Dev.stageOpen (d : Dev) : Bool := d.rdB .secStageBaseHi 0 31 && !d.rdB .secUpdStatus 0 31

/-- IMAGE_STAGE (16 R422, R423). -/
def execImageStage (ring : Fin 16384) (host : HostData) (s : State) : Host.Outcome State Fault Refusal :=
  .next (startDesc s ring host (· == 0x30) fun s idx desc => checked s ring idx desc fun s =>
    if s.dev.stageOpen then startSized s ring idx desc else invalid s ring idx desc cState)

/-- INVALID_DESCRIPTOR: a reserved kind. -/
def execInvalidDescriptor (ring : Fin 16384) (host : HostData) (s : State) : Host.Outcome State Fault Refusal :=
  .next (startDesc s ring host (fun k => descMask k == []) fun s idx desc => invalid s ring idx desc cKind)

/-! Cancelling (R357). -/

/-- A cancelled snapshot or restore of a ring leaves its table (10 R281, Table 10-7). -/
def Dev.cancelEmb (d : Dev) (r : Nat) (desc : List Byte) : Dev :=
  let t := bits (dw desc 1) 11 0
  match dKind desc with
  | 0x10 =>
    if (SMap.find? d.emb.snaps t).any fun x => x.ring == some r then
      let d := if d.snapState t = snCopying then d.setSnap t snNone else d
      { d with emb := { d.emb with snaps := SMap.erase d.emb.snaps t } }
    else d
  | 0x11 => if d.batchState t = bRestoring then d.setBatch t bIdle else d
  | _ => d

/-- CANCEL ends descriptor idx with its record; what remains is skipped, or the ring goes on. A reclaimed ring that would go
on to ACTIVE rests in SUSPENDED, as reclaimed rings do (R361, R362; DEDUCED, assumption 162). Where nothing is posted at
sq_head, the record names that index and sq_head stays. -/
def cancelEnd (s : State) (r idx : Nat) (desc : List Byte) (prog : Nat) (all paused : Bool) : State :=
  let nxt := idxAdd idx 1
  let skipped := if all && s.dev.sqTail r != idx then idxSub (s.dev.sqTail r) nxt else 0
  let s := s.on fun d =>
    let posted := (d.ring r).run.isSome || d.left r != 0
    let d := (d.setRing r { d.ring r with run := none, cancelAll := false }).cancelEmb r desc
    if all then ((d.setRing r { d.ring r with loopExit := false }).setSqHead r (d.sqTail r)).setRState r rIdle
    else
      let d := if posted then d.advance r idx false else d
      if d.left r = 0 ∧ d.inLoop r = false then d.setRState r rIdle
      else if paused || d.rReclaimed r then (d.hold r (d.sqHead r) 0 0).setRState r rSuspended
      else d.setRState r rActive
  addRec s r (mkRec idx desc sCancelled true 0 prog skipped)

/-- CANCEL of armed collectives: an early end (09 Table 9-11), and with all = 1 the ring goes to IDLE, every descriptor that
is not armed is skipped, and the records give their number (R255, R357; DEDUCED, assumption 160). -/
def cancelColl (s : State) (r : Nat) (all : Bool) : State :=
  let g := s.dev.rGroup r
  if s.dev.gState g ≠ gResident then s
  else
    let skipped := if all then some (s.dev.left r - (s.dev.ringOps r).length) else none
    let s := earlyEnd s g (s.dev.ownCause g kCancel sCancelled 1 0 0 [] none) skipped
    if all then s.on fun d => ((d.setRing r { d.ring r with loopExit := false }).setSqHead r (d.sqTail r)).setRState r rIdle
    else s

/-- A unit is in flight: it ends before CANCEL acts. -/
def Dev.inFlight (d : Dev) (r : Nat) : Bool :=
  ((d.ring r).run.any fun x => x.live) && (d.rState r == rActive || d.rState r == rSuspending)

/-- CANCEL. -/
def ringCancel (s : State) (r : Nat) (all : Bool) : State :=
  let d := s.dev
  let st := d.rState r
  if 1 ≤ st ∧ st ≤ 4 then
    if d.inFlight r then s.on fun d => (d.setRing r { d.ring r with cancelAll := all }).setRState r rCancelling
    else if !(d.ringOps r).isEmpty then cancelColl s r all
    else
      let paused := st == rSuspended || st == rFaulted
      match (d.ring r).run with
      | some x => cancelEnd s r x.idx x.desc x.prog all paused
      | none => cancelEnd s r (d.sqHead r) [] 0 all paused
  else if st = rError ∧ all = true then cancelEnd s r (d.sqHead r) [] 0 true true
  else s.on fun d => d.bump .rngCtrlIgn (r / 2048)

/-! Control (R343, R354, R356). -/

/-- SUSPEND. -/
def ringSuspendCmd (s : State) (r : Nat) : State :=
  if s.dev.rState r = rActive then settle (s.on fun d => d.setRState r rSuspending) r
  else s.on fun d => d.bump .rngCtrlIgn (r / 2048)

/-- What RESUME takes up again beside a unit: a snapshot or restore of its table (10 R281, R363), or an EMB_COMMIT, whose
descriptor is issued again (R355). -/
def Dev.resumeEmb (d : Dev) (r : Nat) : Dev :=
  match (d.ring r).run with
  | none => d
  | some x =>
    let t := bits (dw x.desc 1) 11 0
    match dKind x.desc with
    | 0x10 =>
      if x.dropped then d else
      let d := if d.batchState t = bCommitting then d else d.setSnap t snCopying
      { d with emb := { d.emb with snaps := SMap.insert t ⟨some r, d.batchState t == bCommitting, x.prog⟩ d.emb.snaps } }
    | 0x11 => if d.batchState t = bIdle && !x.dropped then d.setBatch t bRestoring else d
    | 0x12 => if (SMap.find? d.emb.commits t).any fun c => c.ring == some r then d else d.setRing r { d.ring r with run := none }
    | _ => d

/-- RESUME. -/
def ringResume (s : State) (r : Nat) : State :=
  let d := s.dev
  let st := d.rState r
  if d.rReclaimed r = false ∧ (st = rSuspended ∨ st = rFaulted ∨ st = rError) then
    let s := s.on fun d => ((d.setRState r rActive).resumeEmb r).beginUnit r
    settle (flushRecs s r 64) r
  else s.on fun d => d.bump .rngCtrlIgn (r / 2048)

/-- A control word (R347). -/
def ringCtrl (s : State) (r : Nat) (w : Nat) : State :=
  match bits w 31 28 with
  | 1 => ringSuspendCmd s r
  | 2 => ringResume s r
  | 3 => ringCancel s r (bit w 0)
  | _ => s.on fun d => d.bump .rngCtrlIgn (r / 2048)

/-! Doorbells (R346, R347). -/

/-- A doorbell that is rejected is counted. -/
def Dev.dbReject (d : Dev) (r : Nat) : Dev := d.bump .rngDbReject (r / 2048)

/-- Descriptors already started, counted from where the posted ones begin: in a loop that has run a pass, all of it, and
never more than the loop holds. -/
def Dev.startedFrom (d : Dev) (r : Nat) : Nat :=
  let n := idxSub (d.sqHead r) (d.postedFrom r) + d.started r
  if !d.inLoop r then n else if d.rf r 15 23 0 != 0 then d.loopLen r else min (d.loopLen r) n

/-- An SQ word. -/
def ringSq (s : State) (r : Nat) (w : Nat) : State :=
  let d := s.dev
  let t := bits w 15 0
  let n := idxSub t (d.postedFrom r)
  if n < d.startedFrom r ∨ 2 ^ d.sqLog2 r < n then s.on fun d => d.dbReject r
  else
    let s := s.on fun d =>
      let d := d.setRf r 10 31 16 t
      let d := if bit w 31 && d.rLoop r then d.setRing r { d.ring r with loopExit := true } else d
      if d.rState r = rIdle ∧ d.left r ≠ 0 then
        if d.rReclaimed r then (d.hold r (d.sqHead r) 0 0).setRState r rSuspended else d.setRState r rActive
      else d
    settle (if s.dev.rState r = rFaulted then s else flushRecs s r 64) r

/-- A CQ word: a head that passes cq_tail is rejected; records that waited are written. -/
def ringCq (s : State) (r : Nat) (w : Nat) : State :=
  let d := s.dev
  let h := bits w 15 0
  if idxSub (d.cqTail r) (d.cqHead r) < idxSub h (d.cqHead r) then s.on fun d => d.dbReject r
  else
    let s := s.on fun d => d.setRf r 11 31 16 h
    if s.dev.rState r = rFaulted ∧ s.dev.rf r 15 31 24 = cRingMem then s else flushRecs s r 64

/-- A host's write to a doorbell page acts (R346); in the Recovery Service BAR2 ignores writes (16 R424). -/
def dbWrite (who : Partner) (r : Nat) (f : State → State) (s : State) : State :=
  let s := s.on fun d => if d.recovery then d else d.ringMeets r
  if s.dev.recovery then s
  else match who.host with
    | some h => if s.dev.rValid r && bit (s.dev.rw r 0) (20 + h) then f s else s.on fun d => d.dbReject r
    | none => s.on fun d => d.dbReject r

/-- RNG_DB_SQ. -/
def execRngDbSq (who : Partner) (ring : Fin 16384) (w : Word) (s : State) : Host.Outcome State Fault Refusal :=
  .next (dbWrite who ring (fun s => ringSq s ring w.toNat) s)

/-- RNG_DB_CQ. -/
def execRngDbCq (who : Partner) (ring : Fin 16384) (w : Word) (s : State) : Host.Outcome State Fault Refusal :=
  .next (dbWrite who ring (fun s => ringCq s ring w.toNat) s)

/-- SUSPEND: RNG_DB_CTRL with cmd 1. -/
def execSuspend (who : Partner) (ring : Fin 16384) (s : State) : Host.Outcome State Fault Refusal :=
  .next (dbWrite who ring (fun s => ringSuspendCmd s ring) s)

/-- RESUME: cmd 2. -/
def execResume (who : Partner) (ring : Fin 16384) (s : State) : Host.Outcome State Fault Refusal :=
  .next (dbWrite who ring (fun s => ringResume s ring) s)

/-- CANCEL: cmd 3. -/
def execCancel (who : Partner) (ring : Fin 16384) (all : Bool) (s : State) : Host.Outcome State Fault Refusal :=
  .next (dbWrite who ring (fun s => ringCancel s ring all) s)

/-- CTRL_UNKNOWN: a word whose cmd is none of these is ignored and counted. -/
def execCtrlUnknown (who : Partner) (ring : Fin 16384) (w : Word) (s : State) : Host.Outcome State Fault Refusal :=
  .next (dbWrite who ring (fun s => ringCtrl s ring w.toNat) s)

/-- RING_DOORBELL (R348): before READY as for an invalid context (Table 16-9). -/
def ringDoorbell (s : State) (lp : Nat) (p : Pkt) : State :=
  let r := p.opf / 2 ^ 50 % 2 ^ 14
  let die := lpDie lp
  let w := p.opf % 2 ^ 32
  let d := (s.dev.take lp p).1.ringMeets r
  let s := { s with dev := d }
  let ok := (p.did == linkLocal || p.did == d.selfDid die) && d.isReady && d.rValid r && bit (d.rw r 0) 22 &&
    p.sid == d.rf r 6 19 0 && p.tenant == d.rTenant r
  if !ok then s.on fun d => d.dbReject r
  else match bits p.opf 49 48 with
    | 0 => ringSq s r w
    | 1 => ringCq s r w
    | 2 => ringCtrl s r w
    | _ => s.on fun d => d.dbReject r

/-- RING_DOORBELL. -/
def execRingDoorbell (lp : Fin 2048) (p : Pkt) (s : State) : Host.Outcome State Fault Refusal := .next (ringDoorbell s lp p)

/-! Units (R354, R355, Table 13-9). -/

/-- A unit of a running descriptor has ended: n more of its total, the partial result, and the result of its end. -/
def unitDone (s : State) (r n acc result : Nat) : State :=
  match (s.dev.ring r).run with
  | none => s
  | some x =>
    let x := { x with prog := x.prog + n, acc := acc, get := none, live := false }
    let s := s.on fun d => (d.setRing r { d.ring r with run := some x }).unitCount r
    if s.dev.rState r = rCancelling then cancelEnd s r x.idx x.desc x.prog (s.dev.ring r).cancelAll false
    else if dTotal x.desc ≤ x.prog then finish s r x.idx x.desc sOk 0 x.prog result
    else if s.dev.rState r = rSuspending then ringSuspend s r x.idx x.desc x.prog acc
    else s.on fun d => d.beginUnit r

/-- A fault in a unit (R355): the descriptor is held at the whole units done. -/
def unitFault (s : State) (r code : Nat) : State :=
  match (s.dev.ring r).run with
  | none => s
  | some x =>
    let s := s.on fun d => d.setRing r { d.ring r with run := some { x with get := none, live := false } }
    if s.dev.rState r = rCancelling then cancelEnd s r x.idx x.desc x.prog (s.dev.ring r).cancelAll false
    else ringFault s r x.idx x.desc code x.prog x.acc

/-- A unit cannot go on: it waits while its class is paused, uncorrectable data ends the descriptor with UNCORR, another
code is a fault. -/
def unitFail (s : State) (r code : Nat) : State :=
  match (s.dev.ring r).run with
  | none => s
  | some x =>
    if code = cWait then s
    else if s.dev.rState r = rCancelling then cancelEnd s r x.idx x.desc x.prog (s.dev.ring r).cancelAll false
    else if code = cMemory then finish s r x.idx x.desc sUncorr cMemory x.prog 0
    else unitFault s r code

/-- Bytes that a ring has written (RNG_BYTES, RING_BYTES, Table 17-5). -/
def Dev.wroteBytes (d : Dev) (r n : Nat) : Dev :=
  let die := r / 2048
  let t := d.rTenant r
  ((d.bump64 .rngBytesLo .rngBytesHi die n).ocu die 30 { tenant := some t } n).page t tRingBytes n

/-- The bytes of a unit are written at their place in a space, and the unit ends. -/
def unitWrite (s : State) (r : Nat) (x : Run) (sp a : Nat) (bs : List Byte) : State :=
  match spaceWrite s (r / 2048) sp (s.dev.rTenant r) (a + x.prog) bs (s.dev.ringCls r) with
  | (s, 0) => unitDone (s.on fun d => d.wroteBytes r bs.length) r bs.length x.acc 0
  | (s, c) => unitFail s r c

/-- The bytes of a unit read at their place in the source. -/
def unitRead (s : State) (r : Nat) (x : Run) (n : Nat) (host : HostData) : State × (Nat ⊕ List Byte) :=
  spaceRead s (r / 2048) (dSrcSp x.desc) (s.dev.rTenant r) (dSrc x.desc + x.prog) n (s.dev.ringCls r) host

/-- The unit's put still waits for admission. -/
def Dev.putWaits (d : Dev) (r : Nat) : Bool :=
  d.keep.unsent.any fun u => u.die == r / 2048 && u.pkt.op == 0x11 && u.pkt.flow == dieFlow (r / 2048) (r % 8192)

/-- A unit to REMOTE is sent as a put (R359); it ends when the put has been admitted. -/
def unitPut (s : State) (r : Nat) (x : Run) (n : Nat) (bs : List Byte) : State :=
  let die := r / 2048
  let s := s.on fun d =>
    let p : Pkt := { op := 0x11, vc := 2, tclass := bits (dw x.desc 1) 26 24, spray := true, did := bits (dw x.desc 1) 19 0,
                     sid := d.selfDid die, tenant := d.rTenant r, flow := r % 8192, opf := (dDst x.desc + x.prog) % 2 ^ 64,
                     payload := bs }
    (d.originate die p none false false {}).wroteBytes r n
  if s.dev.putWaits r then s.on fun d => d.setRing r { d.ring r with run := some { x with acc := 1 } }
  else unitDone s r n 0 0

/-- A unit of a COPY. -/
def unitCopy (s : State) (r : Nat) (x : Run) (host : HostData) : State :=
  let n := unitLen x.desc x.prog
  if dSrcSp x.desc = 4 then (if x.get = none then s.on fun d => d.sendGet r x else s)
  else if dDstSp x.desc = 4 ∧ x.acc = 1 then (if s.dev.putWaits r then s else unitDone s r n 0 0)
  else match unitRead s r x n host with
    | (s, .inl c) => unitFail s r c
    | (s, .inr bs) => if dDstSp x.desc = 4 then unitPut s r x n bs else unitWrite s r x (dDstSp x.desc) (dDst x.desc) bs

/-- The 8-byte pattern of a FILL, repeated over n bytes. -/
def fillBytes (desc : List Byte) (n : Nat) : List Byte :=
  let p := toLE 8 (dw desc 8 * 2 ^ 32 + dw desc 9)
  ((List.replicate ((n + 7) / 8) p).flatten).take n

/-- A record of a TABLE_LOAD as a TAP command: op 0 WRITE, 1 INSERT, 2 DELETE. -/
def loadCmd (desc rec96 : List Byte) : TapCmd :=
  let t := bits (dw desc 0) 18 15
  { op := bits (dw desc 0) 10 9 + 1, table := t, gen := if t ≤ 2 then bits (dw desc 0) 14 14 else 0
    pipe := bits (dw desc 0) 13 11
    key := (upto 8).map fun i => word (leAt rec96 (4 * i) 4)
    data := (upto 16).map fun i => word (leAt rec96 (32 + 4 * i) 4) }

/-- A TAP refuses a record: the descriptor ends with INVALID and code TAP (R350). -/
def loadRefused (s : State) (r : Nat) (x : Run) (err : Nat) : State :=
  if s.dev.rState r = rCancelling then cancelEnd s r x.idx x.desc x.prog (s.dev.ring r).cancelAll false
  else finish s r x.idx x.desc sInvalid (32 + err) x.prog 0

/-- The command of number n has landed. -/
def Dev.landed (d : Dev) (n : Nat) : Bool := !d.tab.bcQueue.any fun b => b.seq == n

/-- A record of a TABLE_LOAD is issued: through the broadcast TAP for a replicated table, where the last command must land
before the descriptor completes. A busy TAP or a full queue lets the unit wait. -/
def unitLoad (s : State) (r : Nat) (x : Run) (host : HostData) : State :=
  let t := bits (dw x.desc 0) 18 15
  if x.prog = dw x.desc 7 then (if s.dev.landed x.acc then finish s r x.idx x.desc sOk 0 x.prog 0 else s)
  else if replicated t then
    if s.dev.tab.bcHeld.isSome || decide (4096 ≤ s.dev.tab.bcQueue.length) then s
    else match spaceRead s (r / 2048) (dSrcSp x.desc) (s.dev.rTenant r) (dSrc x.desc + 96 * x.prog) 96 (s.dev.ringCls r) host with
      | (s, .inl c) => unitFail s r c
      | (s, .inr bs) =>
        let c := loadCmd x.desc bs
        let e := s.dev.bcForm c
        if e ≠ 0 then loadRefused s r x e
        else
          let s := s.on fun d => d.bcEnqueue ⟨0, c.op, c.table, c.gen, c.key, c.data, 0⟩
          let seq := s.dev.rdN .tapBcSeq 0
          if x.prog + 1 = dw x.desc 7 ∧ s.dev.rState r ≠ rCancelling then
            s.on fun d => (d.setRing r { d.ring r with run := some { x with prog := x.prog + 1, acc := seq } }).unitCount r
          else unitDone s r 1 seq 0
  else
    let die := bits (dw x.desc 0) 8 6
    if (SMap.find? s.dev.tab.busy die).isSome then s
    else match spaceRead s (r / 2048) (dSrcSp x.desc) (s.dev.rTenant r) (dSrc x.desc + 96 * x.prog) 96 (s.dev.ringCls r) host with
      | (s, .inl c) => unitFail s r c
      | (s, .inr bs) =>
        match dieTap s die (loadCmd x.desc bs) with
        | (s, t) => if t.err ≠ 0 then loadRefused s r x t.err else unitDone s r 1 x.acc 0

/-- TABLE_LOADs whose last command has landed complete (R350). -/
def loadsLanded (s : State) : State :=
  s.dev.rng.rings.foldl (fun s e =>
    match (s.dev.ring e.1).run with
    | some x =>
      if dKind x.desc = 0x04 ∧ x.prog = dw x.desc 7 ∧ s.dev.landed x.acc = true then
        if s.dev.rState e.1 = rCancelling then cancelEnd s e.1 x.idx x.desc x.prog (s.dev.ring e.1).cancelAll false
        else finish s e.1 x.idx x.desc sOk 0 x.prog 0
      else s
    | none => s) s

/-- A unit of an IMAGE_STAGE: it writes from offset 0 of the staging area (16 R422). -/
def unitStage (s : State) (r : Nat) (x : Run) (host : HostData) : State :=
  let n := unitLen x.desc x.prog
  if !s.dev.stageOpen then finish s r x.idx x.desc sInvalid cState x.prog 0
  else match unitRead s r x n host with
    | (s, .inl c) => unitFail s r c
    | (s, .inr bs) => unitWrite s r x 0 (s.dev.rdBase .secStageBaseLo .secStageBaseHi 0) bs

/-- A PATTERN_RUN ends: its result is the number of vectors that differed (15 R406). -/
def unitPattern (s : State) (r : Nat) (x : Run) : State :=
  if s.dev.rState r = rCancelling then cancelEnd s r x.idx x.desc 0 (s.dev.ring r).cancelAll false
  else finish s r x.idx x.desc sOk 0 0 x.acc

/-- The unit in flight of a ring is carried out and ends; `host` is what host memory answers to its read. Units of the
embedding service are in its own file. -/
def ringUnit (s : State) (r : Nat) (x : Run) (host : HostData) : State :=
  match dKind x.desc with
  | 0x01 => unitCopy s r x host
  | 0x02 => unitWrite s r x (dDstSp x.desc) (dDst x.desc) (fillBytes x.desc (unitLen x.desc x.prog))
  | 0x03 =>
    match unitRead s r x (unitLen x.desc x.prog) host with
    | (s, .inl c) => unitFail s r c
    | (s, .inr bs) =>
      let c := crc32cSeed x.acc bs
      unitDone s r bs.length c (xorN c 0xFFFFFFFF)
  | 0x04 => unitLoad s r x host
  | 0x05 => unitWrite s r x (dDstSp x.desc) (dDst x.desc) (List.replicate (unitLen x.desc x.prog) 0)
  | 0x30 => unitStage s r x host
  | 0x31 => unitPattern s r x
  | _ => s

/-! The message service (R358). -/

/-- A reclaim of the tenant is under way, from bell b on. -/
def Dev.underReclaim (d : Dev) (tenant : Nat) : Bool :=
  match d.rng.reclaim with
  | some x => x.begun && x.tenant == tenant
  | none => false

/-- MSG_PUT: written in the tenant's pool at P3, or discarded and counted; it waits while P3 is paused. -/
def msgPut (s : State) (lp : Nat) (p : Pkt) : State :=
  let die := lpDie lp
  let s0 := s
  let s := s.on fun d => (d.take lp p).1
  if s.dev.underReclaim p.tenant then s.on fun d => d.bump .rngMsgDrop die
  else match poolWrite s die p.tenant p.opf p.payload 3 with
    | (_, 255) => s0
    | (s, 0) => s.on fun d => d.bump .rngMsgPut die
    | (s, _) => s.on fun d => d.bump .rngMsgDrop die

/-- MSG_PUT. -/
def execMsgPut (lp : Fin 2048) (p : Pkt) (s : State) : Host.Outcome State Fault Refusal := .next (msgPut s lp p)

/-- The answer to a get: the bytes, or length 0 and end = ABORT. -/
def Dev.answerGet (d : Dev) (die : Nat) (p : Pkt) (bs : Option (List Byte)) (resv : Resv) : Dev :=
  let (flow, d) := d.freeFlow die
  let q : Pkt := { op := 0x13, vc := 1, did := p.sid, sid := d.selfDid die, tenant := p.tenant, tclass := p.tclass,
                   flow := flow, tag := p.tag, opf := leAt p.payload 0 8, payload := bs.getD [] }
  let d := d.originate die q none (p.did == linkLocal) false resv
  if bs.isSome then d.bump .rngMsgGet die else d.bump .rngGetAbort die

/-- MSG_GET_REQ: bytes 8 and 9 of the payload are the count (03 R81). -/
def msgGetReq (s : State) (lp : Nat) (p : Pkt) : State :=
  let die := lpDie lp
  let (d, resv) := s.dev.take lp p
  let s0 := s
  let s := { s with dev := d }
  let n := leAt p.payload 8 2
  if p.payload.length ≠ 16 ∨ n = 0 ∨ 4096 < n then s.on fun d => d.answerGet die p none resv
  else match poolRead s die p.tenant p.opf n 3 with
    | (s, .inl c) => if c = cWait then s0 else s.on fun d => d.answerGet die p none resv
    | (s, .inr bs) => s.on fun d => d.answerGet die p (some bs) resv

/-- MSG_GET_REQ. -/
def execMsgGetReq (lp : Fin 2048) (p : Pkt) (s : State) : Host.Outcome State Fault Refusal :=
  .next (vc0Order lp p (fun s => msgGetReq s lp p) s)

/-- A get ends: its slot is free. -/
def Dev.endGet (d : Dev) (k : Nat) : Dev := { d with rng := { d.rng with gets := SMap.erase d.rng.gets k } }

/-- MSG_GET_RSP: matched on the die and slot of its tag; `abort`: it ended ABORT. -/
def msgGetRsp (s : State) (lp : Nat) (p : Pkt) (abort : Bool) : State :=
  let s0 := s
  let s := s.on fun d => (d.take lp p).1
  let k := p.tag / 2 ^ 13 % 8 * 8192 + p.tag % 2 ^ 13
  match SMap.find? s.dev.rng.gets k with
  | none => s.on fun d => d.bump .rngMsgDrop (k / 8192)
  | some g =>
    let s := s.on fun d => d.endGet k
    match (s.dev.ring g.ring).run with
    | some x =>
      if x.get = some (k % 8192) then
        if abort || p.payload.length != g.len then serve (unitFault s g.ring cRemote) g.ring
        else if (spaceWrite s (g.ring / 2048) (dDstSp x.desc) (s.dev.rTenant g.ring) (dDst x.desc + x.prog) p.payload (s.dev.ringCls g.ring)).2 = cWait then s0
        else serve (unitWrite s g.ring x (dDstSp x.desc) (dDst x.desc) p.payload) g.ring
      else s
    | none => s

/-- MSG_GET_RSP. -/
def execMsgGetRsp (lp : Fin 2048) (p : Pkt) (abort : Bool) (s : State) : Host.Outcome State Fault Refusal :=
  .next (msgGetRsp s lp p abort)

/-- GET_TIMEOUT: no answer within get_timeout faults the unit. -/
def getTimeout (s : State) (die slot : Nat) : State :=
  let k := die * 8192 + slot
  match SMap.find? s.dev.rng.gets k with
  | none => s
  | some g =>
    let s := s.on fun d => d.endGet k
    match (s.dev.ring g.ring).run with
    | some x => if x.get = some slot then serve (unitFault s g.ring cRemote) g.ring else s
    | none => s

/-- GET_TIMEOUT. -/
def execGetTimeout (die : Fin 8) (slot : Nat) (s : State) : Host.Outcome State Fault Refusal := .next (getTimeout s die slot)

end Sys2Proof.Machine
end

