-- ==== Sys2Proof/Machine/Memory.lean ====
section
/-! DEFINITION. The rack memory fabric (11_rack_memory_fabric.md): windows and translation, the checks of requests, the
pending tables, order, combining and absorption, peers, and failures. -/

namespace Sys2Proof.Machine

/-- Subcodes (Table 11-6). -/
def uNone : Nat := 0
def uNoWindow : Nat := 1
def uAccess : Nat := 2
def uPage : Nat := 3
def uStack : Nat := 4
def uAlign : Nat := 5
def uFormat : Nat := 6
def uPort : Nat := 7
def uTimeout : Nat := 8
def uTenant : Nat := 9
def uPeer : Nat := 10
def uMemory : Nat := 11
def uLocal : Nat := 12

/-! Arithmetic (Table 11-5). -/

/-- FADDF: the sum formed exactly and rounded once to nearest even. -/
def fp32Add (a b : Nat) : Nat :=
  let e := fun x => decodeScalar 0 x
  let acc := ((({} : Acc).add opSum 32 (e a)).add opSum 32 (e b))
  ofLE (roundChunk ⟨opSum, 0, 1, false, false, false⟩ [acc] fun _ => 0).1

/-- The new value of an operation on w bytes; CAS has its own. -/
def atomApply (aop w v op : Nat) : Nat :=
  let n := 2 ^ (8 * w)
  match aop with
  | 0 => (v + op) % n
  | 1 => fp32Add v op
  | 4 => andN v op
  | 5 => orN v op
  | 6 => xorN v op
  | 7 => if toSigned (8 * w) op < toSigned (8 * w) v then op else v
  | 8 => if toSigned (8 * w) v < toSigned (8 * w) op then op else v
  | 9 => min v op
  | 10 => max v op
  | _ => op

/-- The new value that a request gives. -/
def atomNew (p : Pkt) (v : Nat) : Nat :=
  let w := mWidth p
  if mSub p = 3 then (if leAt p.payload 0 w = v then leAt p.payload w w else v) else atomApply (mSub p) w v (leAt p.payload 0 w)

/-- Operations that combine (Table 11-5); FADDF only in HBM. -/
def combinable (p : Pkt) (peer : Bool) : Bool := mSub p != 3 && !(mSub p == 1 && peer)

/-! Stores: the bytes enabled of the line, and the line's data. -/

def storeMask (p : Pkt) (addr : Nat) : Nat :=
  let n := p.payload.length
  let o := addr % 64
  if !mStore p then 0
  else if p.op = opWr then (if n = 72 then leAt p.payload 0 8 else 2 ^ 64 - 1)
  else (if n = mSize p then 2 ^ mSize p - 1 else leAt p.payload 0 4) * 2 ^ o

def storeData (p : Pkt) (addr : Nat) : List Byte :=
  let n := p.payload.length
  let s := mBytes p
  slice (List.replicate (addr % 64) 0 ++ p.payload.drop (n - s)) 0 64

/-! Answers (R293, R296, R297). -/

/-- An answer: a refusal's code, subcode and hint, or the data, with comb and absorbed. -/
structure MemAns where
  nak : Option (Nat × Nat × Nat) := none
  data : List Byte := []
  comb : Bool := false
  absorbed : Bool := false

/-- A MEM_NAK is counted and sent. -/
def Dev.memNakOut (d : Dev) (die lp : Nat) (p : Pkt) (resv : Resv) (code sub hint : Nat) (win : Option Nat) : Dev :=
  let w := match win with
    | some i => 2 ^ 27 + i % 2 ^ 12 * 2 ^ 15
    | none => 0
  let d := if 1 ≤ code ∧ code ≤ 9 then d.bump .memNakCnt (die * 10 + code) else d
  let d := (d.ocu die 22 { tenant := some p.tenant, lp := some lp } 1).page p.tenant tMemNak 1
  d.sendNak die 0x2A 1 lp p code hint (sub % 16 * 2 ^ 28 + w) resv

/-- A request performed is counted. -/
def Dev.memDone (d : Dev) (die lp tenant : Nat) : Dev :=
  ((d.bump64 .memReqLo .memReqHi die 1).ocu die 19 { tenant := some tenant, lp := some lp } 1).page tenant tMemReq 1

/-- The answer of a request on success; MEM_RED has none. -/
def Dev.memReply (d : Dev) (die lp : Nat) (p : Pkt) (resv : Resv) (a : MemAns) : Dev :=
  if p.op = opRed then d.unreserve resv
  else
    let data := mRead p || p.op == opAtomic
    let addr := if p.op = opFence then 0 else mAddr p
    d.originate die
      { op := if data then 0x28 else 0x29, vc := 1, did := p.sid, sid := d.selfDid die, tenant := p.tenant,
        tclass := p.tclass, flow := p.flow, tag := p.tag, payload := if data then a.data else [],
        opf := b2n a.comb * 2 ^ 63 + (if data then 0 else b2n a.absorbed * 2 ^ 62) + addr } (some lp) true false resv

/-! Checks (Table 11-7). -/

/-- A refusal: the die that sends it, code, subcode, hint and matched window. -/
structure MemNo where
  die : Nat
  code : Nat
  sub : Nat
  hint : Nat := 0
  win : Option Nat := none

/-- Check 3, format: length, mask, sub, w64 and flags of Tables 11-4 and 11-5. -/
def memFormat (p : Pkt) : Bool :=
  let n := p.payload.length
  let plain := mSub p == 0 && !mW64 p
  let aop := mSub p
  let w := mWidth p
  match p.op with
  | 0x20 => n == 0 && plain && !mRel p
  | 0x21 => n == 0 && decide (mSub p ≤ 2) && !mW64 p && !mRel p
  | 0x22 => (n == 64 || n == 72) && plain && !mAcq p
  | 0x23 => decide (mSub p ≤ 2) && !mW64 p && !mAcq p &&
      (n == mSize p || (n == mSize p + 4 && decide (leAt p.payload 0 4 < 2 ^ mSize p)))
  | 0x24 => decide (aop ≤ 10) && !(aop == 1 && mW64 p) && n == (if aop = 3 then 2 * w else w)
  | 0x25 => decide (aop ≤ 10) && !(aop == 1 && mW64 p) && aop != 2 && aop != 3 && n == w && !mAcq p
  | 0x26 => n == 0 && plain && !mAcq p && !mRel p
  | _ => false

/-- Check 3, alignment. -/
def memAligned (p : Pkt) : Bool := p.op == opFence || mAddr p % mBytes p == 0

/-- The page of a tenant that its fabric bit opens. -/
def Dev.fabPageOf (d : Dev) (tenant : Nat) : Option Nat :=
  match d.pageOf tenant with
  | some p => if wbit (d.rd .ocuTpg p) 29 then some p else none
  | none => none

/-- n bytes of a counter page at offset o. -/
def Dev.pageBytes (d : Dev) (p o n : Nat) : List Byte :=
  (upto n).map fun i => (toLE 4 (d.pageWord p ((o + i) / 4))).getD ((o + i) % 4) 0

/-- Where a request goes: a fence, a counter page, or the port of a peer, the address and the performing die. -/
inductive MemTo where
  | fence
  | page (p : Nat)
  | line (die : Nat) (peer : Option Nat) (addr win : Nat) (nc : Bool)

/-- Checks 1 to 3, on the ingress die. -/
def Dev.memEarly (d : Dev) (lp : Nat) (p : Pkt) : Option MemNo :=
  let die := lpDie lp
  if !d.isReady then some ⟨die, nNotReady, uNone, d.rdF .memCfg die 15 8, none⟩
  else if !d.isRack lp || !(p.did == linkLocal || p.did == d.selfDid die) then some ⟨die, nPerm, uLocal, 0, none⟩
  else if !memFormat p then some ⟨die, nMalformed, uFormat, 0, none⟩
  else if !memAligned p then some ⟨die, nMalformed, uAlign, 0, none⟩
  else none

/-- The access bit of a window for a request. -/
def winAdmits (ws : List Word) (p : Pkt) : Bool :=
  let w0 := wat ws 0
  if mRead p then bit w0 28 else if mStore p then bit w0 27 else bit w0 26

/-- Check 6 (R292). -/
def memTranslate (s : State) (lp : Nat) (p : Pkt) (win : Nat) (ws : List Word) : State × (MemNo ⊕ MemTo) :=
  let die := lpDie lp
  let o := mAddr p - winBase ws
  let nc := mNc p || bit (wat ws 0) 24
  let no := fun die code sub => (MemNo.mk die code sub 0 (some win))
  let inHbm := fun (s : State) (h : Nat) =>
    let own := h / 2 ^ 36 / 4
    (s, if s.dev.usable h (mBytes p) then .inr (MemTo.line own none h win nc) else .inl (no own nFault uStack))
  match winTarget ws with
  | 0 =>
    let a := winTo ws + o
    if a ≥ 2 ^ 41 then (s, .inl (no die nFault uPage))
    else match pmapLookup s die p.tenant (a / 2 ^ 21) with
      | (d, none) => ({ s with dev := d }, .inl (no die nFault uPage))
      | (d, some e) =>
        let s := { s with dev := d }
        let h := pmapHpa e * 2 ^ 21 + a % 2 ^ 21
        if pmapRo e && !mRead p then (s, .inl (no (h / 2 ^ 36 / 4) nPerm uAccess)) else inHbm s h
  | 1 =>
    let q := winPeer ws
    if !s.dev.active q then (s, .inl (no (lpDie q) nLinkDown uPort))
    else if !s.dev.farEndpoint q then (s, .inl (no (lpDie q) nPerm uPort))
    else (s, .inr (.line (lpDie q) (some q) (winTo ws + o) win nc))
  | _ => inHbm s (hashedHpa ws o)

/-- Entries of a die that wait for their answer. -/
def Dev.memLive (d : Dev) (die : Nat) : List (Nat × MemEnt) :=
  d.mem.ents.filter fun e => e.1 / 32768 == die && !e.2.quar

/-- The limit of a tenant on a die (R299): its enabled slot, else MEM_TEN_DFLT. -/
def Dev.memLimit (d : Dev) (die tenant : Nat) : Nat :=
  match (d.regs.filter fun e => e.1 % 512 == Reg.memTen.ctorIdx && e.1 / 512 / 64 == die).find? fun e =>
      wbit e.2 31 && fld e.2 15 0 == tenant with
  | some e => fld e.2 30 16
  | none => d.rdF .memTenDflt die 15 0

/-- Checks 1 to 7, with the window that the head lookup matched. -/
def memCheck (s : State) (lp : Nat) (p : Pkt) (w : Option (Nat × List Word)) : State × (MemNo ⊕ MemTo) :=
  let die := lpDie lp
  match s.dev.memEarly lp p with
  | some no => (s, .inl no)
  | none =>
    if p.op = opFence then (s, .inr .fence)
    else if s.dev.fabPage die (mAddr p) then
      (s, if !mRead p then .inl ⟨die, nPerm, uAccess, 0, none⟩
        else match s.dev.fabPageOf p.tenant with
          | some pg => .inr (.page pg)
          | none => .inl ⟨die, nPerm, uNoWindow, 0, none⟩)
    else
      match w with
      | none => (s, .inl ⟨die, nPerm, uNoWindow, 0, none⟩)
      | some (i, ws) =>
        if !winAdmits ws p then (s, .inl ⟨die, nPerm, uAccess, 0, some i⟩)
        else match memTranslate s lp p i ws with
          | (s, .inr (.line own peer a win nc)) =>
            let used := ((s.dev.memLive own).filter fun e => e.2.p.tenant == p.tenant).length
            if s.dev.memLimit own p.tenant ≤ used then
              (s, .inl ⟨own, nBusy, uTenant, s.dev.rdF .memCfg own 7 0, some i⟩)
            else (s, .inr (.line own peer a win nc))
          | x => x

/-! Lines (R300, R303, R308). -/

/-- The line of an entry: its die, the peer's port + 1 (0: HBM) and the line number. -/
def MemEnt.lineOf (e : MemEnt) (die : Nat) : Nat × Nat × Nat :=
  (die, (match e.peer with | some q => q + 1 | none => 0), e.addr / 64)

/-- Entries in order of arrival. -/
def byOrd : List (Nat × MemEnt) → List (Nat × MemEnt)
  | [] => []
  | x :: t => ins x (byOrd t)
where
  ins (x : Nat × MemEnt) : List (Nat × MemEnt) → List (Nat × MemEnt)
    | [] => [x]
    | y :: t => if x.2.ord ≤ y.2.ord then x :: y :: t else y :: ins x t

/-- Unanswered entries of a line, in order of arrival. -/
def Dev.lineEnts (d : Dev) (ln : Nat × Nat × Nat) : List (Nat × MemEnt) :=
  byOrd ((d.memLive ln.1).filter fun e => decide (e.2.lineOf ln.1 = ln))

/-- The queue of a line: entries neither issued nor absorbed. -/
def Dev.lineQueue (d : Dev) (ln : Nat × Nat × Nat) : List (Nat × MemEnt) :=
  (d.lineEnts ln).filter fun e => e.2.run.isNone && e.2.cover.isNone

/-- The members of the run that entry i leads, in order of arrival; answered ones stay in it. -/
def Dev.runOf (d : Dev) (i : Nat) : List (Nat × MemEnt) := byOrd (d.mem.ents.filter fun e => e.2.run == some i)

def Dev.putMem (d : Dev) (i : Nat) (e : MemEnt) : Dev := { d with mem := { d.mem with ents := SMap.insert i e d.mem.ents } }

/-- A line whose count has fallen to 0 leaves combine mode. -/
def Dev.lineIdle (d : Dev) (ln : Nat × Nat × Nat) : Dev :=
  if (d.lineEnts ln).isEmpty then { d with mem := { d.mem with hot := d.mem.hot.filter fun x => !decide (x = ln) } } else d

/-! Ending a request (R306, R311, R313). -/

/-- The stores that a refused store covers remember its refusal. -/
def Dev.coverNak (d : Dev) (i code sub : Nat) : Dev :=
  let f := fun (e : MemEnt) => if e.covers.contains i && e.nak.isNone then { e with nak := some (code, sub) } else e
  { d with mem := { d.mem with ents := d.mem.ents.map fun x => (x.1, f x.2) } }

/-- An entry is answered and freed, or kept out of use; the stores it covers take its refusal, and those whose last
covering store it is complete with it. -/
def Dev.memEnd : Nat → Dev → Nat → MemAns → Bool → Dev
  | 0, d, _, _, _ => d
  | fuel + 1, d, i, a, quar =>
    match SMap.find? d.mem.ents i with
    | none => d
    | some e =>
      if e.quar then d
      else
        let die := i / 32768
        let d := match a.nak with
          | some (code, sub, hint) => d.memNakOut die e.lp e.p e.resv code sub hint (some e.win)
          | none => (d.memDone die e.lp e.p.tenant).memReply die e.lp e.p e.resv a
        let d := if quar then d.putMem i { e with quar := true, resv := {}, holds := false }
          else { d with mem := { d.mem with ents := SMap.erase d.mem.ents i } }
        let d := match a.nak with
          | some (code, sub, _) => d.coverNak i code sub
          | none => d
        let d := (d.mem.ents.filter fun x => x.2.cover == some i).foldl (fun d x =>
          let b : MemAns := match (SMap.find? d.mem.ents x.1).bind (·.nak) with
            | some (code, sub) => { nak := some (code, sub, 0) }
            | none => { absorbed := true }
          Dev.memEnd fuel d x.1 b false) d
        d.lineIdle (e.lineOf die)

/-- An entry ends. -/
def Dev.memAnswer (d : Dev) (i : Nat) (a : MemAns) : Dev := d.memEnd (d.mem.ents.length + 1) i a false

/-- An entry ends and is kept out of use (R301). -/
def Dev.memQuarantine (d : Dev) (i code sub : Nat) : Dev :=
  d.memEnd (d.mem.ents.length + 1) i { nak := some (code, sub, 0) } true

/-- Every request of a run gets the same refusal (R313). -/
def Dev.runNak (d : Dev) (run : List (Nat × MemEnt)) (code sub hint : Nat) : Dev :=
  run.foldl (fun d e => d.memAnswer e.1 { nak := some (code, sub, hint) }) d

/-- The replies of an atomic run from its old value, by the serial loop of rule R310. -/
def Dev.atomReplies (d : Dev) (comb : Bool) : Nat → List (Nat × MemEnt) → Dev
  | _, [] => d
  | v, e :: t =>
    Dev.atomReplies (d.memAnswer e.1 { data := toLE (mWidth e.2.p) v, comb := comb }) comb (atomNew e.2.p v) t

/-! Issue (R301, R308 to R312). -/

/-- Where a run's single access begins and how many bytes it takes, for reads: one request's own, or the line. -/
def readSpan (run : List (Nat × MemEnt)) : Nat × Nat :=
  match run with
  | [e] => (e.2.addr, mBytes e.2.p)
  | e :: _ => (e.2.addr / 64 * 64, 64)
  | [] => (0, 0)

/-- The request of a run to its peer (R301, R310), with the flow label given. -/
def peerPkt (d : Dev) (die i flow : Nat) (run : List (Nat × MemEnt)) (e : MemEnt) : Pkt :=
  let one := decide (run.length ≤ 1)
  let w := mWidth e.p
  let v := (run.drop 1).foldl (fun v x => atomApply (mSub e.p) w v (leAt x.2.p.payload 0 w)) (leAt e.p.payload 0 w)
  let op := if one then e.p.op else if mRead e.p then opRd
    else if run.any (fun x => x.2.p.op == opAtomic) then opAtomic else opRed
  let sub := if !one && mRead e.p then 0 else mSub e.p
  let addr := if !one && mRead e.p then e.addr / 64 * 64 else e.addr
  { op := op, vc := 0, did := linkLocal, sid := d.selfDid die, tenant := e.p.tenant, tclass := e.p.tclass, flow := flow,
    tag := i % 32768, payload := if one then e.p.payload else if mRead e.p then [] else toLE w v,
    opf := b2n (mNc e.p) * 2 ^ 61 + sub * 2 ^ 56 + b2n (mW64 e.p) * 2 ^ 55 + addr }

/-- The opcode and length of the answer that fits a run's request. -/
def peerFit (run : List (Nat × MemEnt)) (e : MemEnt) : Nat × Nat :=
  if mRead e.p then (0x28, (readSpan run).2)
  else if run.any (fun x => x.2.p.op == opAtomic) then (0x28, mWidth e.p)
  else (0x29, 0)

/-- A run is issued: its members are marked, and a peer's request is sent. -/
def Dev.issue (d : Dev) (i : Nat) (members : List (Nat × MemEnt)) : Dev :=
  let d := members.foldl (fun d e => d.putMem e.1 { e.2 with run := some i }) d
  let run := d.runOf i
  let die := i / 32768
  match run with
  | (_, e) :: _ =>
    match e.peer with
    | some q =>
      let (flow, d) := d.freeFlow die
      d.originate die (peerPkt d die i flow run e) (some q) false false {}
    | none => d
  | [] => d

/-- The run that forms behind the head of a queue (R309, R310, R312). -/
def runFrom (q : List (Nat × MemEnt)) : List (Nat × MemEnt) :=
  match q with
  | [] => []
  | h :: t =>
    let e := h.2
    let joins := fun (x : Nat × MemEnt) =>
      let f := x.2
      !e.nc && !f.nc &&
        ((mRead e.p && mRead f.p) ||
         (mAtom e.p && mAtom f.p && combinable e.p e.peer.isSome && e.addr == f.addr && mSub e.p == mSub f.p &&
          mW64 e.p == mW64 f.p))
    h :: t.takeWhile joins

/-- The head of a free line's queue is issued with its run, and the rest of the run is counted. -/
def Dev.combineIssue (d : Dev) (ln : Nat × Nat × Nat) : Dev :=
  if !d.mem.hot.contains ln || d.frozen ln.1 || (d.lineEnts ln).any (fun e => e.2.run.isSome) then d
  else match runFrom (d.lineQueue ln) with
    | [] => d
    | h :: t =>
      let n := t.length
      let reg := if mRead h.2.p then Reg.memCombRd else Reg.memCombAt
      let d := t.foldl (fun d e => d.ocu ln.1 20 { tenant := some e.2.p.tenant, lp := some e.2.lp } 1) (d.bumpN reg ln.1 n)
      d.issue h.1 (h :: t)

/-- COMBINE_ISSUE (R308). The line is named by (peer port + 1, or 0 for HBM) × 2^46 + line number. -/
def execCombineIssue (die : Fin 8) (line : Nat) (s : State) : Host.Outcome State Fault Refusal :=
  .next (s.on fun d => d.combineIssue (die.val, line / 2 ^ 46, line % 2 ^ 46))

/-- A store that has reached the queue covers bytes of the stores waiting before it, back to the first other request;
one left with none is absorbed (R311). -/
def Dev.absorbFrom (d : Dev) (i m : Nat) : List (Nat × MemEnt) → Dev
  | [] => d
  | x :: t =>
    if !mStore x.2.p then d
    else
      let e := x.2
      let left := clearN e.rem m
      let d :=
        if e.nc then d
        else
          let e := { e with rem := left, covers := if andN e.rem m = 0 then e.covers else i :: e.covers }
          if left = 0 then
            ((d.putMem x.1 { e with cover := some i }).bump .memAbsorb (x.1 / 32768)).ocu (x.1 / 32768) 21
              { tenant := some e.p.tenant, lp := some e.lp } 1
          else d.putMem x.1 e
      Dev.absorbFrom d i m t

/-- The lowest entry of a die that is free: not in use, and no entry of a run that went out under its number is left
(R301). -/
def Dev.freeEnt (d : Dev) (die : Nat) : Option Nat :=
  let used := (d.mem.ents.filter fun e => e.1 / 32768 == die).length
  ((upto (2 * used + 1)).map (die * 32768 + ·)).find? fun i =>
    decide (i < die * 32768 + 32768) && (SMap.find? d.mem.ents i).isNone && !d.mem.ents.any fun e => e.2.run == some i

/-- A request takes an entry and joins its line: issued at once, or queued in combine mode (R308, R311). -/
def Dev.memEnter (d : Dev) (h : Handed) (die : Nat) (peer : Option Nat) (addr win : Nat) (nc : Bool) : Dev × Bool :=
  match d.freeEnt die with
  | none => (d, false)
  | some i =>
    let m := storeMask h.pkt addr
    let e : MemEnt := { lp := h.lp, p := h.pkt, resv := h.resv, ord := d.mem.nextOrd, peer := peer, addr := addr, win := win,
                        nc := nc, holds := true, rem := m }
    let ln := e.lineOf die
    let before := d.lineEnts ln
    let hot := d.mem.hot.contains ln
    let enters := !hot && decide (d.rdF .memHotCfg die 7 0 ≤ before.length)
    let d := if enters then { d.bump .memHotEnter die with mem := { d.mem with hot := ln :: d.mem.hot } } else d
    let d := { d with mem := { d.mem with nextOrd := d.mem.nextOrd + 1 } }
    let d := d.putMem i e
    if hot || enters then
      (if mStore h.pkt then d.absorbFrom i m ((before.filter fun x => x.2.run.isNone && x.2.cover.isNone).reverse) else d, true)
    else (d.issue i [(i, e)], true)

/-! Order (R305). -/

/-- A head is held: an unperformed acquire of its source goes before it, or, for a release or fence, any request. -/
def Dev.memHeld (d : Dev) (lp : Nat) (p : Pkt) : Bool :=
  let mine := d.mem.ents.filter fun e => e.2.holds && e.2.lp == lp && e.2.p.sid == p.sid
  mine.any (fun e => mAcq e.2.p) || ((mRel p || p.op == opFence) && !mine.isEmpty)

/-- The reservation of an answer, on the die that sends it: one made on another die moves there if there is room (06 R179). -/
def Dev.moveResv (d : Dev) (die : Nat) (r : Resv) : Option (Dev × Resv) :=
  if r.pool = .none ∨ r.die = die then some (d, r) else (d.reserve die 1 r.cells).map fun x => (x.1.unreserve r, x.2)

/-- The die that answers a request of port `lp`. -/
def answersAt (lp : Nat) : MemNo ⊕ MemTo → Nat
  | .inl no => no.die
  | .inr (.line own _ _ _ _) => own
  | .inr _ => lpDie lp

/-- A request that order admits: refused, performed at once, or entered; false where it waits for an entry (R299) or a
reservation (06 R179). -/
def memGo (s : State) (h : Handed) : State × Bool :=
  let lp := h.lp
  let p := h.pkt
  let die := lpDie lp
  let x := memCheck s lp p (h.win.getD none)
  match x.1.dev.moveResv (answersAt lp x.2) h.resv with
  | none => (s, false)
  | some (d, r) =>
    let t := { x.1 with dev := d }
    match x.2 with
    | .inl no => (t.on fun d => d.memNakOut no.die lp p r no.code no.sub no.hint no.win, true)
    | .inr .fence => (t.on fun d => (d.memDone die lp p.tenant).memReply die lp p r {}, true)
    | .inr (.page pg) =>
      (t.on fun d => (d.memDone die lp p.tenant).memReply die lp p r { data := d.pageBytes pg (mAddr p % 4096) (mBytes p) }, true)
    | .inr (.line own peer a win nc) =>
      match t.dev.memEnter { h with resv := r } own peer a win nc with
      | (d, true) => ({ t with dev := d }, true)
      | (_, false) => (s, false)

def Dev.memWait (d : Dev) (h : Handed) (held : Bool) : Dev :=
  let d := if held then d.bump .memOrdHold (lpDie h.lp) else d
  { d with mem := { d.mem with waiting := d.mem.waiting ++ [h] } }

/-- A request as its engine takes it: its window is matched now if no head lookup has done it (R286). -/
def Dev.takeReq (d : Dev) (lp : Nat) (p : Pkt) : Dev × Handed :=
  let (d, h) := d.takeHanded lp p
  if h.win.isSome then (d, h)
  else
    let (d, w) := d.windowOf (lpDie lp) p
    (d, { h with win := some w })

/-- A request at its engine: behind a held head of its port, held itself, or on; a held one keeps its cells in ingress
staging (R305). -/
def memRequest (s : State) (lp : Nat) (p : Pkt) : State :=
  let (d, h) := s.dev.takeReq lp p
  let s := { s with dev := d }
  if s.dev.mem.waiting.any (fun x => x.lp == lp) then s.on fun d => d.memWait h false
  else if s.dev.memHeld lp p then s.on fun d => d.memWait h true
  else match memGo s h with
    | (s, true) => s.on fun d => d.unstageReq h
    | (s, false) => s.on fun d => d.memWait h false

/-- The held heads of a die go where the requests they wait for have been performed, each port's in order. -/
def holdRelease (die : Nat) (s : State) : State :=
  let mine := s.dev.mem.waiting.filter fun h => lpDie h.lp == die
  let others := s.dev.mem.waiting.filter fun h => lpDie h.lp != die
  let s := s.on fun d => { d with mem := { d.mem with waiting := others } }
  (mine.foldl (fun (acc : State × List Nat × List Nat) h =>
    let (s, stuck, moved) := acc
    let keep := fun (s : State) => s.on fun d => { d with mem := { d.mem with waiting := d.mem.waiting ++ [h] } }
    if stuck.contains h.lp then (keep s, stuck, moved)
    else if s.dev.memHeld h.lp h.pkt then
      ((keep s).on fun d => if moved.contains h.lp then d.bump .memOrdHold die else d, h.lp :: stuck, moved)
    else match memGo s h with
      | (s, true) => (s.on fun d => d.unstageReq h, stuck, h.lp :: moved)
      | (s, false) => (keep s, h.lp :: stuck, moved)) (s, [], [])).1

/-- ORDER_HOLD_RELEASE (R305). -/
def execOrderHoldRelease (die : Fin 8) (s : State) : Host.Outcome State Fault Refusal := .next (holdRelease die.val s)

/-- MEM_RD. -/
def execMemRd (lp : Fin 2048) (p : Pkt) (s : State) : Host.Outcome State Fault Refusal := .next (memRequest s lp p)

/-- MEM_RD_NARROW. -/
def execMemRdNarrow (lp : Fin 2048) (p : Pkt) (s : State) : Host.Outcome State Fault Refusal := .next (memRequest s lp p)

/-- MEM_WR. -/
def execMemWr (lp : Fin 2048) (p : Pkt) (s : State) : Host.Outcome State Fault Refusal := .next (memRequest s lp p)

/-- MEM_WR_NARROW. -/
def execMemWrNarrow (lp : Fin 2048) (p : Pkt) (s : State) : Host.Outcome State Fault Refusal := .next (memRequest s lp p)

/-- MEM_ATOMIC. -/
def execMemAtomic (lp : Fin 2048) (p : Pkt) (s : State) : Host.Outcome State Fault Refusal := .next (memRequest s lp p)

/-- MEM_RED. -/
def execMemRed (lp : Fin 2048) (p : Pkt) (s : State) : Host.Outcome State Fault Refusal := .next (memRequest s lp p)

/-- MEM_FENCE. -/
def execMemFence (lp : Fin 2048) (p : Pkt) (s : State) : Host.Outcome State Fault Refusal := .next (memRequest s lp p)

/-! HBM accesses (R300, R306, R313). -/

/-- A run refused for an uncorrectable error. -/
def runUncorr (s : State) (run : List (Nat × MemEnt)) : State := s.on fun d => d.runNak run nUncorr uMemory 0

/-- The parts of a store: the offset of each 32-byte block that it writes, and whether it writes all of it. -/
def storeBlocks (m : Nat) : List (Nat × Bool) :=
  [0, 32].filterMap fun b =>
    let k := m / 2 ^ b % 2 ^ 32
    if k = 0 then none else some (b, k == 2 ^ 32 - 1)

/-- A line with the enabled bytes of a store. -/
def mergeBytes (m : Nat) (old new : List Byte) : List Byte :=
  (upto 64).map fun i => if bit m i then new.getD i 0 else old.getD i 0

/-- A store at a line: a block written in part is read first, and where one is uncorrectable nothing is written. -/
def storeLine (s : State) (line m : Nat) (data : List Byte) : State × Bool :=
  let bs := storeBlocks m
  let bad := (bs.filter fun b => !b.2 && s.dev.ue.contains ((line + b.1) / 32)).map (·.1)
  if bad ≠ [] then (s.on fun d => bad.foldl (fun d b => d.hbmUe (line + b)) d, false)
  else
    let new := mergeBytes m (hbmBytes s.hbm line 64) data
    (bs.foldl (fun s b => (hbmWrite s (line + b.1) (slice new b.1 32) 1).1) s, true)

/-- The access of one request at an HPA: the bytes it returns, none where a block is uncorrectable. -/
def hbmAccess (s : State) (p : Pkt) (a : Nat) : State × Option (List Byte) :=
  if mRead p then hbmRead s a (mBytes p) 0
  else if mStore p then
    let (s, ok) := storeLine s (a / 64 * 64) (storeMask p a) (storeData p a)
    (s, if ok then some [] else none)
  else match hbmRead s a (mWidth p) 1 with
    | (s, none) => (s, none)
    | (s, some bs) => ((hbmWrite s a (toLE (mWidth p) (atomNew p (ofLE bs))) 1).1, some bs)

/-- A run waits: for its class, for a write that waits, or for an older access to one of its blocks (12 R325, R303, R304). -/
def Dev.runWaits (d : Dev) (i : Nat) (run : List (Nat × MemEnt)) (e : MemEnt) : Bool :=
  let a := if decide (1 < run.length) && mRead e.p then e.addr / 64 * 64 else e.addr
  let n := if decide (1 < run.length) && mRead e.p then 64 else memSpan e.p
  (!mRead e.p && d.classPaused (e.addr / 2 ^ 36) 1) || d.mem.later.any (fun x => x.writes a n) ||
  d.mem.ents.any fun x => x.2.inHbm && x.2.run != some i && decide (x.2.ord < e.ord) && shareBlock a n x.2.addr (memSpan x.2.p)

/-- The access of a run in HBM. -/
def memAccess (s : State) (i upset : Nat) : State :=
  let run := s.dev.runOf i
  match run with
  | [] => s
  | (_, e) :: _ =>
    let line := e.addr / 64 * 64
    let comb := decide (1 < run.length)
    if e.peer.isSome || s.dev.frozen (i / 32768) || s.dev.runWaits i run e then s
    else if !s.dev.usable line 64 then s.on fun d => d.runNak run nFault uStack 0
    else
      let s := s.on fun d => d.upset e.addr upset
      if mRead e.p then
        let (a, n) := readSpan run
        match hbmRead s a n 0 with
        | (s, none) => runUncorr s run
        | (s, some bs) => s.on fun d =>
          run.foldl (fun d x => d.memAnswer x.1 { data := slice bs (x.2.addr - a) (mBytes x.2.p), comb := comb }) d
      else if mStore e.p then
        match storeLine s line (storeMask e.p e.addr) (storeData e.p e.addr) with
        | (s, false) => runUncorr s run
        | (s, true) => s.on fun d => d.memAnswer i {}
      else match hbmRead s e.addr (mWidth e.p) 1 with
        | (s, none) => runUncorr s run
        | (s, some bs) =>
          let v := ofLE bs
          let v' := run.foldl (fun v x => atomNew x.2.p v) v
          let (s, _) := hbmWrite s e.addr (toLE (mWidth e.p) v') 1
          s.on fun d => d.atomReplies comb v run

/-- MEM_ACCESS_DONE (R306): the access of the entry that leads a run completes; `upset`: what the
block at its address has become meanwhile (12 R327): 0 nothing new, 1 one erroneous symbol, 2 uncorrectable. -/
def execMemAccessDone (die : Fin 8) (i : Nat) (upset : Fin 3) (s : State) : Host.Outcome State Fault Refusal :=
  .next (memAccess s (die.val * 32768 + i % 32768) upset)

/-! Peers (R301). -/

/-- A peer's answer is matched by tag and port to the run issued with it, and ends it; one that matches nothing is
discarded. -/
def Dev.peerAnswer (d : Dev) (lp : Nat) (p : Pkt) : Dev :=
  let die := lpDie lp
  let d := (d.take lp p).1
  let discard := d.bump .memDiscard die
  if !(p.did == linkLocal || p.did == d.selfDid die) then discard
  else
    let i := die * 32768 + p.tag
    let run := if p.tag < 32768 then d.runOf i else []
    match run with
    | [] => discard
    | (_, e) :: _ =>
      if e.peer ≠ some lp ∨ run.all (fun x => x.2.quar) = true then discard
      else
        let comb := decide (1 < run.length)
        let (a, _) := readSpan run
        if p.op = 0x2A then
          let code := bits p.opf 63 56
          if p.payload.isEmpty then
            if 1 ≤ code ∧ code ≤ 9 then d.runNak run code (bits p.opf 31 28) (bits p.opf 47 32)
            else d.runNak run nMalformed (bits p.opf 31 28) (bits p.opf 47 32)
          else d.runNak run nMalformed uPeer 0
        else if peerFit run e ≠ (p.op, p.payload.length) then d.runNak run nMalformed uPeer 0
        else if mRead e.p then
          run.foldl (fun d x => d.memAnswer x.1 { data := slice p.payload (x.2.addr - a) (mBytes x.2.p), comb := comb }) d
        else if mStore e.p then d.memAnswer i {}
        else if comb then d.atomReplies comb (ofLE p.payload) run
        else d.memAnswer i { data := p.payload }

/-- MEM_RSP_DATA from a peer. -/
def execMemRspData (lp : Fin 2048) (p : Pkt) (s : State) : Host.Outcome State Fault Refusal :=
  .next (s.on fun d => d.peerAnswer lp p)

/-- MEM_RSP_DONE from a peer. -/
def execMemRspDone (lp : Fin 2048) (p : Pkt) (s : State) : Host.Outcome State Fault Refusal :=
  .next (s.on fun d => d.peerAnswer lp p)

/-- MEM_NAK from a peer. -/
def execMemNak (lp : Fin 2048) (p : Pkt) (s : State) : Host.Outcome State Fault Refusal :=
  .next (s.on fun d => d.peerAnswer lp p)

/-- A run that a peer has not answered in time: each of its entries is answered, counted and kept out of use. -/
def Dev.peerTimeout (d : Dev) (i : Nat) : Dev :=
  match SMap.find? d.mem.ents i with
  | none => d
  | some e =>
    if e.peer.isNone || e.quar then d
    else match e.run with
      | none => d
      | some r => (d.runOf r).foldl (fun d x =>
          if x.2.quar then d else (d.bump .memPeerTo (i / 32768)).memQuarantine x.1 nLinkDown uTimeout) d

/-- MEM_PEER_TIMEOUT. -/
def execMemPeerTimeout (die : Fin 8) (i : Nat) (s : State) : Host.Outcome State Fault Refusal :=
  .next (s.on fun d => d.peerTimeout (die.val * 32768 + i % 32768))

/-- QUARANTINE_END: the entry may be used again. -/
def Dev.quarantineEnd (d : Dev) (i : Nat) : Dev :=
  match SMap.find? d.mem.ents i with
  | some e => if e.quar then { d with mem := { d.mem with ents := SMap.erase d.mem.ents i } } else d
  | none => d

/-- QUARANTINE_END. -/
def execQuarantineEnd (die : Fin 8) (i : Nat) (s : State) : Host.Outcome State Fault Refusal :=
  .next (s.on fun d => d.quarantineEnd (die.val * 32768 + i % 32768))

/-! Failures (R314 to R316). -/

/-- A port has left ACTIVE: requests issued to it or queued for it are refused, and its own requests hold nothing more. -/
def Dev.memPortLost (d : Dev) (lp : Nat) : Dev :=
  let mine := byOrd (d.mem.ents.filter fun e => e.2.peer == some lp && !e.2.quar)
  let d := mine.foldl (fun d e => d.memAnswer e.1 { nak := some (nLinkDown, uPort, 0) }) d
  let f := fun (e : MemEnt) => if e.lp = lp then { e with holds := false } else e
  { d with mem := { d.mem with ents := d.mem.ents.map fun e => (e.1, f e.2) } }

/-- A stack has left ACTIVE: accesses in flight in it are answered as uncorrectable (12 R331). -/
def Dev.memStackLost (d : Dev) (hs : Nat) : Dev :=
  let mine := byOrd (d.mem.ents.filter fun e => e.2.peer.isNone && e.2.run.isSome && e.2.addr / 2 ^ 36 == hs)
  mine.foldl (fun d e => d.memAnswer e.1 { nak := some (nUncorr, uMemory, 0) }) d

/-- A tenant's requests in the pending tables. -/
def Dev.memOfTenant (d : Dev) (tenant : Nat) : Bool := d.mem.ents.any fun e => !e.2.quar && e.2.p.tenant == tenant

/-- The drain bound of a reclaim has passed: open requests to peers are refused and kept out of use (R315). -/
def Dev.memReclaim (d : Dev) (tenant : Nat) : Dev :=
  let mine := byOrd (d.mem.ents.filter fun e => e.2.peer.isSome && !e.2.quar && e.2.p.tenant == tenant)
  mine.foldl (fun d e => d.memQuarantine e.1 nPreempted uNone) d

end Sys2Proof.Machine
end

