-- ==== Sys2Proof/Machine/Ether.lean ====
section
/-! DEFINITION. Ethernet frames (03 R87 to R91, 04 R109 to R111, 06 R155) and learning (05 R143 to R147). -/

namespace Sys2Proof.Machine

/-! Reading a frame. -/

/-- What the head of a frame says: tag, Ethertype after tags and where its payload begins. -/
structure Parsed where
  tagged : Bool
  pcp : Nat
  dei : Bool
  vlan : Nat
  et : Nat
  l3 : Nat

/-- One 802.1Q tag, or an outer 0x88A8 tag with one 0x8100 tag inside, is parsed (03 R88). -/
def parseFrame (bs : List Byte) : Parsed :=
  let e0 := beAt bs 12 2
  let t := beAt bs 14 2
  let tag := fun et l3 => (⟨true, bits t 15 13, bit t 12, t % 4096, et, l3⟩ : Parsed)
  if e0 = 0x8100 then tag (beAt bs 16 2) 18
  else if e0 = 0x88A8 ∧ beAt bs 16 2 = 0x8100 then tag (beAt bs 20 2) 22
  else ⟨false, 0, false, 0, e0, 14⟩

/-- MAC addresses; the group bit. -/
def frameDst (bs : List Byte) : Nat := beAt bs 0 6
def frameSrc (bs : List Byte) : Nat := beAt bs 6 6
def macGroup (m : Nat) : Bool := bit m 40

/-- The version of the IP header after tags, 0 for none. -/
def Parsed.ip (p : Parsed) : Nat := if p.et = 0x0800 then 4 else if p.et = 0x86DD then 6 else 0

/-- The length fixed at the head (06 R155). -/
def fixedLen (maxFrame : Nat) (bs : List Byte) (p : Parsed) : Nat :=
  let b := if p.ip = 4 ∧ p.l3 + 4 ≤ 60 then p.l3 + beAt bs (p.l3 + 2) 2
    else if p.ip = 6 ∧ p.l3 + 6 ≤ 60 ∧ beAt bs (p.l3 + 4) 2 ≠ 0 then p.l3 + 40 + beAt bs (p.l3 + 4) 2
    else maxFrame - 4
  min (maxFrame - 4) (max 60 b)

/-- TCP, UDP and SCTP have ports. -/
def hasPorts (proto : Nat) : Bool := proto == 6 || proto == 17 || proto == 132

/-- The hash tuple of a frame (04 Table 4-7). -/
def frameTuple (bs : List Byte) (p : Parsed) : List Byte :=
  if p.ip = 4 then
    let proto := beAt bs (p.l3 + 9) 1
    let frag := beAt bs (p.l3 + 6) 2
    let o := p.l3 + beAt bs p.l3 1 % 16 * 4
    let ports := if hasPorts proto && frag % 2 ^ 14 == 0 then slice bs o 4 else toBE 4 0
    slice bs (p.l3 + 12) 8 ++ toBE 1 proto ++ ports ++ toBE 3 0
  else if p.ip = 6 then
    let nh := beAt bs (p.l3 + 6) 1
    let ports := if hasPorts nh then slice bs (p.l3 + 40) 4 else toBE 4 0
    slice bs (p.l3 + 8) 32 ++ toBE 3 (beAt bs p.l3 4 % 2 ^ 20) ++ toBE 1 nh ++ ports
  else slice bs 0 12 ++ toBE 2 p.et ++ toBE 2 p.vlan

/-- Where the UDP header of an unfragmented datagram stands. -/
def udpAt (bs : List Byte) (p : Parsed) : Option Nat :=
  if p.ip = 4 ∧ beAt bs (p.l3 + 9) 1 = 17 ∧ beAt bs (p.l3 + 6) 2 % 2 ^ 14 = 0 then some (p.l3 + beAt bs p.l3 1 % 16 * 4)
  else if p.ip = 6 ∧ beAt bs (p.l3 + 6) 1 = 17 then some (p.l3 + 40)
  else none

/-- Where a PTP message stands in a frame (02 Table 2-4): Ethertype 0x88F7, or UDP to one of the ports given. -/
def ptpAt (ports : List Nat) (bs : List Byte) (p : Parsed) : Option Nat :=
  if p.et = 0x88F7 then some p.l3
  else match udpAt bs p with
    | some o => if ports.contains (beAt bs (o + 2) 2) then some (o + 8) else none
    | none => none

/-- A PTP event message (messageType 0 to 3). -/
def ptpEvent (bs : List Byte) (p : Parsed) : Bool :=
  match ptpAt [319] bs p with
  | some o => decide (beAt bs o 1 % 16 ≤ 3)
  | none => false

/-- A multicast PTP message for the device's own clock (02 R51). -/
def ptpMulticast (bs : List Byte) (p : Parsed) : Bool :=
  frameDst bs == 0x011B19000000 ||
  (p.ip == 4 && beAt bs (p.l3 + 16) 4 == 0xE0000181) ||
  (p.ip == 6 && beAt bs (p.l3 + 24) 1 == 0xFF && beAt bs (p.l3 + 25) 1 / 16 == 0 && beAt bs (p.l3 + 26) 14 == 0x181)

/-- The router MAC of a die (04 R109). -/
def Dev.rmac (d : Dev) (die : Nat) : Nat := d.rdN .plnFwdRmacLo die + d.rdF .plnFwdRmacHi die 15 0 * 2 ^ 32

/-- max_frame of a port. -/
def Dev.maxFrame (d : Dev) (lp : Nat) : Nat := d.rdF .plnLnkEthCfg lp 13 0

/-- The tenant of a port's frames (03 R90, assumption 11). -/
def frameTenant (lp : Nat) : Nat := Config.frameTenant lp % 0xFFFF

/-! Learning (05 R144 to R146). -/

/-- A new source of a port is excess: the port's or the tenant's limit is reached (R146). -/
def Dev.excess (d : Dev) (lp tenant : Nat) : Bool :=
  let pl := lpPl lp
  decide (d.rdF .plnLetLpCfg lp 12 0 ≤ d.rdF .plnLetLpCount lp 25 0) ||
  (match d.tenantSlot pl tenant with
   | some e => decide (bits (wat e.2 1) 25 0 ≤ SMap.getD d.tab.letTenant (pl * 256 + e.1) 0)
   | none => false)

/-- The on-die cache of a pipeline takes a slot (R143): 262,144 entries, the oldest leaves. -/
def Dev.cacheFill (d : Dev) (pl slot : Nat) : Dev :=
  { d with tab := { d.tab with letCache := SMap.modify d.tab.letCache pl [] fun c =>
    slot :: (c.filter (· != slot)).take 262143 } }

/-- A lookup of a pipeline on a port reads HBM: it is counted (R149). -/
def Dev.cacheMiss (d : Dev) (lp : Nat) : Dev := (d.bump .plnLetCacheMiss (lpPl lp)).ocu (lpDie lp) 17 { lp := some lp } 1

/-- The lookup of a source: the cache answers, or HBM is read and the entry found is cached (R143). -/
def letLook (s : State) (lp : Nat) (key : List Nat) : State × Option Nat :=
  match letCached s (lpPl lp) key with
  | some x => (s, some x)
  | none =>
    match letFind (s.on fun d => d.cacheMiss lp) (lpPl lp) key with
    | (s, some x) => (s.on fun d => d.cacheFill (lpPl lp) x, some x)
    | (s, none) => (s, none)

/-- A learned entry found for a source: its stamp is refreshed, or its port replaced (Table 5-5). -/
def letRefresh (s : State) (pl slot lp : Nat) : State :=
  let ws := letWords s pl slot
  if letStatic ws then s
  else if letLp ws = lp then
    if letStamp ws = s.dev.bellStamp then s
    else letPut s pl slot (setAt ws 6 (putBits (ws.getD 6 0) 31 16 s.dev.bellStamp))
  else
    let s := letPut s pl slot (setAt ws 6 (putBits (ws.getD 6 0) 10 0 lp))
    s.on fun d => ((d.letCount pl (letLp ws) (letTenant ws) false).letCount pl lp (letTenant ws) true).bump .plnLetMove pl

/-! Where a frame goes (04 R109 to R111). -/

/-- A frame's copy with the priority bits of the tag that it may add, drawn once for the copy (assumption 12). -/
def Dev.withPri (d : Dev) (t : Target) : Dev × Target :=
  let (x, d) := d.free
  (d, { t with rw := { t.rw with pri := x % 16 } })

/-- Copies that a frame cannot take: each is dropped and counted (04 R110, R111; 03 R90), but for an ETH_ENCAP that a device
without an identity does not originate (04 R96, assumption 51). -/
def Dev.frameTargets (d : Dev) (h : Held) (i : FrameInfo) (lp : Nat) (ts : List Target) : Dev × List Target :=
  ts.foldl (fun (a : Dev × List Target) t =>
    let native := !a.1.isEth t.lp
    if (i.routed && t.rw.dmac == 0) || (native && t.rw.encap == 0) then (a.1.fwdCount h rNoRoute, a.2)
    else if native && decide (4096 < i.fixed) then (a.1.bump .plnLnkEthOversize lp, a.2)
    else if native && a.1.selfDid h.die == 0 then a
    else
      let (d, t) := if i.routed then a.1.withPri t else (a.1, t)
      (d, a.2 ++ [t])) (d, [])

/-- The flow that a frame's copy to a native port belongs to (06 R175). -/
def encapPkt (h : Held) (t : Target) : Pkt := { h.pkt with did := t.rw.encap }

/-- Copies of ETH_ENCAP flows that would exceed their limiters (06 R175): each is left out and counted, and the frame is
dropped where none is left; none then. -/
def Dev.encapPaced (d : Dev) (pid : Nat) (h : Held) (ts : List Target) : Dev × Option (List Target) :=
  let beyond := fun (t : Target) => !d.isEth t.lp && d.limiterHolds h.die (encapPkt h t)
  let (out, left) := ts.partition beyond
  if left.isEmpty then ((d.bumpN .kepDropThresh h.die (out.length - 1)).keepDrop pid h .kepDropThresh, none)
  else (d.bumpN .kepDropThresh h.die out.length, some left)

/-- A frame's ETH_ENCAP copies take their time at their limiters' rates, and their flows their ports (06 R175). -/
def Dev.encapSent (d : Dev) (h : Held) (ts : List Target) : Dev :=
  ts.foldl (fun d t =>
    if d.isEth t.lp then d
    else (d.limiterPass h.die (h.need * 64) (encapPkt h t)).flowUsed h.die (encapPkt h t) t.lp) d

/-- The decision for a frame: drops are counted, a limited ETH_ENCAP flow is held to its rate (06 R175), and the rest is
admitted. -/
def Dev.frameDecided (d : Dev) (pid : Nat) (h : Held) (lp : Nat) (r : Nat ⊕ Found) : Dev :=
  match r with
  | .inl r => d.decided pid h (.inl r)
  | .inr f =>
    let (d, ts) := match h.frame with
      | some i => d.frameTargets h i lp f.targets
      | none => (d, f.targets)
    if ts.isEmpty then (d.rxDrop h).forget pid
    else match d.encapPaced pid h ts with
      | (d, none) => d
      | (d, some ts) => (d.encapSent h ts).decided pid h (.inr { f with targets := ts })

/-- The flood group of the frame's port, in the frame's generation. -/
def Dev.flood (d : Dev) (pid : Nat) (h : Held) (lp : Nat) : Dev :=
  match h.frame with
  | some i =>
    let h := { h with frame := some { i with routed := false } }
    let (d, r) := (d.putHeld pid h).throughGroup h i.gen (d.rdF .plnLetLpCfg lp 31 16) i.hash
    d.frameDecided pid h lp r
  | none => d

/-- A frame whose head has not been forwarded is taken back from its copies; none where it cannot be. -/
def Dev.refit (d : Dev) (pid : Nat) : Option (Dev × Held) :=
  match d.held pid with
  | some h =>
    if h.phase = .kept ∧ !d.forwarded pid then
      let d := d.dropUnbegun pid
      some (d, { h with phase := .head, pool := .none, cells := 0, refs := 0, spill := .no })
    else if h.phase = .letWait then some (d, { h with phase := .head })
    else none
  | none => none

/-- A frame whose learning failed, or whose source proved excess on a port that floods such frames, is flooded, if its head
has not been forwarded (Table 5-5). -/
def Dev.refitFlood (d : Dev) (pid lp : Nat) : Dev :=
  match d.refit pid with
  | some (d, h) => (d.putHeld pid h).flood pid h lp
  | none => d

/-- The excess action of a port for a frame whose source proves excess at its tail (R146): counted, and the frame dropped or
flooded, if its head has not been forwarded. A native source has no action (assumption 49). -/
def Dev.excessTail (d : Dev) (l : Learn) : Dev :=
  let d := d.bump .plnLetLimit (lpPl l.lp)
  match l.pid with
  | none => d
  | some pid =>
    if d.rdB .plnLetLpCfg l.lp 13 then d.refitFlood pid l.lp
    else match d.refit pid with
      | some (d, _) => d.dropHeld pid
      | none => d

/-- A learn waits in its pipeline's queue, or is skipped and counted (R145). -/
def Dev.learnWait (d : Dev) (l : Learn) : Dev :=
  let pl := lpPl l.lp
  let q := SMap.getD d.tab.learnQ pl []
  if q.length ≥ 64 then d.bump .plnLetLearnOvf pl
  else { d with tab := { d.tab with learnQ := SMap.insert pl (q ++ [l]) d.tab.learnQ } }

/-- LEARN (R144): after a good tail the source is looked up and the action of Table 5-5 is taken or queued; while P1 is paused
in the LET's stack, which holds every write back (12 R329), all are queued. -/
def learn (s : State) (l : Learn) : State :=
  let pl := lpPl l.lp
  if !s.dev.letOn pl then s
  else match letLook s l.lp (letKey l.kind l.tenant l.vlan l.addr) with
    | (s, some x) =>
      if s.dev.classPaused (s.dev.letStack pl) 1 && !letStatic (letWords s pl x) then s.on fun d => d.learnWait l
      else letRefresh s pl x l.lp
    | (s, none) => s.on fun d =>
      let d := d.tenantMeets pl
      if d.excess l.lp l.tenant then d.excessTail l else d.learnWait l

/-- The port group of a LET entry without use_group: one member (05 R143). -/
def Dev.throughPort (d : Dev) (h : Held) (lp : Nat) : Dev × (Nat ⊕ Found) :=
  match d.filterCands h [⟨0, ⟨lp, ⟨0, 0, 0, 0⟩⟩⟩] with
  | .inl r => (d, .inl r)
  | .inr cs =>
    let (d, ts) := d.inServiceOnly h (cs.map fun c => c.tgt)
    (d, .inr ⟨ts, false⟩)

/-- A bridged frame whose destination lookup has answered (05 R143). -/
def bridge (s : State) (pid : Nat) (h : Held) (lp : Nat) (slot : Option Nat) : State :=
  match h.frame, slot with
  | some i, some x =>
    let ws := letWords s (lpPl lp) x
    s.on fun d =>
      let (d, r) := if bit (ws.getD 4 0) 31 then d.throughGroup h i.gen (bits (ws.getD 4 0) 15 0) i.hash
        else d.throughPort h (letLp ws)
      d.frameDecided pid h lp r
  | _, _ => s.on fun d => d.flood pid h lp

/-- The destination key of a held frame. -/
def frameKey (h : Held) : List Nat :=
  letKey 0 h.pkt.tenant (parseFrame h.pkt.payload).vlan (frameDst h.pkt.payload)

/-- A bridged frame's destination lookup: a group destination and a pipeline without LET flood; an answer that the cache
does not hold waits for HBM (R143). -/
def bridgeHead (s : State) (pid : Nat) (h : Held) (lp : Nat) : State :=
  let pl := lpPl lp
  if macGroup (frameDst h.pkt.payload) || !s.dev.letOn pl then s.on fun d => d.flood pid h lp
  else
    match letCached s pl (frameKey h) with
    | some x => bridge s pid h lp (some x)
    | none => s.on fun d => (d.cacheMiss lp).putHeld pid { h with phase := .letWait }

/-- LET_CACHE_FILL: the oldest frame of a port that waits for HBM gets its answer, which is cached. -/
def letFill (s : State) (lp : Nat) : State :=
  let wait := s.dev.keep.pkts.find? fun e => e.2.lp == some lp && e.2.phase == Phase.letWait
  match wait with
  | none => s
  | some (pid, h) =>
    let pl := lpPl lp
    let (s, x) := letFind s pl (frameKey h)
    let s := match x with
      | some x => s.on fun d => d.cacheFill pl x
      | none => s
    bridge s pid { h with phase := .head } lp x

/-- LET_CACHE_FILL. -/
def execLetCacheFill (lp : Fin 2048) (s : State) : Host.Outcome State Fault Refusal := .next (letFill s lp)

/-- A routed frame (R109). -/
def Dev.routeHead (d : Dev) (pid : Nat) (h : Held) (lp x : Nat) (p : Parsed) (hash : Nat) : Dev :=
  let bs := h.pkt.payload
  let ttl := if p.ip = 4 then beAt bs (p.l3 + 8) 1 else beAt bs (p.l3 + 7) 1
  if ttl ≤ 1 then d.frameDecided pid h lp (.inl rTtlExp)
  else
    let (d, r) := if p.ip = 4 then d.throughRoute h x 1 (beAt bs (p.l3 + 16) 4) hash
      else d.throughRoute h x 2 (beAt bs (p.l3 + 24) 16) hash
    d.frameDecided pid h lp r

/-- An excess source's frame (05 R146): dropped, or flooded. -/
def Dev.excessHead (d : Dev) (pid : Nat) (h : Held) (lp : Nat) : Dev :=
  let d := d.bump .plnLetLimit (lpPl lp)
  match h.frame with
  | some i =>
    let h := { h with frame := some { i with excess := true } }
    if d.rdB .plnLetLpCfg lp 13 then (d.putHeld pid h).flood pid h lp else (d.putHeld pid h).forget pid
  | none => d

/-- A frame's source is new and excess, with learning on (R146). -/
def srcExcess (s : State) (lp : Nat) (h : Held) : State × Bool :=
  let src := frameSrc h.pkt.payload
  if s.dev.rdB .plnLetLpCfg lp 15 && s.dev.letOn (lpPl lp) && !macGroup src then
    let (s, x) := letLook s lp (letKey 0 h.pkt.tenant (parseFrame h.pkt.payload).vlan src)
    let s := if x.isNone then s.on fun d => d.tenantMeets (lpPl lp) else s
    (s, x.isNone && s.dev.excess lp h.pkt.tenant)
  else (s, false)

/-- The head of a frame is checked, metered, fixed in length and routed or bridged (R109). -/
def ethHead (s : State) (lp : Nat) (bs : List Byte) : State :=
  if !s.dev.isEth lp || !s.dev.inService lp then s
  else
    let s := s.on fun d => d.touch lp
    let d := s.dev
    let die := lpDie lp
    let p := parseFrame bs
    let b := fixedLen (d.maxFrame lp) bs p
    let tclass := if p.tagged then fld (d.rd .plnLnkPcpMap lp) (3 * p.pcp + 2) (3 * p.pcp) else 0
    let vc := if ptpEvent bs p then 6 else if bit (d.rdF .plnLnkEthCfg lp 31 24) tclass then 3 else 2
    let x := d.rdF .plnFwdGen die 0 0
    let hash := d.hash die (frameTuple bs p)
    let rm := d.rmac die
    let mine := rm != 0 && frameDst bs == rm
    let routed := mine && p.ip != 0
    let pkt : Pkt := { op := 0x14, hops := 1, tclass := tclass, gen := x, spray := d.rdB .plnFwdLpCfg lp 2, len := b,
                       sid := d.selfDid die, tenant := frameTenant lp, flow := dieFlow die hash, opf := lp, vc := vc,
                       payload := bs }
    let f : FrameInfo := ⟨b, routed, if p.ip = 0 then 0 else p.l3, p.ip, hash, x, false, rm⟩
    let h : Held := { pkt := pkt, lp := some lp, die := die, pl := lpPl lp, frame := some f, rcvd := cellsOf bs.length,
                      tin := d.time.now }
    let (pid, d) := d.newHeld h
    let d := d.ocu die 8 (h.tag h.lp) 1
    let (d, col) := d.meterPort lp tclass (b + 4) (if p.dei then .yellow else .green)
    let h := { h with colour := col }
    let s := { s with dev := d.putHeld pid h }
    if p.et = 0x8808 then s.on fun d => (d.rxDrop h).forget pid
    else if mine && (ptpAt [319, 320] bs p).isSome then s.on fun d => d.putHeld pid { h with phase := .engine }
    else
      let (s, ex) := srcExcess s lp h
      if ex then s.on fun d => d.excessHead pid h lp
      else if routed then s.on fun d => d.routeHead pid h lp x p hash
      else if mine then s.on fun d => d.frameDecided pid h lp (.inl rNoRoute)
      else bridgeHead s pid h lp

/-- ETH_FRAME_HEAD: the first bytes of a frame arrive. -/
def execEthFrameHead (lp : Fin 2048) (head : List Byte) (s : State) : Host.Outcome State Fault Refusal :=
  .next (ethHead s lp head)

/-! The end of a frame (R88, R89). -/

/-- Packets, bytes and cells received on a port, counted at the tail (17 Tables 17-4 to 17-6). -/
def Dev.rxCount (d : Dev) (h : Held) (lp bytes cells : Nat) : Dev :=
  let t := h.tag (some lp)
  let d := ((d.portBytes lp fRxBytes bytes).portCount lp fRxCells cells).portCount lp fRxPkts 1
  let d := ((d.ocu h.die 2 t 1).ocu h.die 3 t bytes).ocu h.die 4 t cells
  (d.page h.pkt.tenant tRxPkts 1).page h.pkt.tenant tRxBytes bytes

/-- A frame that is to end bad with the bytes `data`: dropped, or ended at its egresses (R89), an Ethernet one sending all of
`data`. A frame whose head only native ports have begun to send is not counted in PLN_LNK_ETH_FCS. -/
def Dev.frameBad (d : Dev) (pid : Nat) (h : Held) (lp : Nat) (r : Reg) (data : List Byte) : Dev :=
  let begun := (d.slotted pid).filter fun e => e.2.pos != 0
  let quiet := r == .plnLnkEthFcs && !begun.isEmpty && begun.all fun e => !d.isEth e.2.ent.lp
  let d := if quiet then d else d.bump r lp
  match h.phase with
  | .kept => (d.putHeld pid { h with pkt := { h.pkt with payload := data }, rcvd := cellsOf data.length }).endEarly pid
  | .gone => d.dropHeld pid
  | _ => (d.rxDrop h).dropHeld pid

/-- A whole good frame: what it did not fill is freed (06 R155), it becomes eligible, Belfry gets its PTP messages, its
source is learned. -/
def frameGood (s : State) (pid : Nat) (h : Held) (lp : Nat) (data : List Byte) : State :=
  let p := parseFrame data
  let n := data.length
  let d := s.dev
  let fwd := d.forwarded pid
  let h' := { h with done := true, pkt := { h.pkt with payload := data, len := if fwd then h.pkt.len else n } }
  let d := if h.phase = .gone then d.dropHeld pid else (d.putHeld pid h').shrink pid (cellsOf n)
  let toBelfry := h.phase = .engine || ptpMulticast data p
  let d := if h.phase = .engine then d.dropHeld pid else d
  let d := match ptpAt [319, 320] data p with
    | some o => if toBelfry then d.ptpToBelfry lp { h'.pkt with payload := data.drop o } h.tin else d
    | none => d
  let s := { s with dev := d }
  let ex := match h.frame with
    | some i => i.excess
    | none => false
  if d.rdB .plnLetLpCfg lp 15 && h.colour != .red && !macGroup (frameSrc data) && p.et != 0x8808 && !ex then
    learn s ⟨0, h.pkt.tenant, p.vlan, frameSrc data, lp, some pid⟩
  else s

/-- ETH_FRAME_END: the rest of a frame arrives, its last four bytes the FCS, least significant byte first. A frame that runs
past the length fixed at its head is cut there (06 R155): so is every frame longer than the max_frame of its head lookup
(R88), for that length is at most max_frame - 4. -/
def ethEnd (s : State) (lp : Nat) (rest : List Byte) : State :=
  let openF := s.dev.keep.pkts.find? fun e => e.2.lp == some lp && e.2.frame.isSome && !e.2.done
  match openF with
  | none => s
  | some (pid, h) =>
    let all := h.pkt.payload ++ rest
    let n := all.length
    let data := all.take (n - 4)
    let s := s.on fun d => d.rxCount h lp n (cellsOf data.length)
    let b := match h.frame with
      | some f => f.fixed
      | none => 0
    if n < 64 then s.on fun d => d.frameBad pid h lp .plnLnkEthRunt data
    else if b < data.length then s.on fun d => d.frameBad pid h lp .plnLnkEthOversize (data.take b)
    else if crc32 data != leAt all (n - 4) 4 then s.on fun d => d.frameBad pid h lp .plnLnkEthFcs data
    else frameGood s pid h lp data

/-- ETH_FRAME_END. -/
def execEthFrameEnd (lp : Fin 2048) (rest : List Byte) (s : State) : Host.Outcome State Fault Refusal :=
  .next (ethEnd s lp rest)

/-- LEARN_INSERT (R145): the oldest pending insertion of a pipeline is placed in the LET, or fails; it waits while P1 is paused
(12 R329). -/
def learnInsert (s : State) (pl : Nat) : State :=
  match SMap.getD s.dev.tab.learnQ pl [] with
  | [] => s
  | l :: q =>
    if s.dev.letOn pl && !s.dev.letDead pl && s.dev.classPaused (s.dev.letStack pl) 1 then s else
    let s := s.on fun d => { d with tab := { d.tab with learnQ := SMap.put d.tab.learnQ pl [] q } }
    if !s.dev.letOn pl then s
    else
      let key := letKey l.kind l.tenant l.vlan l.addr
      match letFind s pl key with
      | (s, some x) => letRefresh s pl x l.lp
      | (s, none) =>
        let ws := [putBits (key.getD 0 0) 29 28 2, key.getD 1 0, key.getD 2 0, 0, 0, 0, s.dev.bellStamp * 2 ^ 16 + l.lp, 0]
        match letPlace s pl ws with
        | (s, some _) => s.on fun d => d.bump .plnLetLearned pl
        | (s, none) => s.on fun d =>
          let d := d.bump .plnLetInsFail pl
          match l.pid with
          | some pid => d.refitFlood pid l.lp
          | none => d

/-- LEARN_INSERT. -/
def execLearnInsert (pl : Fin 64) (s : State) : Host.Outcome State Fault Refusal := .next (learnInsert s pl)

end Sys2Proof.Machine
end

