-- ==== Sys2Proof/Machine/Scheduler.lean ====
section
/-! DEFINITION. The egress scheduler (07_scheduling.md R190 to R195, R200 to R203). -/

namespace Sys2Proof.Machine

/-! Charged bytes (R195). -/

/-- A packet may begin on its egress port (06 R165): cut-through, or whole and not in HBM. -/
def QEnt.eligible (e : QEnt) (h : Held) : Bool := e.cut || (h.done && h.spill != .hbm && h.spill != .stage)

/-- The payload bytes of a packet as an egress sees it: its frame's length once it is whole, else as fixed at the head. -/
def Held.outLen (h : Held) : Nat := if h.done then h.pkt.payload.length else h.pkt.len

/-- The bytes by which a routed copy's VLAN tag lengthens (then shortens) its frame (04 R110). -/
def vlanDelta (h : Held) (rw : Rewrite) : Nat × Nat :=
  match h.frame with
  | some f =>
    let et := beAt h.pkt.payload 12 2
    let tagged := et == 0x8100 || et == 0x88A8
    if !f.routed then (0, 0) else if rw.vlan = 0 then (0, if tagged then 4 else 0) else (if tagged then 0 else 4, 0)
  | none => (0, 0)

/-- The frame or payload bytes that a copy carries. -/
def copyLen (h : Held) (rw : Rewrite) : Nat := h.outLen + (vlanDelta h rw).1 - (vlanDelta h rw).2

/-- Charged bytes of a copy on its port (R195). -/
def Dev.charged (d : Dev) (e : QEnt) (h : Held) : Nat :=
  if d.isEth e.lp then copyLen h e.rw + 24 else cellsOf (copyLen h e.rw) * 64

/-! Time gates (R200 to R203). -/

/-- The gate list of a port: durations and masks. -/
def Dev.gateList (d : Dev) (lp : Nat) : List (Nat × Nat) :=
  let cfg := d.rd .schGateCfg lp
  (upto (fld cfg 28 16)).map fun i =>
    let w := d.rd .schGateEnt (lpDie lp * 4096 + (fld cfg 11 0 + i) % 4096)
    (fld w 23 8, fld w 7 0)

/-- The sum of durations. -/
def gateCycle (l : List (Nat × Nat)) : Nat := l.foldl (fun n e => n + e.1) 0

/-- The list from the entry in force at a position, with what is left of it first; the entries passed come after the rest
in their order, and what is spent of the entry in force comes last. -/
def gateTurn (passed : List (Nat × Nat)) : List (Nat × Nat) → Nat → List (Nat × Nat)
  | [], _ => []
  | e :: t, p =>
    if p < e.1 then (e.1 - p, e.2) :: t ++ passed ++ [(p, e.2)] else gateTurn (passed ++ [e]) t (p - e.1)

/-- Bells until the run of entries that open class c ends; none: it never does. An entry of duration 0 holds no bell. -/
def gateRun (c : Nat) : List (Nat × Nat) → Option Nat
  | [] => none
  | e :: t => if e.1 = 0 then gateRun c t else if bit e.2 c then (gateRun c t).map (· + e.1) else some 0

/-- The gate of a class at a port. -/
inductive Gate where
  /-- Always open, or never closing. -/
  | clear
  | shut
  /-- Open until this bell. -/
  | till (bell : Nat)
deriving DecidableEq, Repr

/-- The gate of class c of a port at the last bell fired (R200, R202). -/
def Dev.gate (d : Dev) (lp c : Nat) : Gate :=
  if !d.rdB .schGateCfg lp 31 then .clear
  else
    let l := d.gateList lp
    let n := gateCycle l
    if n = 0 then .shut
    else
      let pos := ((d.time.bell + 2 ^ 64 - d.rdN .schGatePhase lp) % 2 ^ 64) % n
      match gateRun c (gateTurn [] l pos) with
      | none => .clear
      | some 0 => .shut
      | some k => .till (d.time.bell + k)

/-- The estimated transmission of b charged bytes ends by bell n (R202): rate in Gb/s is bits in each ns. -/
def Dev.fits (d : Dev) (lp b n : Nat) : Bool :=
  decide (d.time.now * d.rate lp + b * 8 * nsUnit ≤ n * d.period * nsUnit * d.rate lp)

/-! Ready queues (R190). -/

/-- The packet at the head of a queue's FIFO of a VC, if it is eligible. -/
def Dev.front (d : Dev) (q v : Nat) : Option (QEnt × Held) :=
  match SMap.getD d.keep.queues (q * 8 + v) [] with
  | e :: _ =>
    match d.held e.pid with
    | some h => if e.eligible h then some (e, h) else none
    | none => none
  | [] => none

/-- A queue is ready for a VC: its eligible head is admitted by the gate of its class. -/
def Dev.queueReady (d : Dev) (lp c q v : Nat) : Bool :=
  match d.front q v with
  | some (e, h) =>
    match d.gate lp c with
    | .clear => true
    | .shut => false
    | .till n => d.fits lp (d.charged e h) n
  | none => false

/-- A head whose class is open and that does not fit is counted once in SCH_GATE_WAIT (R202). -/
def Dev.gateWaitOne (d : Dev) (lp c q v : Nat) : Dev :=
  match d.front q v, d.gate lp c with
  | some (e, h), .till n =>
    if d.fits lp (d.charged e h) n || d.sch.waited.contains (e.pid, lp) then d
    else
      let d := { d with sch := { d.sch with waited := (e.pid, lp) :: d.sch.waited } }
      (d.bump .schGateWait (lpDie lp)).ocu (lpDie lp) 16 { lp := some lp, tclass := some c } 1
  | _, _ => d

/-! Shapers (R190, R194). -/

/-- What a shaper lets through: conforming, or in excess. -/
structure Shaper where
  shape : Bool
  excess : Bool
  rate : Nat
  tok : Int

def Shaper.conf (x : Shaper) : Bool := !x.shape || (x.rate != 0 && decide (0 < x.tok))
def Shaper.allow (x : Shaper) (excess : Bool) : Bool := x.conf || (excess && x.excess && x.rate != 0)

/-- The shaper of a leaf, of a node, of a port; a default queue has none. -/
def Dev.queueShaper (d : Dev) (q : Nat) : Shaper :=
  let die := q / 10240
  let l := q % 10240
  if l ≥ 8192 then ⟨false, false, 0, 0⟩
  else
    let w0 := d.entW 6 0 die l 0
    ⟨bit w0 29, bit w0 30, bits (d.entW 6 0 die l 2) 21 0, (d.leafBucket die l).tok⟩

def Dev.nodeShaper (d : Dev) (die s : Nat) : Shaper :=
  if !d.nodeValid die s then ⟨false, false, 0, 0⟩
  else
    let w0 := d.entW 7 0 die s 0
    ⟨bit w0 27, bit w0 30, bits (d.entW 7 0 die s 2) 21 0, (d.nodeBucket die s).tok⟩

def Dev.portBucket (d : Dev) (lp : Nat) : Bucket :=
  d.bucket d.sch.portTok lp (d.rdF .schPortShape lp 21 0) (d.rdF .schPortBurst lp 23 0)

def Dev.portShaper (d : Dev) (lp : Nat) : Shaper :=
  ⟨d.rdB .schPortShape lp 31, false, d.rdF .schPortShape lp 21 0, (d.portBucket lp).tok⟩

/-- Weights (R187): a default queue's is its node's dflt_weight; 1 for an invalid node. -/
def Dev.queueWeight (d : Dev) (s q : Nat) : Nat :=
  let die := q / 10240
  let l := q % 10240
  if l < 8192 then bits (d.entW 6 0 die l 1) 9 0
  else if d.nodeValid die s then bits (d.entW 7 0 die s 1) 25 16 else 1

def Dev.nodeWeight (d : Dev) (die s : Nat) : Nat := if d.nodeValid die s then bits (d.entW 7 0 die s 1) 9 0 else 1

def Dev.nodeStrict (d : Dev) (die s : Nat) : Nat := if d.nodeValid die s then bits (d.entW 7 0 die s 0) 29 28 else 0

/-! Selection (R190). -/

/-- The first of a list with the least start tag. -/
def minTag (tag : Nat → Nat) : List Nat → Option Nat
  | [] => none
  | a :: t =>
    match minTag tag t with
    | some b => if tagLt (tag b) (tag a) then some b else some a
    | none => some a

/-- A selection: queue, node, whether the node passed at the port in excess, and the queue in its node. -/
structure Choice where
  q : Nat
  s : Nat
  nodeExcess : Bool
  queueExcess : Bool

/-- pick_queue of node s: leaves in ascending order rank before the default queue. -/
def Dev.pickQueue (d : Dev) (lp s v : Nat) (nodeExcess : Bool) : Option Choice :=
  let ready := (d.nodeQueues (lpDie lp) s).filter fun q => d.queueReady lp (s % 8) q v
  let pick := fun excess => minTag d.queueTag (ready.filter fun q => (d.queueShaper q).allow excess)
  match pick false with
  | some q => some ⟨q, s, nodeExcess, false⟩
  | none => (pick true).map fun q => ⟨q, s, nodeExcess, true⟩

/-- The weighted nodes of a port by ascending start tag, ties to the lower node. -/
def Dev.byTag (d : Dev) (die : Nat) : Nat → List Nat → List Nat
  | 0, _ => []
  | k + 1, l =>
    match minTag (fun s => SMap.getD d.sch.nodeS (die * 2048 + s) 0) l with
    | some s => s :: d.byTag die k (l.filter (· != s))
    | none => []

/-- select of a port for VC v. -/
def Dev.select (d : Dev) (lp v : Nat) : Option Choice :=
  if !(d.portShaper lp).conf then none
  else
    let die := lpDie lp
    let nodes := (upto 8).map fun c => lpJ lp * 8 + c
    let strict := [1, 2, 3].filterMap fun lvl => nodes.find? fun s => d.nodeStrict die s == lvl
    let weighted := d.byTag die 8 (nodes.filter fun s => d.nodeStrict die s == 0)
    let a := (strict.filter fun s => (d.nodeShaper die s).conf).findSome? fun s => d.pickQueue lp s v false
    let pass := fun ex => (weighted.filter fun s => (d.nodeShaper die s).allow ex).findSome? fun s => d.pickQueue lp s v ex
    match a with
    | some c => some c
    | none =>
      match pass false with
      | some c => some c
      | none => pass true

/-! Charging and tags (R191, R192). -/

/-- b bytes taken from the shapers that the selection passed within their rates, and from the port's. A shaper with
shape_en = 0 is not charged: its tokens stay as they are, for R194 bounds how far tokens fall (DEDUCED, assumption 143). -/
def Dev.charge (d : Dev) (lp b : Nat) (c : Choice) : Dev :=
  let die := lpDie lp
  let l := c.q % 10240
  let d := if l < 8192 && !c.queueExcess && (d.queueShaper c.q).shape then
      { d with sch := { d.sch with leafTok := SMap.insert (die * 8192 + l) ((d.leafBucket die l).take b) d.sch.leafTok } }
    else d
  let d := if !c.nodeExcess && (d.nodeShaper die c.s).shape then
      { d with sch := { d.sch with nodeTok := SMap.insert (die * 2048 + c.s) ((d.nodeBucket die c.s).take b) d.sch.nodeTok } }
    else d
  if (d.portShaper lp).shape then
    { d with sch := { d.sch with portTok := SMap.insert lp ((d.portBucket lp).take b) d.sch.portTok } }
  else d

/-- A start tag after b bytes at a weight. -/
def tagAfter (x b weight : Nat) : Nat := (x + b * 1024 / weight) % 2 ^ 48

/-- Virtual times and start tags after a selection (R191); strict nodes carry no start tag. -/
def Dev.schAdvance (d : Dev) (lp b : Nat) (c : Choice) : Dev :=
  let die := lpDie lp
  let n := die * 2048 + c.s
  let x := d.queueTag c.q
  let d := { d with sch := { d.sch with nodeV := SMap.put d.sch.nodeV n 0 x } }
  let d := d.setQueueTag c.q (tagAfter x b (d.queueWeight c.s c.q))
  if d.nodeStrict die c.s ≠ 0 then d
  else
    let y := SMap.getD d.sch.nodeS n 0
    { d with sch := { d.sch with portV := SMap.put d.sch.portV lp 0 y,
                                 nodeS := SMap.put d.sch.nodeS n 0 (tagAfter y b (d.nodeWeight die c.s)) } }

/-- The head of a queue's FIFO goes to the port's slot of the VC. -/
def Dev.toSlot (d : Dev) (lp v q : Nat) (closes : Option Nat) : Dev :=
  match SMap.getD d.keep.queues (q * 8 + v) [] with
  | e :: es =>
    { d with keep := { d.keep with queues := SMap.put d.keep.queues (q * 8 + v) [] es,
                                   slots := SMap.insert (lp * 8 + v) ⟨e, 0, closes, 0⟩ d.keep.slots },
             sch := { d.sch with waited := d.sch.waited.filter fun w => !(w.1 == e.pid && w.2 == lp) } }
  | [] => d

/-- A selection is made for VC v of a port whose slot is empty. -/
def Dev.schedule (d : Dev) (lp v : Nat) : Dev :=
  if (SMap.find? d.keep.slots (lp * 8 + v)).isSome then d
  else
    let die := lpDie lp
    let d := (upto 8).foldl (fun d c =>
      (d.nodeQueues die (lpJ lp * 8 + c)).foldl (fun d q => d.gateWaitOne lp c q v) d) d
    match d.select lp v with
    | none => d
    | some c =>
      match d.front c.q v with
      | none => d
      | some (e, h) =>
        let b := d.charged e h
        let closes := match d.gate lp (c.s % 8) with
          | .till n => some n
          | _ => none
        let d := (d.charge lp b c).schAdvance lp b c
        let d := if c.nodeExcess || c.queueExcess then
            (d.bump .schExcessSel die).ocu die 15 { lp := some lp, tclass := some (c.s % 8) } 1
          else d
        d.toSlot lp v c.q closes

/-- SCHEDULER_SELECT. -/
def execSchedulerSelect (lp : Fin 2048) (vc : Fin 6) (s : State) : Host.Outcome State Fault Refusal :=
  .next (s.on fun d => d.schedule lp vc)

end Sys2Proof.Machine
end

