-- ==== Sys2Proof/Machine/Transmit.lean ====
section
/-! DEFINITION. What an egress port sends (06_keep_buffer.md R165 to R169, R176, R181, 03_cells_and_links.md R65 to R73,
R89 to R91), the transparent clock (02 R49, R50), the mesh (06 R168, R183) and Belfry's PTP messages (02 R51). -/

namespace Sys2Proof.Machine

/-! Checksums (03 R91). -/

/-- A sum of 16-bit words folded to 16 bits. -/
def fold16 (n : Nat) : Nat := let a := n % 65536 + n / 65536; a % 65536 + a / 65536

/-- A ones' complement checksum updated incrementally for a change of words. -/
def csumFix (c : Nat) (old new : List Nat) : Nat :=
  let s := (65535 - c) + (old.foldl (fun a w => a + (65535 - w)) 0) + new.foldl (· + ·) 0
  65535 - fold16 (fold16 s)

/-- The 16-bit words of bytes. -/
def words16 (bs : List Byte) : List Nat := (upto (bs.length / 2)).map fun i => beAt bs (2 * i) 2

/-- Bytes replaced at an offset. -/
def patch (bs : List Byte) (o : Nat) (new : List Byte) : List Byte := bs.take o ++ new ++ bs.drop (o + new.length)

/-! Rewriting routed frames (04 R110, 03 R91). -/

/-- TTL or hop limit one lower, CE set where the copy is marked, and the IPv4 header checksum updated. -/
def rewriteIp (bs : List Byte) (l3 ver : Nat) (ce : Bool) : List Byte :=
  if ver = 4 then
    let old := words16 (slice bs l3 2 ++ slice bs (l3 + 8) 2)
    let b1 := beAt bs (l3 + 1) 1
    let bs := patch bs (l3 + 1) (toBE 1 (if ce then orN b1 3 else b1))
    let bs := patch bs (l3 + 8) (toBE 1 (beAt bs (l3 + 8) 1 - 1))
    let new := words16 (slice bs l3 2 ++ slice bs (l3 + 8) 2)
    patch bs (l3 + 10) (toBE 2 (csumFix (beAt bs (l3 + 10) 2) old new))
  else
    let b1 := beAt bs (l3 + 1) 1
    let bs := patch bs (l3 + 1) (toBE 1 (if ce then orN b1 0x30 else b1))
    patch bs (l3 + 7) (toBE 1 (beAt bs (l3 + 7) 1 - 1))

/-- The outermost VLAN tag set to a VLAN, its priority kept; removed for VLAN 0; added with the priority bits `pri` to an
untagged frame. -/
def rewriteVlan (bs : List Byte) (vlan pri : Nat) : List Byte :=
  let et := beAt bs 12 2
  if et = 0x8100 ∨ et = 0x88A8 then
    if vlan = 0 then bs.take 12 ++ bs.drop 16 else patch bs 14 (toBE 2 (beAt bs 14 2 / 4096 * 4096 + vlan))
  else if vlan = 0 then bs
  else bs.take 12 ++ toBE 2 0x8100 ++ toBE 2 (pri % 16 * 4096 + vlan) ++ bs.drop 12

/-- The bytes of a frame's copy, with the router MAC and the tag as its head lookup found them (02 R46). -/
def frameCopy (h : Held) (e : QEnt) : List Byte :=
  match h.frame with
  | some f =>
    if !f.routed then h.pkt.payload
    else
      let bs := rewriteIp h.pkt.payload f.ipOff f.ipVer e.ce
      let bs := patch bs 0 (toBE 6 e.rw.dmac ++ toBE 6 f.rmac)
      rewriteVlan bs e.rw.vlan e.rw.pri
  | none => h.pkt.payload

/-! The transparent clock (02 R49, R50). -/

/-- A PTP message of n bytes at offset o of some bytes: whether its correctionField takes the residence time, and whether
it is counted in TIM_TC_SKIP. -/
def tcJudge (bs : List Byte) (o n : Nat) : Bool × Bool :=
  if n < 34 then (false, true)
  else
    let t := beAt bs o 1 % 16
    if t > 3 then (false, false)
    else if beAt bs (o + 1) 1 % 16 ≠ 2 then (false, true)
    else if t = 1 then (true, false)
    else if t = 0 then (if bit (beAt bs (o + 6) 1) 1 then (false, true) else (true, false))
    else (false, true)

/-- The residence time in units of 2^-16 ns. -/
def Dev.residence (d : Dev) (h : Held) : Nat := (d.time.now - h.tin) / 2 ^ 24

/-- correctionField at offset o with the residence time added. -/
def addCorrection (bs : List Byte) (o n : Nat) : List Byte :=
  patch bs (o + 8) (toBE 8 (ofSigned 64 (toSigned 64 (beAt bs (o + 8) 8) + n)))

/-- A UDP checksum updated for a changed correctionField; 0 over IPv4 stands for none. -/
def fixUdp (old new : List Byte) (u o : Nat) : List Byte :=
  let c := beAt old (u + 6) 2
  if c = 0 then new
  else
    let c' := csumFix c (words16 (slice old (o + 8) 8)) (words16 (slice new (o + 8) 8))
    patch new (u + 6) (toBE 2 (if c' = 0 then 65535 else c'))

/-- Where the PTP message of a packet that Table 2-4 recognises stands, and its length: in a frame that of its UDP datagram,
or what the frame's length leaves. -/
def ptpPlace (h : Held) : Option (Nat × Nat) :=
  if h.frame.isSome then
    let bs := h.pkt.payload
    let p := parseFrame bs
    (ptpAt [319] bs p).map fun o =>
      (o, match udpAt bs p with
        | some u => min (h.outLen - o) (beAt bs (u + 4) 2 - 8)
        | none => h.outLen - o)
  else if h.pkt.op = 0x71 then some (0, h.pkt.len)
  else none

/-- A copy's packet as the transparent clock changes it, with residence time `res`. Belfry's own messages and those with
tc_en = 0 are unchanged. -/
def Dev.tcEdit (d : Dev) (h : Held) (res : Nat) (payload : List Byte) : List Byte :=
  if !d.rdB .timCtrl 0 4 || h.lp.isNone then payload
  else match ptpPlace h with
    | some (o, n) =>
      if (tcJudge h.pkt.payload o n).1 then
        let o' := o + payload.length - h.pkt.payload.length
        let new := addCorrection payload o' res
        match (if h.frame.isSome then udpAt payload (parseFrame payload) else none) with
        | some u => fixUdp payload new u o'
        | none => new
      else payload
    | none => payload

/-- TIM_TC_SKIP counts a PTP message that is forwarded unchanged once (R50). -/
def Dev.tcCount (d : Dev) (pid : Nat) (h : Held) : Dev :=
  if !d.rdB .timCtrl 0 4 || h.lp.isNone || h.skipped then d
  else match ptpPlace h with
    | some (o, n) =>
      if (tcJudge h.pkt.payload o n).2 then (d.bump .timTcSkip 0).putHeld pid { h with skipped := true } else d
    | none => d

/-! Cells (03 R65 to R73). -/

/-- A cell control word (Table 3-3). -/
def ctlWord (typ vc crdVc crd valid fin : Nat) (mnt null : Bool) : List Byte :=
  toBE 4 (typ * 2 ^ 30 + vc * 2 ^ 27 + crdVc * 2 ^ 24 + crd * 2 ^ 18 + valid * 2 ^ 12 + fin * 2 ^ 10 +
    b2n mnt * 2 ^ 9 + b2n null * 2 ^ 8)

/-- A null cell with a credit return (R66). -/
def nullCell (crdVc crd : Nat) : List Byte := ctlWord 0 0 crdVc crd 0 0 false true ++ List.replicate 60 0

/-- Where the payload of cell `pos` begins (R72). -/
def cellStart (pos : Nat) : Nat := if pos = 0 then 0 else 36 + 60 * (pos - 1)

/-- Cell `pos` of a packet of n cells, with a credit return; `abort` marks its end, as does the empty MSG_GET_RSP that
answers a get which failed (03 R81). -/
def packetCell (p : Pkt) (ce : Bool) (pos n crdVc crd : Nat) (abort : Bool) : List Byte :=
  let fin := if abort || (p.op == 0x13 && p.len == 0) then 1 else 0
  let crc := toLE 4 (pktCrc p)
  if n = 1 then
    ctlWord 3 p.vc crdVc crd p.len fin false false ++ hdrBytes p p.hops ce ++ slice p.payload 0 32 ++ crc
  else if pos = 0 then ctlWord 1 p.vc crdVc crd 0 0 false false ++ hdrBytes p p.hops ce ++ slice p.payload 0 36
  else if pos + 1 < n then ctlWord 0 p.vc crdVc crd 0 0 false false ++ slice p.payload (cellStart pos) 60
  else
    let m := p.len - cellStart pos
    ctlWord 2 p.vc crdVc crd m fin false false ++ slice p.payload (cellStart pos) 56 ++ crc

/-- The ABORT TAIL that ends a copy early (assumption 13: no payload bytes and zeros). -/
def abortTail (vc crdVc crd : Nat) : List Byte := ctlWord 2 vc crdVc crd 0 1 false false ++ List.replicate 60 0

/-- Credits returned with a cell: those owed on the lowest VC that owes any, at most 63 (assumption 14). -/
def Dev.takeCredit (d : Dev) (lp : Nat) : Dev × Nat × Nat :=
  match (upto 8).find? fun v => (SMap.getD d.link.credits (lp * 8 + v) {}).owed != 0 with
  | some v =>
    let c := SMap.getD d.link.credits (lp * 8 + v) {}
    let n := min 63 c.owed
    let c := { c with owed := c.owed - n, far := c.far + n }
    ({ d with link := { d.link with credits := SMap.put d.link.credits (lp * 8 + v) {} c } }, v, n)
  | none => (d, 0, 0)

/-! A slot's next cell. -/

/-- The cells of a copy. -/
def copyCells (h : Held) (rw : Rewrite) : Nat := cellsOf (copyLen h rw)

/-- A native copy in a slot ends early at its next cell: its packet was ended, or its frame proved shorter than its header,
sent already, says. -/
def slotBad (s : Slot) (h : Held) : Bool := h.bad || (s.pos != 0 && h.done && h.pkt.len != h.pkt.payload.length)

/-- The next cell of a slot is present. -/
def cellReady (s : Slot) (h : Held) : Bool :=
  h.done || (s.pos + 1 < copyCells h s.ent.rw && decide (cellStart (s.pos + 1) ≤ h.pkt.payload.length))

/-- A VC of a port can send its next cell. -/
def Dev.vcReady (d : Dev) (lp v : Nat) : Bool :=
  match SMap.find? d.keep.slots (lp * 8 + v) with
  | some s =>
    match d.held s.ent.pid with
    | some h => cellReady s h && (d.isEth lp || d.rdF .plnLnkCrdAvail (lp * 8 + v) 16 0 != 0)
    | none => false
  | none => false

/-- VC6 and VC7 fill their slots from their FIFOs (R166, 07 R185). -/
def Dev.fillControl (d : Dev) (lp : Nat) : Dev :=
  [6, 7].foldl (fun d v =>
    if (SMap.find? d.keep.slots (lp * 8 + v)).isSome then d
    else
      let q := 81920 + lp * 8 + v
      if (d.front q v).isSome then d.toSlot lp v q none else d) d

/-! Arbitration (R181). -/

/-- KEP_VCW of a port and VC. -/
def Dev.vcWeight (d : Dev) (lp v : Nat) : Nat :=
  if v < 4 then d.rdF .kepVcwLo lp (8 * v + 7) (8 * v) else d.rdF .kepVcwHi lp (8 * (v - 4) + 7) (8 * (v - 4))

/-- What is left of a VC's turn. -/
def Dev.turnLeft (d : Dev) (lp v : Nat) : Int := SMap.getD d.keep.deficit (lp * 8 + v) 0

/-- Deficit round-robin: the VC served last goes on while its turn lasts; the next ready ones get a turn each until one
has something left. -/
def Dev.drr (d : Dev) (lp unit : Nat) : Nat → Nat → Dev × Option Nat
  | 0, _ => (d, none)
  | k + 1, v =>
    if d.vcReady lp v && decide (0 < d.turnLeft lp v) then (d, some v)
    else
      let d := { d with keep := { d.keep with
        deficit := SMap.put d.keep.deficit (lp * 8 + v) 0 (min 0 (d.turnLeft lp v)) } }
      let w := (v + 1) % 6
      let d := if d.vcReady lp w then
          { d with keep := { d.keep with
            deficit := SMap.modify d.keep.deficit (lp * 8 + w) 0 (fun x => min 0 x + (d.vcWeight lp w * unit : Nat)) } }
        else d
      d.drr lp unit k w

/-- The VC to send a cell of: VC7, VC6, then the round-robin. An Ethernet port ends the frame it has begun. -/
def Dev.chooseVc (d : Dev) (lp : Nat) : Dev × Option Nat :=
  let begun := if d.isEth lp then
      (upto 8).find? fun v => match SMap.find? d.keep.slots (lp * 8 + v) with
        | some s => s.pos != 0
        | none => false
    else none
  match begun with
  | some v => (d, if d.vcReady lp v then some v else none)
  | none =>
    if d.vcReady lp 7 then (d, some 7)
    else if d.vcReady lp 6 then (d, some 6)
    else if (upto 6).any fun v => d.vcReady lp v then
      let (d, v) := d.drr lp (if d.isEth lp then 64 else 1) 1200 (SMap.getD d.keep.rrLast lp 0)
      match v with
      | some v => ({ d with keep := { d.keep with rrLast := SMap.put d.keep.rrLast lp 0 v } }, some v)
      | none => (d, none)
    else (d, none)

/-- A turn pays for n units. -/
def Dev.payTurn (d : Dev) (lp v n : Nat) : Dev :=
  if v ≥ 6 then d
  else { d with keep := { d.keep with deficit := SMap.modify d.keep.deficit (lp * 8 + v) 0 (· - (n : Int)) } }

/-! Sending. -/

/-- A copy has sent its last cell: counted (17 R447), its slot empties, its cells may be freed (R171). -/
def Dev.copySent (d : Dev) (lp v : Nat) (s : Slot) (h : Held) (bytes cells : Nat) : Dev :=
  let die := lpDie lp
  let t := h.tag (some lp)
  let d := ((d.portBytes lp fTxBytes bytes).portCount lp fTxCells cells).portCount lp fTxPkts 1
  let d := ((d.ocu die 5 t 1).ocu die 6 t bytes).ocu die 7 t cells
  let d := (d.page h.pkt.tenant tTxPkts 1).page h.pkt.tenant tTxBytes bytes
  let late := match s.closes with
    | some b => decide (b * d.period * nsUnit < d.time.now)
    | none => false
  let d := if late then d.bump .schGateOverrun die else d
  let d := { d with keep := { d.keep with slots := SMap.erase d.keep.slots (lp * 8 + v) } }
  d.copyEnds s.ent

/-- The dies a copy's cell is sent through on the mesh: from the die that stores it, through the relay of a fenced link
(R168), to the egress die. -/
def Dev.meshPath (d : Dev) (a b : Nat) : List (Nat × Nat) :=
  if a = b then []
  else if d.rdB .d2dStatus (a * 8 + b) 1 then
    let r := d.rdF .d2dStatus (a * 8 + b) 9 2
    [(a, r), (r, b)]
  else [(a, b)]

/-- A cell crosses the mesh: D2D_CELLS of the sending die, with the peer as its unit. Of each link, `bad` groups arrive with
a bad CRC-32C: the receiving die counts them, and each starts a replay of the sending die (R168, R183, assumption 137). -/
def Dev.meshCell (d : Dev) (a b bad : Nat) : Dev :=
  (d.meshPath a b).foldl (fun d x =>
    ((d.ocu x.1 31 { lp := some x.2 } 1).bumpN .d2dCrcErr (x.2 * 8 + x.1) bad).bumpN .d2dRetry (x.1 * 8 + x.2) bad) d

/-- The packet that a native copy sends: its frame rewritten and carried as ETH_ENCAP (04 R111), or itself. -/
def Dev.nativeCopy (d : Dev) (s : Slot) (h : Held) : Pkt :=
  let bs := d.tcEdit h s.res (frameCopy h s.ent)
  if h.frame.isSome then { h.pkt with payload := bs, did := s.ent.rw.encap, len := copyLen h s.ent.rw }
  else { h.pkt with payload := bs }

/-- The first cell of a copy leaves: its residence time ends at the first bit (02 R49, 01 R29), and Belfry learns the
time of a message that it waits for (02 R51). -/
def Dev.copyBegins (d : Dev) (lp : Nat) (s : Slot) (h : Held) : Dev × Slot :=
  if s.pos = 0 then (if h.stamp then d.emit (.ptpOut lp d.time.now) else d, { s with res := d.residence h }) else (d, s)

/-- A slot goes on to its next cell. -/
def Dev.slotNext (d : Dev) (lp v : Nat) (s : Slot) : Dev :=
  { d with keep := { d.keep with slots := SMap.insert (lp * 8 + v) { s with pos := s.pos + 1 } d.keep.slots } }

/-- The copy's ce bit is set (06 R162): a routed frame's mark stands in its IP header instead. -/
def QEnt.marks (e : QEnt) (h : Held) : Bool :=
  e.ce && (match h.frame with
    | some f => !f.routed
    | none => true)

/-- A native port sends the next cell of a VC's copy. -/
def Dev.sendCell (d : Dev) (lp v : Nat) (s : Slot) (h : Held) (corrupt : Bool) (mesh : Nat) : Dev :=
  let bad := slotBad s h && s.pos != 0
  let n := copyCells h s.ent.rw
  let last := bad || s.pos + 1 == n
  let (d, crdVc, crd) := (d.touch lp).takeCredit lp
  let (d, s) := d.copyBegins lp s h
  let cell := if bad then abortTail v crdVc crd
    else packetCell (d.nativeCopy s h) (h.pkt.ce || s.ent.marks h) s.pos n crdVc crd corrupt
  let d := d.wrF .plnLnkCrdAvail (lp * 8 + v) 16 0 (d.rdF .plnLnkCrdAvail (lp * 8 + v) 16 0 - 1)
  let d := d.setPort lp { d.port lp with txCells := (d.port lp).txCells ++ [cell] }
  let d := (d.meshCell h.die (lpDie lp) mesh).payTurn lp v 1
  if last then
    let d := if bad then d else d.tcCount s.ent.pid h
    let d := if corrupt && !bad then d.bump .kepCrcInt (lpDie lp) else d
    d.copySent lp v s h ((s.pos + 1) * 64) (s.pos + 1)
  else d.slotNext lp v s

/-- The bytes that an Ethernet port sends: the frame with its FCS, inverted where the frame is bad (03 R89, R90). -/
def ethBytes (bs : List Byte) (bad : Bool) : List Byte :=
  bs ++ toLE 4 (if bad then xorN (crc32 bs) 0xFFFFFFFF else crc32 bs)

/-- An Ethernet port sends the next cell of the frame it has begun; the frame stands on the wire with its last one. -/
def Dev.sendFrame (d : Dev) (lp v : Nat) (s : Slot) (h : Held) (corrupt : Bool) (mesh : Nat) : Dev :=
  let d := (d.touch lp).meshCell h.die (lpDie lp) mesh
  let (d, s) := d.copyBegins lp s h
  if copyCells h s.ent.rw ≤ s.pos + 1 then
    let d := if h.bad then d else d.tcCount s.ent.pid h
    let bs := d.tcEdit h s.res (frameCopy h s.ent)
    let d := d.emit (.frame lp (ethBytes bs (h.bad || corrupt)))
    let d := if h.under then d.bump .kepUnderrun (lpDie lp) else d
    let d := if corrupt && !h.bad then d.bump .kepCrcInt (lpDie lp) else d
    (d.payTurn lp v (bs.length + 4)).copySent lp v s h (bs.length + 4) (s.pos + 1)
  else d.slotNext lp v s

/-- CELL_TRANSMIT: the port's next cell. A native port with no packet cell to send sends a null cell; cells wait for
their stripe, at most one stripe's (assumption 15). -/
def Dev.transmit (d : Dev) (lp : Nat) (corrupt : Bool) (mesh : Nat) : Dev :=
  if !d.inService lp then d
  else if !d.isEth lp && decide (8 * d.fibLanes (lpFp lp) ≤ (d.port lp).txCells.length) then d
  else
    let (d, v) := (d.fillControl lp).chooseVc lp
    match v with
    | some v =>
      match SMap.find? d.keep.slots (lp * 8 + v) with
      | some s =>
        match d.held s.ent.pid with
        | some h => if d.isEth lp then d.sendFrame lp v s h corrupt mesh else d.sendCell lp v s h corrupt mesh
        | none => d
      | none => d
    | none =>
      if d.isEth lp then d
      else
        let (d, crdVc, crd) := d.takeCredit lp
        d.setPort lp { d.port lp with txCells := (d.port lp).txCells ++ [nullCell crdVc crd] }

/-- CELL_TRANSMIT. -/
def execCellTransmit (lp : Fin 2048) (way : Crossing) (s : State) : Host.Outcome State Fault Refusal :=
  .next (s.on fun d => d.transmit lp way.corrupt way.mesh)

/-! Spill read-back (R176). -/

/-- HBM_SPILL_LOST (12 R327): a spilled packet that reads uncorrectable is discarded; each copy counts in TX_DROP. -/
def Dev.spillLost (d : Dev) (pid tenant : Nat) : Dev :=
  let d := (d.waiting pid).foldl (fun d e => (d.portCount e.lp fTxDrop 1).page tenant tDropped 1) d
  d.dropUnbegun pid

/-- A spilled packet is read back into the stage, where that has room; one that reads uncorrectable is lost. -/
def spillBack (s : State) (die pid : Nat) : State :=
  match s.dev.held pid with
  | some h =>
    if h.die = die ∧ h.spill = .hbm ∧ s.dev.poolRoom die .spill h.cells ∧ s.dev.stackUp (s.dev.spillHpa die 0 / 2 ^ 36) then
      match spillGet s die h.spillAt with
      | (s, none) => s.on fun d => d.spillLost pid h.pkt.tenant
      | (s, some bs) => s.on fun d =>
        let d := (d.poolMove die .spill (· + h.cells)).spillMove die (· - h.cells)
        d.putHeld pid { h with spill := .back, pool := .spill, spillAt := [], spillLen := 0,
                               pkt := { h.pkt with payload := slice bs 0 h.spillLen } }
    else s
  | none => s

/-- SPILL_READBACK. -/
def execSpillReadback (die : Fin 8) (pid : Nat) (s : State) : Host.Outcome State Fault Refusal :=
  .next (spillBack s die pid)

/-! The mesh (R168, R183). -/

/-- The lowest-numbered die outside a pair. -/
def relayDie (a b : Nat) : Nat := ((upto 8).find? fun r => r != a && r != b).getD 0

/-- Both ends of a mesh link take a state: up, or fenced with its relay. -/
def Dev.meshSet (d : Dev) (a b : Nat) (up : Bool) : Dev :=
  let w := if up then 1 else relayDie a b * 4 + 2
  (d.wr .d2dStatus (a * 8 + b) (word w)).wr .d2dStatus (b * 8 + a) (word w)

/-- MESH_FENCE: the link of a pair is fenced, with its ERROR record. -/
def Dev.meshFence (d : Dev) (a b : Nat) : Dev :=
  if a = b ∨ d.rdB .d2dStatus (a * 8 + b) 1 then d
  else (d.meshSet a b false).raise a 0x0401 sevError [a * 16 + b, 0, relayDie a b]

/-- MESH_FENCE. -/
def execMeshFence (die peer : Fin 8) (s : State) : Host.Outcome State Fault Refusal :=
  .next (s.on fun d => d.meshFence die peer)

/-- One retraining of the link of a pair: on success it is up and its fence is cleared; the third failure in a row fences
it. -/
def Dev.meshTrain (d : Dev) (a b : Nat) (ok : Bool) : Dev :=
  if a = b then d
  else
    let k := min a b * 8 + max a b
    let put := fun (d : Dev) n => { d with keep := { d.keep with meshFails := SMap.put d.keep.meshFails k 0 n } }
    if ok then (put d 0).meshSet a b true
    else
      let n := SMap.getD d.keep.meshFails k 0 + 1
      if n ≥ 3 then (put d 0).meshFence a b else put d n

/-- D2D_RETRAIN: bit m of the mask retrains the link to die m; bit m of `ok` is whether its training succeeds. -/
def execD2dRetrain (who : Partner) (die : Fin 8) (mask : Word) (ok : Nat) (s : State) : Host.Outcome State Fault Refusal :=
  .next (s.on fun d => d.ctl who (regOffset .d2dCtrl die) fun d =>
    (maskBits 8 mask.toNat).foldl (fun d m => d.meshTrain die m (bit ok m)) d)

/-! Belfry's PTP messages (02 R51). -/

/-- The Guard's token bucket on what Belfry originates (16 Table 16-12): 1 Gb/s and 16 KiB for each logical port; excess is
dropped and counted. `n` bytes are charged as a shaper charges them (07 R194). -/
def Dev.guardPass (d : Dev) (lp n : Nat) (f : Dev → Dev) : Dev :=
  let b := (SMap.getD d.mgt.bucket lp (Bucket.full 16384 0)).refill 1000 16384 d.time.now
  if b.tok < (n * byteUnit : Nat) then
    { d with mgt := { d.mgt with bucket := SMap.insert lp b d.mgt.bucket } }.bump .grdBfTxDrop 0
  else f { d with mgt := { d.mgt with bucket := SMap.insert lp (b.take n) d.mgt.bucket } }

/-- BELFRY_PTP_SEND: a message leaves through a port as Belfry wrote it; the egress time of an event message is returned.
An Ethernet port sends the frame that the packet's payload holds, which needs no identity of the device (04 R96,
assumption 51). -/
def Dev.belfryPtp (d : Dev) (lp : Nat) (p : Pkt) : Dev :=
  if d.isEth lp then
    let t := beAt p.payload ((ptpAt [319, 320] p.payload (parseFrame p.payload)).getD 0) 1 % 16
    d.guardPass lp (p.payload.length + 24) fun d =>
      d.originate (lpDie lp) { p with op := 0x14, vc := 6 } (some lp) true (decide (t ≤ 3)) {}
  else
    d.guardPass lp (cellsOf p.payload.length * 64) fun d =>
      d.originate (lpDie lp) { p with op := 0x71, vc := 6, sid := d.selfDid (lpDie lp) } (some lp) false
        (decide (beAt p.payload 0 1 % 16 ≤ 3)) {}

/-- BELFRY_PTP_SEND. -/
def execBelfryPtpSend (lp : Fin 2048) (p : Pkt) (s : State) : Host.Outcome State Fault Refusal :=
  .next (s.on fun d => d.belfryPtp lp p)

end Sys2Proof.Machine
end

