-- ==== Sys2Proof/Machine/Hbm.lean ====
section
/-! DEFINITION. The HBM stacks (12_hbm.md R326 to R339): patrol scrub, temperature, training, map-out and fencing. -/

namespace Sys2Proof.Machine

/-- HBM_STATE (17 Table 17-3): stack, new state, reason, channel and size. -/
def Dev.stackRecord (d : Dev) (hs st reason ch sev : Nat) : Dev :=
  d.raise (hs / 4) 0x0703 sev [hs + st * 2 ^ 8, reason * 2 ^ 8 + ch, d.rdF .hbmStackSize hs 5 0]

/-! Patrol scrub (R328). -/

/-- PATROL_SCRUB: a 32-byte block of an ACTIVE stack is read at P3, and what is found is handled as for every read (R327).
`upset`: what the block has become meanwhile (0 nothing new, 1 one erroneous symbol, 2 uncorrectable); `last`: it ends a
pass. -/
def Dev.patrol (d : Dev) (hs block upset : Nat) (last : Bool) : Dev :=
  let a := hs * 2 ^ 36 + block % 2 ^ 31 * 32
  if d.stackState hs ≠ stActive ∨ d.rdF .hbmScrubCfg hs 15 0 = 0 ∨ d.usable a 32 = false ∨ d.hbmWaits a 32 3 = true then d
  else
    let d := (d.upset a upset).hbmSeen a 32 3
    if last then d.bump .hbmScrubPass hs else d

/-- PATROL_SCRUB. -/
def execPatrolScrub (hs : Fin 32) (block : Nat) (upset : Fin 3) (last : Bool) (s : State) :
    Host.Outcome State Fault Refusal :=
  .next (s.on fun d => d.patrol hs block upset last)

/-! Temperature (R329, Table 12-4). -/

/-- The thermal level after a reading: a level is entered above its threshold and left 2 °C or more below it. -/
def thermLevel (old t : Nat) : Nat :=
  let held := fun (l thr : Nat) => decide (thr < t) || (decide (l ≤ old) && decide (thr < t + 2))
  if held 3 100 then 3 else if held 2 95 then 2 else if held 1 85 then 1 else 0

/-- HBM_TEMP_READ. -/
def Dev.hbmTemp (d : Dev) (hs t : Nat) : Dev :=
  let old := d.rdF .hbmStatus hs 19 18
  let new := thermLevel old t
  let d := (d.wrF .hbmStatus hs 31 24 t).wrF .hbmStatus hs 19 18 new
  if new = old then d
  else ((if new < 2 then d.writeBacks hs else d).bump .hbmThermEvt hs).raise (hs / 4) 0x0702 (if 2 ≤ new then sevWarning else sevNotice) [hs + new * 2 ^ 8, 0, t]

/-! Leaving service (R331, R335, Table 12-6). -/

/-- Packets spilled to a stack are lost. -/
def Dev.spillFenced (d : Dev) (hs : Nat) : Dev :=
  let dies := (upto 8).filter fun die =>
    d.rdB .kepSpillBaseHi die 31 && d.rdBase .kepSpillBaseLo .kepSpillBaseHi die / 2 ^ 36 == hs
  let gone := d.keep.pkts.filter fun x => x.2.spill == Spill.hbm && dies.contains x.2.die
  gone.foldl (fun d x => (d.spillLost x.1 x.2.pkt.tenant).bump .hbmSpillLost hs) d

/-- Units in flight remember the stack that leaves ACTIVE. -/
def Dev.unitsGone (d : Dev) (hs : Nat) : Dev :=
  let f := fun (x : Run) => if x.live then { x with gone := hs :: x.gone } else x
  { d with rng := { d.rng with rings := d.rng.rings.map fun e => (e.1, { e.2 with run := e.2.run.map f }) } }

/-- A stack leaves ACTIVE for FENCED or TRAINING. -/
def Dev.stackGone (d : Dev) (hs st : Nat) : Dev :=
  (((((d.wrF .hbmStatus hs 2 0 st).wr .hbmStackSize hs 0).memStackLost hs).laterLost hs).spillFenced hs).unitsGone hs

/-- A stack is fenced, with its reason and channel. -/
def Dev.stackFence (d : Dev) (hs reason ch sev : Nat) : Dev :=
  ((d.stackGone hs stOutFenced).wr .hbmFenceInfo hs (word (reason * 2 ^ 8 + ch))).stackRecord hs stOutFenced reason ch sev

/-- An access at an offset of an ACTIVE stack meets command or address parity errors, and its data is repeated after CRC
errors: its channel fails once either count of this bell exceeds its limit, and the stack is fenced at once (R334). -/
def Dev.channelErrors (d : Dev) (hs off parity retries : Nat) : Dev :=
  let a := hs * 2 ^ 36 + off % 2 ^ 36
  if d.stackState hs ≠ stActive ∨ d.usable a 1 = false then d
  else
    let ch := d.hbmChannel a
    let k := hs * 32 + ch
    let e := SMap.getD d.chanErr k 0 + parity
    let r := SMap.getD d.chanRetry k 0 + retries
    let d := { d with chanErr := SMap.put d.chanErr k 0 e, chanRetry := SMap.put d.chanRetry k 0 r }
    if 16 < e ∨ d.rdF .hbmCfg hs 23 16 < r then d.stackFence hs 2 ch sevCritical else d

/-- CHANNEL_FAIL. -/
def execChannelFail (hs : Fin 32) (found : ChannelErrs) (s : State) : Host.Outcome State Fault Refusal :=
  .next (s.on fun d => d.channelErrors hs found.off found.parity found.retries)

/-- HBM_CTRL.fence: an ACTIVE stack is fenced with reason SOFTWARE. -/
def Dev.hbmFence (d : Dev) (hs : Nat) : Dev := if d.stackState hs = stActive then d.stackFence hs 3 0 sevWarning else d

/-- HBM_FENCE. -/
def execHbmFence (who : Partner) (hs : Fin 32) (s : State) : Host.Outcome State Fault Refusal :=
  .next (s.on fun d => d.ctl who (regOffset .hbmCtrl hs) fun d => d.hbmFence hs)

/-- HBM_CTRL.retrain: an ACTIVE or FENCED stack goes to TRAINING. -/
def Dev.hbmRetrain (d : Dev) (hs : Nat) : Dev :=
  if d.stackState hs = stActive ∨ d.stackState hs = stOutFenced then d.stackGone hs stTraining else d

/-- HBM_RETRAIN. -/
def execHbmRetrain (who : Partner) (hs : Fin 32) (s : State) : Host.Outcome State Fault Refusal :=
  .next (s.on fun d => d.ctl who (regOffset .hbmCtrl hs) fun d => d.hbmRetrain hs)

/-! Training (R332, R333, R338). -/

/-- What a pipeline knows of a LET whose entries are gone. -/
def Dev.letForget (d : Dev) (pl : Nat) : Dev :=
  let d := d.clearRange .plnLetLpCount (pl * 32) 32
  { d with tab := { d.tab with letTenant := SMap.keep d.tab.letTenant (fun k => k / 256 != pl)
                               letCache := SMap.erase d.tab.letCache pl } }

/-- What a die knows of a page map whose entries are gone. -/
def Dev.pmapForget (d : Dev) (die : Nat) : Dev := (d.wr .memPmapCount die 0).pmapCacheSet die fun _ => []

/-- The tables that lie in a stack whose blocks are zero have no valid entry. -/
def Dev.tablesZeroed (d : Dev) (hs : Nat) : Dev :=
  let pls := (upto 64).filter fun pl => d.letOn pl && d.letAddr pl 0 / 2 ^ 36 == hs
  let dies := (upto 8).filter fun die => d.pmapOn die && d.pmapAddr die 0 / 2 ^ 36 == hs
  dies.foldl Dev.pmapForget (pls.foldl (fun d pl => d.letForget pl) d)

/-- Every block of a stack is written to zero. -/
def zeroStack (s : State) (hs : Nat) : State :=
  let s := s.on fun d => (d.mend (hs * 2 ^ 36) (2 ^ 36)).tablesZeroed hs
  { s with hbm := hbmClear s.hbm (hs * 2 ^ 36) (2 ^ 36) }

/-- STACK_TRAINING_DONE: `bad` are the channels beyond repair, `spares` the spare lanes in use, 2 bits per channel. -/
def stackTrained (s : State) (hs : Nat) (bad : List Nat) (spares : Nat) : State :=
  if s.dev.stackState hs ≠ stTraining then s
  else
    let out := maskBits 32 (maskOf (bad.map (· % 32)))
    let mapout := s.dev.rdB .hbmCfg hs 8
    let s := s.on fun d => d.wr64 .hbmSpareLo .hbmSpareHi hs spares
    if out ≠ [] ∧ (mapout = false ∨ out.length = 32) then
      s.on fun d => d.stackFence hs 1 (out.headD 0) sevError
    else
      let s := s.on fun d =>
        let d := (d.wr .hbmChOut hs (word (maskOf out))).wr .hbmStackSize hs (word (32 - out.length))
        let d := (d.wr .hbmFenceInfo hs 0).wrF .hbmStatus hs 2 0 stActive
        d.stackRecord hs stActive 0 0 sevNotice
      zeroStack s hs

end Sys2Proof.Machine
end

