-- ==== Sys2Proof/Machine/Fec.lean ====
section
/-! DEFINITION. The native forward error correction of a lane (03_cells_and_links.md R56): the code RS(464,416) over
GF(2^10), the interleaving of a codeword pair and its scrambling. -/

namespace Sys2Proof.Machine

/-! GF(2^10), with x^10 + x^3 + 1. -/

/-- Times α. -/
def gx (a : Nat) : Nat := if a < 512 then a * 2 else xorN (a * 2 - 1024) 9

def gmulGo : Nat → Nat → Nat → Nat → Nat
  | 0, _, _, acc => acc
  | k + 1, a, b, acc => gmulGo k (gx a) (b / 2) (if b % 2 = 1 then xorN acc a else acc)

/-- The product of two field elements. -/
def gmul (a b : Nat) : Nat := gmulGo 10 a b 0

def gpowGo : Nat → Nat → Nat → Nat → Nat
  | 0, _, _, acc => acc
  | k + 1, a, e, acc => gpowGo k (gmul a a) (e / 2) (if e % 2 = 1 then gmul acc a else acc)

/-- A power of a field element. -/
def gpow (a e : Nat) : Nat := gpowGo 10 a (e % 1023) 1

/-- The inverse of a nonzero element. -/
def ginv (a : Nat) : Nat := gpow a 1022

/-- α to a power. -/
def galpha (e : Nat) : Nat := gpow 2 e

/-! Polynomials, lowest coefficient first. -/

/-- The value at a point. -/
def peval (p : List Nat) (x : Nat) : Nat := p.foldr (fun c acc => xorN c (gmul x acc)) 0

/-- The sum. -/
def padd : List Nat → List Nat → List Nat
  | [], q => q
  | p, [] => p
  | a :: p, b :: q => xorN a b :: padd p q

def pscale (c : Nat) (p : List Nat) : List Nat := p.map (gmul c)

def pmul : List Nat → List Nat → List Nat
  | [], _ => []
  | a :: p, q => padd (pscale a q) (0 :: pmul p q)

/-- g(x), the product of x - α^j for j = 0 to 47. -/
def rsGen : List Nat := (List.range 48).foldl (fun p j => pmul p [galpha j, 1]) [1]

/-- One step of the division by g: the remainder, highest coefficient first, takes the next message symbol. -/
def rsStep (gHigh rem : List Nat) (m : Nat) : List Nat :=
  match rem with
  | [] => []
  | r :: rs =>
    let f := xorN r m
    List.zipWith (fun a g => xorN a (gmul f g)) (rs ++ [0]) gHigh

/-- The 48 parity symbols of a message, highest first. -/
def rsParity (msg : List Nat) : List Nat :=
  let g := (rsGen.take 48).reverse
  msg.foldl (rsStep g) (List.replicate 48 0)

/-- The syndromes of a received word, highest coefficient first. -/
def rsSyndromes (r : List Nat) : List Nat :=
  (List.range 48).map fun j => let x := galpha j; r.foldl (fun acc c => xorN (gmul acc x) c) 0

/-- The state of the Berlekamp-Massey iteration. -/
structure BM where
  c : List Nat
  b : List Nat
  l : Nat
  m : Nat
  d : Nat

/-- One iteration. -/
def BM.next (s : List Nat) (x : BM) (n : Nat) : BM :=
  let d := (List.range (x.l + 1)).foldl (fun acc i => xorN acc (gmul (x.c.getD i 0) (s.getD (n - i) 0))) 0
  if d = 0 then { x with m := x.m + 1 }
  else
    let c := padd x.c (List.replicate x.m 0 ++ pscale (gmul d (ginv x.d)) x.b)
    if 2 * x.l ≤ n then ⟨c, x.c, n + 1 - x.l, 1, d⟩ else { x with c := c, m := x.m + 1 }

/-- The error locator and the number of errors it stands for. -/
def rsLocator (s : List Nat) : List Nat × Nat :=
  let x := (List.range 48).foldl (BM.next s) ⟨[1], [1], 0, 1, 1⟩
  (x.c, x.l)

/-- The formal derivative. -/
def pderiv : List Nat → List Nat
  | [] => []
  | _ :: p => (p.zip (List.range p.length)).map fun e => if e.2 % 2 = 0 then e.1 else 0

/-- A received word corrected, with the number of symbols corrected; none for a word that cannot be corrected. -/
def rsDecode (r : List Nat) : Option (List Nat × Nat) :=
  let s := rsSyndromes r
  if s.all (· == 0) then some (r, 0)
  else
    let (lam, l) := rsLocator s
    let roots := (List.range 464).filter fun p => peval lam (galpha (1023 - p)) == 0
    if l > 24 ∨ roots.length ≠ l then none
    else
      let om := (pmul s lam).take 48
      let dl := pderiv lam
      let err := fun p =>
        let xi := galpha (1023 - p)
        gmul (galpha p) (gmul (peval om xi) (ginv (peval dl xi)))
      some ((r.zip (List.range 464)).map fun e => if roots.contains (463 - e.2) then xorN e.1 (err (463 - e.2)) else e.1, l)

/-! Bits, first bit most significant. -/

/-- The w bits of a number. -/
def toBits (w n : Nat) : List Bool := ((List.range w).map fun i => bit n i).reverse

/-- The number that bits spell. -/
def ofBits (bs : List Bool) : Nat := bs.foldl (fun n b => 2 * n + b2n b) 0

def bytesBits (bs : List Byte) : List Bool := bs.flatMap fun b => toBits 8 b.toNat

/-- A list cut into pieces of w, the last one short pieces dropped; fuel is the number of pieces. -/
def chunks {α : Type} (w : Nat) : Nat → List α → List (List α)
  | 0, _ => []
  | k + 1, l => l.take w :: chunks w k (l.drop w)

def bitsBytes (n : Nat) (bs : List Bool) : List Byte := (chunks 8 n bs).map fun c => BitVec.ofNat 8 (ofBits c)

/-- The scrambling sequence from a 31-bit state, n bits (assumption 16: the state shifts left, its new bit is the sum of
bits 30 and 27 and is the output). -/
def scrambleSeq : Nat → Nat → List Bool
  | 0, _ => []
  | n + 1, s =>
    let b := bit s 30 != bit s 27
    b :: scrambleSeq n ((s * 2 + b2n b) % 2 ^ 31)

/-- The 9,280 bits of a pair on a lane, scrambled or descrambled. -/
def scramble (lane : Nat) (bs : List Bool) : List Bool :=
  List.zipWith (· != ·) bs (scrambleSeq 9280 (0x40000000 + lane))

/-- The codeword of a group of 520 bytes, as symbols. -/
def codeword (g : List Byte) : List Nat :=
  let msg := (chunks 10 416 (bytesBits (slice g 0 520))).map ofBits
  msg ++ rsParity msg

/-- Two lists of symbols sent alternately. -/
def interleave : List Nat → List Nat → List Nat
  | a :: as, b :: bs => a :: b :: interleave as bs
  | _, _ => []

/-- The Gray code of the symbol mapping: two bits, the first most significant, to the level 0 to 3 that the lane signals
(00 to 0, 01 to 1, 11 to 2, 10 to 3), written in two bits. The code is its own inverse, so this also reads levels back. -/
def grayLevels : List Bool → List Bool
  | a :: b :: t => a :: (a != b) :: grayLevels t
  | t => t

/-- The wire levels of a pair of groups on a lane, four levels to a byte, the first in its two most significant bits. -/
def encodePair (lane : Nat) (a b : List Byte) : List Byte :=
  bitsBytes 1160 (grayLevels (scramble lane ((interleave (codeword a) (codeword b)).flatMap (toBits 10))))

/-- The symbols at even or odd places. -/
def everyOther : List Nat → List Nat
  | a :: _ :: t => a :: everyOther t
  | [a] => [a]
  | [] => []

/-- A decoded group with the symbols corrected; none: uncorrectable. -/
def decodeOne (r : List Nat) : Option (List Byte × Nat) :=
  (rsDecode r).map fun x => (bitsBytes 520 ((x.1.take 416).flatMap (toBits 10)), x.2)

/-- The two groups of a received pair of codewords, given as its wire levels. -/
def decodePair (lane : Nat) (pair : List Byte) : Option (List Byte × Nat) × Option (List Byte × Nat) :=
  let syms := (chunks 10 928 (scramble lane (grayLevels (bytesBits (slice pair 0 1160))))).map ofBits
  (decodeOne (everyOther syms), decodeOne (everyOther (syms.drop 1)))

end Sys2Proof.Machine
end

