-- ==== Sys2Proof/Machine/Lantern.lean ====
section
/-! DEFINITION. Lantern optics (14_lantern_optics.md R367 to R387): rings and their lock, sources, monitors, spare
migration, planned source switches and eye safety; and the queue of maintenance records of a port (03 R82, R83). -/

namespace Sys2Proof.Machine

/-! Maintenance records (03 R66, R83, 14 R379). -/

/-- A maintenance cell: the common word and the record's body. -/
def mntCell (typ lane seq : Nat) (body : List Byte) : List Byte :=
  toBE 4 (3 * 2 ^ 30 + 7 * 2 ^ 27 + 2 ^ 9) ++ toBE 4 (typ * 2 ^ 24 + 2 ^ 16 + lane * 2 ^ 8 + seq) ++ slice body 0 56

/-- A maintenance cell queued on a lane of a port. -/
def Dev.queueMnt (d : Dev) (lp lane : Nat) (cell : List Byte) : Dev :=
  d.setPort lp { d.port lp with txMnt := (d.port lp).txMnt ++ [(lane, cell)] }

/-- A record sent on a lane until a TS_ACK echoes its rec_seq (03 R82). -/
def Dev.sendRecord (d : Dev) (lp lane typ : Nat) (body : List Byte) : Dev :=
  let p := d.port lp
  let seq := p.recSeq % 256
  let p := { p with recSeq := (seq + 1) % 256, sending := p.sending ++ [⟨typ, seq, lane, body⟩] }
  (d.setPort lp p).queueMnt lp lane (mntCell typ lane seq body)

/-- The TS_ACK of a record that arrived on a lane. -/
def Dev.sendAck (d : Dev) (lp lane typ seq : Nat) : Dev :=
  d.queueMnt lp lane (mntCell 4 lane 0 (toBE 4 (typ * 2 ^ 24 + seq)))

/-! Rings. -/

/-- The ring of a fibre, direction (0 transmit, 1 receive) and lane; its state (Table 14-3). -/
def ringNo (fp dir lane : Nat) : Nat := (fp * 2 + dir) * 9 + lane
def Dev.ringSt (d : Dev) (r : Nat) : Nat := d.rdF .lanLaneStatus r 31 28
def Dev.setHeater (d : Dev) (r st : Nat) : Dev := d.wrF .lanLaneStatus r 31 28 st

def stDark : Nat := 0
def stAcquire : Nat := 1
def stRetune : Nat := 2
def stVerify : Nat := 3
def stLocked : Nat := 4
def stFenced : Nat := 5

/-- The fibre is in addressed mode (R371). -/
def Dev.addressed (d : Dev) (fp : Nat) : Bool := d.rdB .lanFibCfg fp 0

/-- The comb line of a lane (R368). -/
def Dev.laneLine (d : Dev) (fp dir lane : Nat) : Nat :=
  if d.addressed fp && lane < 8 then
    if dir = 0 then d.rdF .lanCirc (fp * 8 + lane) 3 0 else d.rdF .lanCirc (fp * 8 + lane) 7 4
  else lane

/-- The stripe position that the spare of a direction holds; 15: none. -/
def Dev.sparePos (d : Dev) (fp dir : Nat) : Nat :=
  if dir = 0 then d.rdF .lanFibStatus fp 15 12 else d.rdF .lanFibStatus fp 11 8
def Dev.setSpare (d : Dev) (fp dir pos : Nat) : Dev :=
  if dir = 0 then d.wrF .lanFibStatus fp 15 12 pos else d.wrF .lanFibStatus fp 11 8 pos

/-- The lane that carries a stripe position in a direction (03 R58). -/
def Dev.laneOf (d : Dev) (fp dir pos : Nat) : Nat := if d.sparePos fp dir = pos then 8 else pos

/-- The lane of a port's first stripe position, which carries what the port says as a whole. -/
def Dev.firstLane (d : Dev) (lp : Nat) : Nat := d.laneOf (lpFp lp) 0 (lp % 8)

/-- A LANE_CTRL record (Table 14-4) on a lane of its port, and on the first. -/
def Dev.laneCtrlOn (d : Dev) (lp lane op pos dir low bell line : Nat) : Dev :=
  d.sendRecord lp lane 5 (toBE 4 (op * 2 ^ 24 + pos * 2 ^ 20 + dir * 2 ^ 16 + low) ++ toBE 8 bell ++ toBE 4 (line * 2 ^ 28))
def Dev.sendLaneCtrl (d : Dev) (lp op pos dir low bell line : Nat) : Dev :=
  d.laneCtrlOn lp (d.firstLane lp) op pos dir low bell line

/-- The TS_ACK of a LANE_CTRL record. -/
def Dev.ackLaneCtrl (d : Dev) (lp seq : Nat) : Dev := d.sendAck lp (d.firstLane lp) 5 seq

/-- The stripe positions of a logical port within its fibre, in ascending order. -/
def Dev.positions (d : Dev) (lp : Nat) : List Nat := (upto (d.fibLanes (lpFp lp))).map fun i => lp % 8 + i

/-- Enable of a created port is in force. -/
def Dev.lpEnabled (d : Dev) (lp : Nat) : Bool := d.rdB .plnLnkCfg lp 0 && d.created lp

/-- The logical port of a fibre that holds a stripe position. -/
def Dev.posLp (d : Dev) (fp pos : Nat) : Nat := fp * 8 + pos / d.fibLanes fp * d.fibLanes fp

/-- A position of an enabled port. -/
def Dev.posNeeded (d : Dev) (fp pos : Nat) : Bool := d.lpEnabled (d.posLp fp pos)

/-- The source in use of a fibre, as its module number: the one shown by src_used, or before the fibre has used any the one
that LAN_FIB_CFG.src names (R370). -/
def Dev.srcUsed (d : Dev) (fp : Nat) : Nat :=
  fp / 16 * 2 + if d.lan.lit.contains fp then d.rdF .lanFibStatus fp 25 25 else d.rdF .lanFibCfg fp 8 8

/-- A fibre uses a source of its Lantern. -/
def Dev.useSrc (d : Dev) (fp s : Nat) : Dev :=
  { (d.wrF .lanFibStatus fp 25 25 s) with lan := { d.lan with
    lit := if d.lan.lit.contains fp then d.lan.lit else fp :: d.lan.lit } }

/-- The other source of a module's Lantern. -/
def otherSrc (m : Nat) : Nat := if m % 2 = 0 then m + 1 else m - 1

/-- A module's state (Table 14-2). -/
def Dev.srcState (d : Dev) (m : Nat) : Nat := d.rdF .lanElsStatus m 31 28
def Dev.srcReady (d : Dev) (m : Nat) : Bool := d.srcState m == 3

/-- The stored setting of a ring for its line on the fibre's source in use. -/
def Dev.storedFor (d : Dev) (fp dir lane : Nat) : Option Nat :=
  SMap.find? d.lan.stored (ringNo fp dir lane * 32 + d.srcUsed fp % 2 * 16 + d.laneLine fp dir lane)

/-- A ring moves to its line: RETUNE with a stored setting, ACQUIRE without one; a fenced ring stays. -/
def Dev.tune (d : Dev) (fp dir lane : Nat) : Dev :=
  let r := ringNo fp dir lane
  if d.ringSt r = stFenced then d
  else
    let d := d.wrF .lanLaneStatus r 27 24 (d.laneLine fp dir lane)
    d.setHeater r (if (d.storedFor fp dir lane).isSome then stRetune else stAcquire)

/-- A ring is parked dark. -/
def Dev.park (d : Dev) (fp dir lane : Nat) : Dev :=
  if d.ringSt (ringNo fp dir lane) = stFenced then d else d.setHeater (ringNo fp dir lane) stDark

/-- Every needed lane of a fibre that is dark is tuned: the transmit ones only with their source READY, which the fibre
then uses. -/
def Dev.lightFibre (d : Dev) (fp : Nat) : Dev :=
  (upto 8).foldl (fun d pos =>
    if !d.posNeeded fp pos then d
    else [0, 1].foldl (fun d dir =>
      let lane := d.laneOf fp dir pos
      if d.ringSt (ringNo fp dir lane) ≠ stDark then d
      else if dir = 1 then d.tune fp dir lane
      else if d.srcReady (d.srcUsed fp) then (d.useSrc fp (d.srcUsed fp % 2)).tune fp dir lane
      else d) d) d

/-- Every lane of a logical port is locked in both directions (Table 3-11). -/
def Dev.lanesLocked (d : Dev) (lp : Nat) : Bool :=
  let fp := lpFp lp
  (d.positions lp).all fun pos => [0, 1].all fun dir => d.ringSt (ringNo fp dir (d.laneOf fp dir pos)) == stLocked

/-! A ring on the wrong line (R377, R378). -/

/-- The spare of a direction of a fibre is the lane that a migration moves to or from. -/
def Dev.migUses (d : Dev) (fp dir : Nat) : Bool :=
  if dir = 0 then (SMap.find? d.lan.mig fp).isSome else (SMap.find? d.lan.rxMig fp).isSome

/-- The spare of a direction of a WDM-8 fibre is free and not fenced. -/
def Dev.spareFree (d : Dev) (fp dir : Nat) : Bool :=
  !d.addressed fp && d.sparePos fp dir == 15 && d.ringSt (ringNo fp dir 8) != stFenced

/-- A fenced ring of a WDM-8 fibre gives its position to the spare of its direction, if that is free and not fenced, while
its port is not ACTIVE; the next training announces it. -/
def Dev.substitute (d : Dev) (fp dir lane : Nat) : Dev :=
  if lane = 8 || !d.spareFree fp dir || d.migUses fp dir || d.ringSt (ringNo fp dir lane) ≠ stFenced ||
    d.lnkState (d.posLp fp lane) = 5 then d
  else (d.setSpare fp dir lane).tune fp dir 8

/-- The fenced rings of a port's positions give way to the spares. -/
def Dev.substitutes (d : Dev) (lp : Nat) : Dev :=
  (d.positions lp).foldl (fun d pos => [0, 1].foldl (fun d dir => d.substitute (lpFp lp) dir pos) d) d

/-- A position of a WDM-8 port has a fenced ring and no spare: the port can only fail with FEC_NO_LOCK. -/
def Dev.noSpare (d : Dev) (lp : Nat) : Bool :=
  !d.addressed (lpFp lp) && (d.positions lp).any fun pos => [0, 1].any fun dir =>
    d.ringSt (ringNo (lpFp lp) dir (d.laneOf (lpFp lp) dir pos)) == stFenced

/-- LAN_FIB_STATUS.mig. -/
def Dev.setMig (d : Dev) (fp v : Nat) : Dev := d.wrF .lanFibStatus fp 18 16 v

/-- A migration ends with its lane keeping its place; the ring it was moving to is parked. -/
def Dev.migDrop (d : Dev) (fp : Nat) : Dev :=
  match SMap.find? d.lan.mig fp with
  | some m =>
    (({ d with lan := { d.lan with mig := SMap.erase d.lan.mig fp } }).setMig fp 0).park fp 0 (if m.back then m.pos else 8)
  | none => d

/-- A migration of the near end ends with MIG_ABORT (R384). -/
def Dev.migAbort (d : Dev) (fp : Nat) : Dev :=
  match SMap.find? d.lan.mig fp with
  | some m => ((d.sendLaneCtrl m.lp 4 m.pos 0 0 0 8).migDrop fp).bump .lanMigAbort fp
  | none => d

/-- The lane that a receive side moves to, and the one it moves from. -/
def RxMig.target (m : RxMig) : Nat := if m.back then m.pos else 8
def RxMig.source (m : RxMig) : Nat := if m.back then 8 else m.pos

/-- The receive side's part of a migration as it stands now. -/
def Dev.setRxMig (d : Dev) (fp : Nat) (m : RxMig) : Dev :=
  { d with lan := { d.lan with rxMig := SMap.insert fp m d.lan.rxMig } }

/-- The far end's part of a migration ends with the lane keeping its place. -/
def Dev.rxMigDrop (d : Dev) (fp : Nat) : Dev :=
  match SMap.find? d.lan.rxMig fp with
  | some m => ({ d with lan := { d.lan with rxMig := SMap.erase d.lan.rxMig fp } }).park fp 1 m.target
  | none => d

/-- The lane that a receive side is to move to cannot be aligned: MIG_ABORT (R383, step 2). -/
def Dev.rxMigFail (d : Dev) (fp : Nat) : Dev :=
  match SMap.find? d.lan.rxMig fp with
  | some m => (d.rxMigDrop fp).sendLaneCtrl m.lp 4 m.pos 1 0 0 8
  | none => d

/-- A ring that a migration moves to is fenced: the migration ends with MIG_ABORT. -/
def Dev.migFenced (d : Dev) (fp dir lane : Nat) : Dev :=
  if dir = 0 then
    match SMap.find? d.lan.mig fp with
    | some m => if lane = (if m.back then m.pos else 8) then d.migAbort fp else d
    | none => d
  else match SMap.find? d.lan.rxMig fp with
    | some m => if lane = m.target then d.rxMigFail fp else d
    | none => d

/-- WRONG_LINE (R377): parked, counted and relocked from ACQUIRE; the third event in a row fences the ring. -/
def Dev.wrongLine (d : Dev) (fp dir lane : Nat) : Dev :=
  let r := ringNo fp dir lane
  let n := d.rdF .lanLaneStatus r 17 16 + 1
  let d := (d.bump .lanWrongLine fp).wrF .lanLaneStatus r 17 16 (min 3 n)
  if n ≥ 3 then
    let d := (d.setHeater r stFenced).raise (fp / 32) 0x0804 sevError [fp + dir * 2 ^ 8 + lane * 2 ^ 12, 0]
    (d.migFenced fp dir lane).substitute fp dir lane
  else d.setHeater r stAcquire

/-- ACQUIRE_DONE (R374): the sweep reached peak 16 - k, or found fewer than 16 peaks: dark, a failure, and relocked. -/
def Dev.acquireDone (d : Dev) (fp dir lane peaks heater : Nat) : Dev :=
  let r := ringNo fp dir lane
  if d.ringSt r ≠ stAcquire then d
  else
    let d := d.wrF .lanLaneStatus r 15 0 heater
    let d := { d with lan := { d.lan with retuned := d.lan.retuned.filter (· != r) } }
    if 16 - d.rdF .lanLaneStatus r 27 24 ≤ peaks then d.setHeater r stVerify else d.wrongLine fp dir lane

/-- ACQUIRE_DONE. -/
def execAcquireDone (fp : Fin 256) (dir : Fin 2) (lane : Fin 9) (peaks : Nat) (heater : Fin 65536) (s : State) :
    Host.Outcome State Fault Refusal := .next (s.on fun d => d.acquireDone fp dir lane peaks heater)

/-- RETUNE_DONE: the ring stands at its stored setting; where it finds no line it relocks from ACQUIRE, uncounted. -/
def Dev.retuneDone (d : Dev) (fp dir lane : Nat) (found : Bool) (heater : Nat) : Dev :=
  let r := ringNo fp dir lane
  if d.ringSt r ≠ stRetune then d
  else
    let d := d.wrF .lanLaneStatus r 15 0 heater
    if found then
      ({ d with lan := { d.lan with retuned := r :: d.lan.retuned.filter (· != r) } }).setHeater r stVerify
    else d.setHeater r stAcquire

/-- RETUNE_DONE. -/
def execRetuneDone (fp : Fin 256) (dir : Fin 2) (lane : Fin 9) (found : Bool) (heater : Fin 65536) (s : State) :
    Host.Outcome State Fault Refusal := .next (s.on fun d => d.retuneDone fp dir lane found heater)

/-- Ports that stopped for a source switch send again once their transmit rings are locked (R385). -/
def Dev.resumeLocked (d : Dev) (fp : Nat) : Dev :=
  let ok := fun lp => lpFp lp == fp && (d.positions lp).all fun pos => d.ringSt (ringNo fp 0 (d.laneOf fp 0 pos)) == stLocked
  { d with lan := { d.lan with stopped := d.lan.stopped.filter fun lp => !ok lp } }

/-- The tone check of rule R376: the strongest tone at the drop tap is that of the line; with none to be seen of the
fibre's source it is skipped. The peak count needs no check here: ACQUIRE stops at the line's own peak, and every stored
setting was made by a counted sweep. -/
def Dev.toneOk (d : Dev) (fp r : Nat) (tone : Option Nat) : Bool :=
  !d.rdB .lanElsStatus (d.srcUsed fp) 27 || tone == some (d.rdF .lanLaneStatus r 27 24)

/-- VERIFY_DONE (R376): LOCKED, or a failure; after a retune the ring relocks from ACQUIRE, uncounted (R374). -/
def Dev.verifyDone (d : Dev) (fp dir lane : Nat) (tone : Option Nat) : Dev :=
  let r := ringNo fp dir lane
  if d.ringSt r ≠ stVerify then d
  else if d.toneOk fp r tone then (d.setHeater r stLocked).resumeLocked fp
  else if d.lan.retuned.contains r then
    ({ d with lan := { d.lan with retuned := d.lan.retuned.filter (· != r) } }).setHeater r stAcquire
  else d.wrongLine fp dir lane

/-- VERIFY_DONE; `tone`: the line of the strongest identity tone at the drop tap, if there is one. -/
def execVerifyDone (fp : Fin 256) (dir : Fin 2) (lane : Fin 9) (tone : Option (Fin 16)) (s : State) :
    Host.Outcome State Fault Refusal := .next (s.on fun d => d.verifyDone fp dir lane (tone.map (·.val)))

/-- The stripe position of a lane in a direction. -/
def Dev.posOf (d : Dev) (fp dir lane : Nat) : Nat := if lane = 8 then d.sparePos fp dir else lane

/-- WRONG_CNT_RESET (R377): 1 s in LOCKED with the port ACTIVE. -/
def Dev.wrongReset (d : Dev) (fp dir lane : Nat) : Dev :=
  let r := ringNo fp dir lane
  if d.ringSt r = stLocked ∧ d.lnkState (d.posLp fp (d.posOf fp dir lane)) = 5 then d.wrF .lanLaneStatus r 17 16 0 else d

/-- WRONG_CNT_RESET. -/
def execWrongCntReset (fp : Fin 256) (dir : Fin 2) (lane : Fin 9) (s : State) : Host.Outcome State Fault Refusal :=
  .next (s.on fun d => d.wrongReset fp dir lane)

/-- LOCK_LOSS (Table 14-3): a LOCKED ring goes to ACQUIRE. -/
def execLockLoss (fp : Fin 256) (dir : Fin 2) (lane : Fin 9) (s : State) : Host.Outcome State Fault Refusal :=
  .next (s.on fun d =>
    let r := ringNo fp dir lane
    if d.ringSt r = stLocked then (d.setHeater r stAcquire).bump .lanLockLoss fp else d)

/-- A lane can use a line in the fibre's mode (Table 14-1). -/
def Dev.lineUsable (d : Dev) (fp lane line : Nat) : Bool := if d.addressed fp then lane != 8 else lane == line

/-- LANTERN_CALIBRATION (R375): heater settings of every ring, READY source and line its mode can use, in the order of
ring, source and line; the Lantern is calibrated. -/
def Dev.calibrate (d : Dev) (l : Nat) (settings : List Nat) : Dev :=
  let put := fun (m : SMap Nat) (e : Nat × Nat) =>
    let (i, h) := e
    let r := l * 288 + i / 32
    let ok := d.srcReady (l * 2 + i / 16 % 2) && d.lineUsable (r / 18) (r % 9) (i % 16)
    if ok && i < 9216 then SMap.insert (r * 32 + i % 32) (h % 65536) m else m
  let d := { d with lan := { d.lan with
    stored := ((upto settings.length).zip settings).foldl put d.lan.stored
    calibrated := if d.lan.calibrated.contains l then d.lan.calibrated else l :: d.lan.calibrated } }
  let d := [0, 1].foldl (fun d s => if d.srcReady (l * 2 + s) then d.wrB .lanElsStatus (l * 2 + s) 26 true else d) d
  d.wrF .lanStatus l 1 0 1

/-- LANTERN_CALIBRATION. -/
def execLanternCalibration (l : Fin 16) (settings : List Nat) (s : State) : Host.Outcome State Fault Refusal :=
  .next (s.on fun d => d.calibrate l settings)

/-! Spare migration (R383, R384). -/

/-- A migration begins: MIG_REQ, and the ring it moves to is tuned. -/
def Dev.migStart (d : Dev) (fp pos : Nat) (back : Bool) : Dev :=
  let lp := d.posLp fp pos
  let bell := d.time.bell + d.rdF .lanMigCfg (fp / 16) 7 0
  let d := { d with lan := { d.lan with mig := SMap.insert fp ⟨lp, pos, bell, none, false, back, false⟩ d.lan.mig,
                                        retry := SMap.erase d.lan.retry fp } }
  let d := (d.setMig fp (if back then 4 else 1)).tune fp 0 (if back then pos else 8)
  d.sendLaneCtrl lp 1 pos 0 0 bell 8

/-- A MIG_REQ can be performed: of a position of the ACTIVE port, towards a lane that is not fenced, with no other migration
on that side; back to its lane, or to the free spare. -/
def Dev.migReqOk (d : Dev) (lp pos : Nat) (back : Bool) : Bool :=
  let fp := lpFp lp
  d.lnkState lp == 5 && (d.positions lp).contains pos && !d.migUses fp 1 &&
    if back then d.ringSt (ringNo fp 1 pos) != stFenced else d.spareFree fp 1

/-- MIG_REQ received: the far end moves its receive spare to line 8, or back, or answers MIG_ABORT; MIG_READY follows
when the spare is aligned. One that comes again is only acknowledged. -/
def Dev.migReq (d : Dev) (lp pos bell seq : Nat) : Dev :=
  let fp := lpFp lp
  let back := d.sparePos fp 1 == pos
  let d := d.ackLaneCtrl lp seq
  let again := match SMap.find? d.lan.rxMig fp with
    | some m => m.lp == lp && m.pos == pos && m.bell == bell
    | none => false
  if again then d
  else if d.migReqOk lp pos back then
    let d := { d with lan := { d.lan with taken := SMap.erase d.lan.taken fp } }
    (d.setRxMig fp ⟨lp, pos, bell, back, false, 0, [], [], false⟩).tune fp 1 (if back then pos else 8)
  else d.sendLaneCtrl lp 4 pos 1 0 0 8

/-- MIG_REQ. -/
def execMigReq (lp : Fin 2048) (pos : Fin 8) (bell : Nat) (recSeq : Fin 256) (s : State) :
    Host.Outcome State Fault Refusal := .next (s.on fun d => d.migReq lp pos bell recSeq)

/-- MIG_READY received: dual sending may begin at the switch bell. -/
def Dev.migReady (d : Dev) (lp seq : Nat) : Dev :=
  let d := d.ackLaneCtrl lp seq
  match SMap.find? d.lan.mig (lpFp lp) with
  | some m =>
    if m.back then { d with lan := { d.lan with mig := SMap.insert (lpFp lp) { m with ready := true } d.lan.mig } }
    else if d.rdF .lanFibStatus (lpFp lp) 18 16 = 1 then d.setMig (lpFp lp) 2 else d
  | none => d

/-- MIG_READY. -/
def execMigReady (lp : Fin 2048) (recSeq : Fin 256) (s : State) : Host.Outcome State Fault Refusal :=
  .next (s.on fun d => d.migReady lp recSeq)

/-- MIG_DONE received. -/
def Dev.migDone (d : Dev) (lp seq : Nat) : Dev :=
  let d := d.ackLaneCtrl lp seq
  match SMap.find? d.lan.mig (lpFp lp) with
  | some m => { d with lan := { d.lan with mig := SMap.insert (lpFp lp) { m with done := true } d.lan.mig } }
  | none => d

/-- MIG_DONE. -/
def execMigDone (lp : Fin 2048) (recSeq : Fin 256) (s : State) : Host.Outcome State Fault Refusal :=
  .next (s.on fun d => d.migDone lp recSeq)

/-- A receive side that took a position over gives it back (R383: the near end keeps its lane). -/
def Dev.untake (d : Dev) (fp pos : Nat) : Dev :=
  match SMap.find? d.lan.taken fp with
  | some (p, back) =>
    if p ≠ pos then d
    else
      let d := { d with lan := { d.lan with taken := SMap.erase d.lan.taken fp } }
      ((d.setSpare fp 1 (if back then pos else 15)).park fp 1 (if back then pos else 8)).tune fp 1 (if back then 8 else pos)
  | none => d

/-- MIG_ABORT received: the migration ends and the lane keeps its place. The direction is of the sender's spare: 0, the
sender's own migration, of which this end is the receive side; 1, this end's migration. -/
def Dev.migAborted (d : Dev) (lp dir pos seq : Nat) : Dev :=
  let fp := lpFp lp
  let d := d.ackLaneCtrl lp seq
  if dir = 0 then
    match SMap.find? d.lan.rxMig fp with
    | some m => if m.lp = lp ∧ m.pos = pos then d.rxMigDrop fp else d
    | none => d.untake fp pos
  else
    match SMap.find? d.lan.mig fp with
    | some m =>
      if m.lp ≠ lp ∨ m.pos ≠ pos then d
      else
        let d := (d.migDrop fp).bump .lanMigAbort fp
        { d with lan := { d.lan with retry := if m.back then d.lan.retry else SMap.insert fp m.pos d.lan.retry } }
    | none => d

/-- MIG_ABORT. -/
def execMigAbort (lp : Fin 2048) (r : AbortRec) (s : State) : Host.Outcome State Fault Refusal :=
  .next (s.on fun d => d.migAborted lp r.dir r.pos r.recSeq)

/-- MIG_DONE_TIMEOUT: done_wait bells after dual sending began without MIG_DONE. -/
def Dev.migTimeout (d : Dev) (fp : Nat) : Dev :=
  match SMap.find? d.lan.mig fp with
  | some m =>
    if m.dual.isSome && !m.done then
      let d := d.migAbort fp
      { d with lan := { d.lan with retry := if m.back then d.lan.retry else SMap.insert fp m.pos d.lan.retry } }
    else d
  | none => d

/-- MIG_DONE_TIMEOUT. -/
def execMigDoneTimeout (fp : Fin 256) (s : State) : Host.Outcome State Fault Refusal := .next (s.on fun d => d.migTimeout fp)

/-- The migration's port is ACTIVE, its spare free and none under way. -/
def Dev.migCan (d : Dev) (fp pos : Nat) : Bool :=
  d.spareFree fp 0 && (SMap.find? d.lan.mig fp).isNone && d.lnkState (d.posLp fp pos) == 5

/-- MIG_RETRY: 1,024 bells after an abort, while the line is still faded. -/
def Dev.migRetry (d : Dev) (fp : Nat) : Dev :=
  match SMap.find? d.lan.retry fp with
  | some pos =>
    if d.migCan fp pos && d.rdB .lanElsFade (d.srcUsed fp) (16 + pos) then d.migStart fp pos false
    else { d with lan := { d.lan with retry := SMap.erase d.lan.retry fp } }
  | none => d

/-- MIG_RETRY. -/
def execMigRetry (fp : Fin 256) (s : State) : Host.Outcome State Fault Refusal := .next (s.on fun d => d.migRetry fp)

/-- LAN_UNSPARE (R384): the same sequence back to the position's own lane. -/
def Dev.unspare (d : Dev) (fp : Nat) : Dev :=
  let pos := d.sparePos fp 0
  if pos = 15 ∨ (SMap.find? d.lan.mig fp).isSome ∨ d.ringSt (ringNo fp 0 pos) = stFenced then d else d.migStart fp pos true

/-- LAN_UNSPARE. -/
def execLanUnspare (who : Partner) (fp : Fin 256) (s : State) : Host.Outcome State Fault Refusal :=
  .next (s.on fun d => d.ctl who (regOffset .lanFibCtrl fp) fun d => d.unspare fp)

/-- Fenced rings of a fibre clear at its next retrain (Table 14-9). -/
def Dev.unfenceAsked (d : Dev) (fp : Nat) : Dev :=
  { d with lan := { d.lan with unfence := if d.lan.unfence.contains fp then d.lan.unfence else fp :: d.lan.unfence } }

/-- LAN_UNFENCE: LAN_FIB_CTRL.unfence. -/
def execLanUnfence (who : Partner) (fp : Fin 256) (s : State) : Host.Outcome State Fault Refusal :=
  .next (s.on fun d => d.ctl who (regOffset .lanFibCtrl fp) fun d => d.unfenceAsked fp)

/-- The fibre retrains: fenced rings that LAN_UNFENCE named go DARK and are lit again. -/
def Dev.unfenceNow (d : Dev) (fp : Nat) : Dev :=
  if !d.lan.unfence.contains fp then d
  else
    let d := { d with lan := { d.lan with unfence := d.lan.unfence.filter (· != fp) } }
    let d := (upto 18).foldl (fun d i => if d.ringSt (fp * 18 + i) = stFenced then d.wr .lanLaneStatus (fp * 18 + i) 0 else d) d
    d.lightFibre fp

/-- SPARE_MAP received in training: the spare that faces the sender's takes the position (R378); where it cannot, the answer
is MIG_ABORT (R379). -/
def Dev.spareMap (d : Dev) (lp dir pos seq : Nat) : Dev :=
  let fp := lpFp lp
  let mine := 1 - dir
  let d := d.ackLaneCtrl lp seq
  if d.sparePos fp mine = pos then d
  else if d.lnkState lp = 5 || !(d.positions lp).contains pos || !d.spareFree fp mine || d.migUses fp mine then
    d.sendLaneCtrl lp 4 pos mine 0 0 8
  else ((d.setSpare fp mine pos).park fp mine pos).tune fp mine 8

/-- SPARE_MAP. -/
def execSpareMap (lp : Fin 2048) (dir : Fin 2) (pos : Fin 8) (recSeq : Fin 256) (s : State) :
    Host.Outcome State Fault Refusal := .next (s.on fun d => d.spareMap lp dir pos recSeq)

/-- The SPARE_MAP records of a port's next training (R378): its positions that the spares hold, each on a lane of the port
that is not the spare, where it has one. -/
def Dev.announceSpares (d : Dev) (lp : Nat) : Dev :=
  let fp := lpFp lp
  let lane := (((d.positions lp).map (d.laneOf fp 0)).find? (· != 8)).getD 8
  [0, 1].foldl (fun d dir =>
    let pos := d.sparePos fp dir
    if (d.positions lp).contains pos then d.laneCtrlOn lp lane 5 pos dir 0 0 8 else d) d

/-- HOLD received (R380): the heartbeat of the port is not applied for the named time. -/
def Dev.holdRx (d : Dev) (lp bell dur seq : Nat) : Dev :=
  let d := d.ackLaneCtrl lp seq
  { d with lan := { d.lan with holds := SMap.insert lp (bell, dur) d.lan.holds } }

/-- HOLD. -/
def execHold (lp : Fin 2048) (bell dur : Nat) (recSeq : Fin 256) (s : State) : Host.Outcome State Fault Refusal :=
  .next (s.on fun d => d.holdRx lp bell dur recSeq)

/-- A hold covers now. One that is named for a skipped bell has not begun: it begins at the first bell after the step
(02 R37). -/
def Dev.held? (d : Dev) (lp : Nat) : Bool :=
  match SMap.find? d.lan.holds lp with
  | some (b, dur) =>
    let t0 := b * d.period * nsUnit
    decide (b + d.time.skipped ≤ d.time.bell) && decide (t0 ≤ d.time.now) && decide (d.time.now < t0 + dur * 100 * nsUnit)
  | none => false

/-- Dual sending begins, or a lane is parked, at bell n (R383). -/
def Dev.migBell (d : Dev) (fp n : Nat) : Dev :=
  match SMap.find? d.lan.mig fp with
  | none => d
  | some m =>
    let st := d.rdF .lanFibStatus fp 18 16
    match m.dual with
    | none =>
      if m.bell ≤ n ∧ (st = 2 ∨ m.ready = true) then
        ({ d with lan := { d.lan with mig := SMap.insert fp { m with dual := some n } d.lan.mig } }).setMig fp (if m.back then 4 else 3)
      else d
    | some b =>
      if m.done ∧ b < n then
        let d := { d with lan := { d.lan with mig := SMap.erase d.lan.mig fp } }
        let d := ((d.park fp 0 (if m.back then 8 else m.pos)).setSpare fp 0 (if m.back then 15 else m.pos)).setMig fp 0
        (d.bump .lanMigCnt fp).raise (fp / 32) 0x0803 sevNotice [fp + m.pos * 2 ^ 8, b2n (!m.back)]
      else d

/-! Sources (R369, R370, R385). -/

/-- A switch of a fibre to the other source, its transmit rings retuned (R370, R385). -/
def Dev.srcSwitch (d : Dev) (fp : Nat) (planned : Bool) : Dev :=
  let s := 1 - d.srcUsed fp % 2
  let d := (d.useSrc fp s).bump .lanSrcSw fp
  let d := (upto 9).foldl (fun d lane =>
    let r := ringNo fp 0 lane
    if d.ringSt r = stDark ∨ d.ringSt r = stFenced then d else d.tune fp 0 lane) d
  (d.lightFibre fp).raise (fp / 32) 0x0806 sevNotice [fp, s + 2 * b2n planned]

/-- The fibres of a Lantern. -/
def lanFibres (l : Nat) : List Nat := (upto 16).map fun f => l * 16 + f

/-- EYE (Table 14-8). -/
def Dev.eye (d : Dev) (fp : Nat) : Nat := d.rdF .lanFibStatus fp 27 26
def Dev.setEye (d : Dev) (fp v : Nat) : Dev := d.wrF .lanFibStatus fp 27 26 v

/-- The fibre enters PROBE. -/
def Dev.eyeProbe (d : Dev) (fp : Nat) : Dev :=
  { (d.setEye fp 1) with lan := { d.lan with seen := d.lan.seen.filter (· != fp) } }

/-- The eye state follows enables and sources: CLOSED while every port is disabled or no source is READY; PROBE from
CLOSED once a port is enabled and the source is READY. Before FORWARD, start-up opens fibres one by one (16 R420). -/
def Dev.eyeEval (d : Dev) (fp : Nat) : Dev :=
  let m := fp / 16 * 2
  let want := ((upto 8).any fun p => d.posNeeded fp p) && (d.srcReady m || d.srcReady (m + 1))
  if !want then (if d.eye fp = 0 then d else d.setEye fp 0)
  else if d.eye fp = 0 ∧ d.srcReady (d.srcUsed fp) ∧ d.forwards = true then d.eyeProbe fp else d

/-- A source is not READY: fibres using it switch to the other if that is READY, and are dark otherwise (R370). -/
def Dev.srcGone (d : Dev) (m : Nat) : Dev :=
  (lanFibres (m / 2)).foldl (fun d fp =>
    let d := if d.srcUsed fp = m then
        if d.srcReady (otherSrc m) then d.srcSwitch fp false else (upto 9).foldl (fun d lane => d.park fp 0 lane) d
      else d
    d.eyeEval fp) d

/-- A module's state. -/
def Dev.setSrc (d : Dev) (m st : Nat) : Dev := d.wrF .lanElsStatus m 31 28 st

/-- ELS_FAULT (Table 14-2), with its ERROR record. -/
def Dev.elsFault (d : Dev) (m status : Nat) : Dev :=
  if d.srcState m = 2 ∨ d.srcState m = 3 then
    (((d.setSrc m 4).raise (m / 4) 0x0801 sevError [m, 0, status]).srcGone m)
  else d

/-- ELS_FAULT. -/
def execElsFault (m : Fin 32) (status : Fin 256) (s : State) : Host.Outcome State Fault Refusal :=
  .next (s.on fun d => d.elsFault m status)

/-- The Guard drives ELS_EN_N of a module (R369). -/
def Dev.driveEls (d : Dev) (m : Nat) (on : Bool) : Dev :=
  if d.lan.elsEn.contains m = on then d
  else ({ d with lan := { d.lan with
    elsEn := if on then m :: d.lan.elsEn else d.lan.elsEn.filter (· != m) } }).emit (.elsEn m on)

/-- What CMIS finds of a module: none is ABSENT; one that is found is STARTING or DISABLED as ELS_EN_N is asserted or not. -/
def Dev.moduleScan (d : Dev) (m : Nat) (found : Bool) : Dev :=
  let rest := d.lan.absent.filter (· != m)
  let d := { d with lan := { d.lan with absent := if found then rest else m :: rest } }
  if !found then (d.setSrc m 0).srcGone m
  else if d.srcState m = 0 then d.setSrc m (if d.lan.elsEn.contains m then 2 else 1)
  else d

/-- Transfers not acknowledged and timeouts of a two-wire bus (16 Table 16-17, HUB_ELS_BUS_ERR). -/
def Dev.busErrs (d : Dev) (b naks timeouts : Nat) : Dev :=
  let d := d.wrF .hubElsBusErr b 31 16 (min 65535 (d.rdF .hubElsBusErr b 31 16 + naks))
  d.wrF .hubElsBusErr b 15 0 (min 65535 (d.rdF .hubElsBusErr b 15 0 + timeouts))

/-- MODULE_ABSENT: the module is not found by a scan, or found again. -/
def execModuleAbsent (m : ModuleScan) (s : State) : Host.Outcome State Fault Refusal :=
  .next (s.on fun d => (d.busErrs (m.m.val / 8) m.naks m.timeouts).moduleScan m.m m.found)

/-- Every line tap of a source reads 0x0040 or more. -/
def Dev.tapsPresent (d : Dev) (m : Nat) : Bool := (upto 16).all fun k => decide (0x40 ≤ d.rdF .lanMonSrc (m * 16 + k) 15 0)

/-- SOURCE_READY: a STARTING source serves its fibres, and those of the other source where that is ABSENT, DISABLED or at
FAULT (Table 14-2). -/
def Dev.sourceReady (d : Dev) (m : Nat) (tones : Bool) : Dev :=
  if d.srcState m ≠ 2 ∨ !d.tapsPresent m then d
  else
    let d := (d.setSrc m 3).wrB .lanElsStatus m 27 tones
    (lanFibres (m / 2)).foldl (fun d fp =>
      let u := d.srcState (d.srcUsed fp)
      let d := if u = 3 ∨ u = 2 then d else d.srcSwitch fp false
      (d.lightFibre fp).eyeEval fp) d

/-- SOURCE_READY; `tones`: its identity tones are seen (R367). -/
def execSourceReady (m : Fin 32) (tones : Bool) (s : State) : Host.Outcome State Fault Refusal :=
  .next (s.on fun d => d.sourceReady m tones)

/-- A module is disabled: its line is not asserted, and its fibres lose it. -/
def Dev.elsOff (d : Dev) (m : Nat) : Dev :=
  let d := d.driveEls m false
  if d.lan.absent.contains m then d
  else if d.srcState m ≤ 1 then d.setSrc m 1 else (d.setSrc m 1).srcGone m

/-- LAN_ELS_CFG.en as committed drives the enable line, unless a thermal trip is active (R369). -/
def Dev.elsEnable (d : Dev) (m : Nat) : Dev :=
  if d.rdB .lanElsCfg m 31 && !d.rdB .grdStatus 0 31 then
    let d := d.driveEls m true
    if d.srcState m ≤ 1 && !d.lan.absent.contains m then d.setSrc m 2 else d
  else d.elsOff m

/-- Every source is disabled at once. -/
def Dev.sourcesOff (d : Dev) : Dev :=
  let d := (upto 32).foldl (fun d m =>
    let d := d.driveEls m false
    if 1 < d.srcState m then d.setSrc m 1 else d) d
  (upto 32).foldl Dev.srcGone d

/-- The lines that a fibre uses of its source. -/
def Dev.fibLines (d : Dev) (fp : Nat) : List Nat :=
  ((upto 8).filter fun p => d.posNeeded fp p).map fun p => d.laneLine fp 0 (d.laneOf fp 0 p)

/-- A planned source switch can be made: the other source is READY with the fibre's lines unfaded. -/
def Dev.planOk (d : Dev) (fp : Nat) : Bool :=
  let o := otherSrc (d.srcUsed fp)
  d.srcReady o && (d.fibLines fp).all fun k => !d.rdB .lanElsFade o (16 + k)

/-- The HOLDs of a planned source switch at bell h (R385). -/
def Dev.planHold (d : Dev) (fp h : Nat) : Dev :=
  let d := { d with lan := { d.lan with planned := SMap.insert fp h d.lan.planned } }
  ((upto 8).map fun i => fp * 8 + i).foldl (fun d lp =>
    if d.created lp && d.lnkState lp = 5 then d.sendLaneCtrl lp 6 0 0 80 h (if d.addressed fp then 0 else 8) else d) d

/-- The planned switch of a fibre at its bell: ports stop, the selector switches, rings retune. -/
def Dev.planNow (d : Dev) (fp : Nat) : Dev :=
  let lps := ((upto 8).map fun i => fp * 8 + i).filter fun lp => d.created lp && d.lnkState lp == 5
  let d := { d with lan := { d.lan with planned := SMap.erase d.lan.planned fp,
                                        stopped := lps ++ d.lan.stopped.filter fun lp => lpFp lp != fp } }
  d.srcSwitch fp true

/-- PLANNED_SOURCE_SWITCH at bell n; one whose new source has left READY meanwhile is not made. -/
def Dev.planBell (d : Dev) (n : Nat) : Dev :=
  (d.lan.planned.filter fun e => decide (e.2 ≤ n)).foldl (fun d e =>
    if d.srcReady (otherSrc (d.srcUsed e.1)) then d.planNow e.1
    else { d with lan := { d.lan with planned := SMap.erase d.lan.planned e.1 } }) d

/-! Monitors (R381, R382). -/

/-- The action of Table 14-6 of one fibre for a line of its source that faded. -/
def Dev.fadeFibre (d : Dev) (fp m line code : Nat) : Dev :=
  if d.srcUsed fp ≠ m ∨ !(d.fibLines fp).contains line then d
  else if line < 8 ∧ d.migCan fp line ∧ !d.rdB .lanElsFade m 24 then d.migStart fp line false
  else if d.planOk fp then d.planHold fp (d.time.bell + d.rdF .lanMigCfg (fp / 16) 7 0)
  else d.raise (fp / 32) 0x0802 sevError [m + line * 2 ^ 8, 3, code]

/-- A run of readings: one longer, or none. -/
def Dev.run (d : Dev) (k : Nat) (on : Bool) : Dev × Nat :=
  let n := if on then min 255 (SMap.getD d.lan.runs k 0 + 1) else 0
  ({ d with lan := { d.lan with runs := SMap.put d.lan.runs k 0 n } }, n)

/-- One threshold of a source line: its bit is set, or cleared, after debounce readings in a row. -/
def Dev.fadeRun (d : Dev) (m line code below back which : Nat) : Dev × Bool × Bool :=
  let deb := d.rdF .lanMonCfg (m / 2) 15 8
  let b := line + 16 * which
  let k := (m * 16 + line) * 4
  let (d, x) := d.run (k + which) (decide (code < below))
  let (d, y) := d.run (k + 2 + which) (decide (back ≤ code))
  if deb ≤ x ∧ !d.rdB .lanElsFade m b then (d.wrB .lanElsFade m b true, true, false)
  else if deb ≤ y ∧ d.rdB .lanElsFade m b then (d.wrB .lanElsFade m b false, false, true)
  else (d, false, false)

/-- LINE_FADE (R382): the -1.5 dB and -3 dB thresholds; 13,014 and 9,213 are the codes 0.5 dB above them. -/
def Dev.lineFade (d : Dev) (m line code : Nat) : Dev :=
  let (d, warn, _) := d.fadeRun m line code 11598 13014 0
  let d := if warn then d.raise (m / 4) 0x0802 sevWarning [m + line * 2 ^ 8, 1, code] else d
  let (d, fade, back) := d.fadeRun m line code 8211 9213 1
  let d := if fade then
      (lanFibres (m / 2)).foldl (fun d fp => d.fadeFibre fp m line code)
        (d.raise (m / 4) 0x0802 sevWarning [m + line * 2 ^ 8, 2, code])
    else d
  if back then
    (lanFibres (m / 2)).foldl (fun d fp =>
      match SMap.find? d.lan.mig fp with
      | some g => if d.srcUsed fp = m ∧ g.pos = line ∧ !g.back then d.migAbort fp else d
      | none => d) d
  else d

/-- MONITOR_READING: kind 0 a source line of the Lantern (i = 16 s + k), 1 transmitted and 2 received power (i = 9 f + l). -/
def Dev.monitor (d : Dev) (l kind i code : Nat) : Dev :=
  if kind = 0 then
    let i := l * 32 + i % 32
    let m := i / 16
    let d := d.wr .lanMonSrc i (word code)
    if code < 0x40 ∧ d.srcState m = 3 then d.elsFault m 0 else d.lineFade m (i % 16) code
  else if kind = 1 then d.wr .lanMonTx (l * 144 + i % 144) (word code)
  else d.wr .lanMonRx (l * 144 + i % 144) (word code)

/-- MONITOR_READING. -/
def execMonitorReading (l : Fin 16) (kind : Fin 3) (i : Nat) (code : Fin 65536) (s : State) :
    Host.Outcome State Fault Refusal := .next (s.on fun d => d.monitor l kind i code)

/-! Eye safety (R386, R387). -/

/-- EYE_RX_LOSS: OPEN to PROBE; a migration ends without a record (R384). -/
def Dev.eyeLoss (d : Dev) (fp : Nat) : Dev :=
  if d.eye fp ≠ 2 then d
  else ((((d.eyeProbe fp).migDrop fp).rxMigDrop fp).bump .lanEyeTrip fp).raise (fp / 32) 0x0805 sevWarning [fp, 0]

/-- EYE_RX_LOSS. -/
def execEyeRxLoss (fp : Fin 256) (s : State) : Host.Outcome State Fault Refusal := .next (s.on fun d => d.eyeLoss fp)

/-- PROBE: a fibre in PROBE sends its probe word. -/
def execProbe (fp : Fin 256) (s : State) : Host.Outcome State Fault Refusal :=
  .next (s.on fun d => if d.eye fp = 1 then d.emit (.probe fp (0xE51A0000 + b2n (d.lan.seen.contains fp.val))) else d)

/-- PROBE_RECEIVED: a valid probe arrives on a fibre in PROBE. -/
def Dev.probeRx (d : Dev) (fp : Nat) (seen : Bool) : Dev :=
  if d.eye fp ≠ 1 then d
  else
    let d := { d with lan := { d.lan with seen := if d.lan.seen.contains fp then d.lan.seen else fp :: d.lan.seen } }
    if seen then d.setEye fp 2 else d

/-- PROBE_RECEIVED. -/
def execProbeReceived (fp : Fin 256) (seen : Bool) (s : State) : Host.Outcome State Fault Refusal :=
  .next (s.on fun d => d.probeRx fp seen)

end Sys2Proof.Machine
end

