-- ==== Sys2Proof/Machine/PortLost.lean ====
section
/-! DEFINITION. What a port that leaves service does to the engines that use it (03_cells_and_links.md R85, 09 R254,
11 R314, R316). -/

namespace Sys2Proof.Machine

/-- A port has left service: its engines learn it before the command ends. -/
def Dev.portLost (d : Dev) (lp : Nat) : Dev :=
  if d.link.lost.contains lp then d else { d with link := { d.link with lost := d.link.lost ++ [lp] } }

/-- The engines learn of the ports that have left service: groups end early, memory requests to a peer are refused. -/
def tellLost (s : State) : State :=
  let s := s.dev.link.lost.foldl (fun s lp => (groupsPortLost s lp).on fun d => d.memPortLost lp) s
  s.on fun d => { d with link := { d.link with lost := [] } }

end Sys2Proof.Machine
end

