-- ==== Sys2Proof/Machine/Links.lean ====
section
/-! DEFINITION. The link layer (03_cells_and_links.md R56 to R86, R487): groups and stripes received and sent,
acknowledgement and replay, cells and credits, training, and ports going down. -/

namespace Sys2Proof.Machine

/-! A port leaves service (R77, 04 R117, R118). -/

/-- A packet lost when a port went down (R77). -/
def Dev.lostOn (d : Dev) (lp : Nat) : Dev := d.bump .plnLnkAbortRx lp

/-- A copy for a port out of service is dropped: PORT_DOWN in the pipeline that chose the port (04 R118). -/
def Dev.dropCopy (d : Dev) (e : QEnt) : Dev :=
  match d.held e.pid with
  | some h =>
    let d := ((d.fwdCount h rPortDown).portCount e.lp fTxDrop 1).page h.pkt.tenant tDropped 1
    d.copyEnds e
  | none => d

/-- The copies in a port's slots: begun ones are lost (R77), the others dropped. -/
def Dev.dropSlots (d : Dev) (lp : Nat) : Dev :=
  let mine := d.keep.slots.filter fun x => x.1 / 8 == lp
  let d := { d with keep := { d.keep with slots := d.keep.slots.filter fun x => x.1 / 8 != lp } }
  mine.foldl (fun d x => if x.2.pos = 0 then d.dropCopy x.2.ent else (d.copyEnds x.2.ent).lostOn lp) d

/-- The copies queued on a port. -/
def Dev.dropQueued (d : Dev) (lp : Nat) : Dev :=
  let mine := (d.keep.queues.flatMap fun x => x.2).filter fun e => e.lp == lp
  let qs := (d.keep.queues.map fun x => (x.1, x.2.filter fun e => e.lp != lp)).filter fun x => !x.2.isEmpty
  let d := { d with keep := { d.keep with queues := qs } }
  mine.foldl (fun d e => d.dropCopy e) d

/-- Packets being received from a port, and lossless heads waiting in its staging. -/
def Dev.dropReceiving (d : Dev) (lp : Nat) : Dev :=
  let mine := d.keep.pkts.filter fun x => x.2.lp == some lp &&
    (!x.2.done || (x.2.lossless && (x.2.phase == Phase.head || x.2.phase == Phase.wait || x.2.phase == Phase.waitEngine)))
  mine.foldl (fun d x =>
    if x.2.phase = .gone then d.dropHeld x.1
    else
      let d := if x.2.frame.isSome && x.2.phase == Phase.kept then d.putHeld x.1 { x.2 with under := true } else d
      (d.endEarly x.1).lostOn lp) d

/-- Memory requests of a port that its staging holds: those held for order are discarded, with their reservations; the cells
of those already with the memory fabric leave with the port (11 R305). -/
def Dev.dropHeldReqs (d : Dev) (lp : Nat) : Dev :=
  let mine := d.mem.waiting.filter fun h => h.lp == lp
  let d := mine.foldl (fun d h => ((d.unstageReq h).unreserve h.resv).lostOn lp) d
  let d := (d.keep.handed.filter fun h => h.lp == lp).foldl Dev.unstageReq d
  let f := fun (h : Handed) => if h.lp = lp then { h with cells := 0 } else h
  { d with mem := { d.mem with waiting := d.mem.waiting.filter fun h => h.lp != lp }
           keep := { d.keep with handed := d.keep.handed.map f } }

/-- The targets at a port of heads and of engines' packets that were looked up and wait for admission: PORT_DOWN each; a packet
left with none is dropped (04 R118). -/
def Dev.dropChosen (d : Dev) (lp : Nat) : Dev :=
  let mine := fun (ts : List Target) => ts.any fun t => t.lp == lp
  let rest := fun (ts : List Target) => ts.filter fun t => t.lp != lp
  let heads := d.keep.pkts.filter fun x => x.2.phase == Phase.wait && mine x.2.targets
  let d := heads.foldl (fun d x =>
    let d := (d.fwdCount x.2 rPortDown).putHeld x.1 { x.2 with targets := rest x.2.targets }
    if (rest x.2.targets).isEmpty then (d.rxDrop x.2).forget x.1 else d) d
  let own := d.keep.unsent.filter fun u => mine u.targets
  let d := own.foldl (fun d u =>
    let d := d.fwdCount (ownHeld u) rPortDown
    if (rest u.targets).isEmpty then d.unreserve u.resv else d) d
  let left := (d.keep.unsent.filter fun u => !(mine u.targets && (rest u.targets).isEmpty)).map fun u =>
    { u with targets := rest u.targets }
  { d with keep := { d.keep with unsent := left } }

/-- The port leaves service: its packets, its live bit at the next bell, the engines and the migration under way. -/
def Dev.leaveService (d : Dev) (lp : Nat) : Dev :=
  let d := (d.setPort lp { d.port lp with leaving := true, fresh := false }).wrF .plnFwdLpStatus lp 31 8 0
  let d := ((((d.dropSlots lp).dropQueued lp).dropChosen lp).dropReceiving lp).dropHeldReqs lp
  let d := match SMap.find? d.lan.mig (lpFp lp) with
    | some m => if m.lp = lp then d.migAbort (lpFp lp) else d
    | none => d
  let d := match SMap.find? d.lan.rxMig (lpFp lp) with
    | some m => if m.lp = lp then d.rxMigDrop (lpFp lp) else d
    | none => d
  d.portLost lp

/-! States (Table 3-11). -/

def lnkDown : Nat := 0
def lnkFecAlign : Nat := 1
def lnkDeskew : Nat := 2
def lnkIdent : Nat := 3
def lnkParam : Nat := 4
def lnkActive : Nat := 5
def lnkHoldoff : Nat := 6

/-- Failure reasons (Table 3-14). -/
def fFecNoLock : Nat := 1
def fDeskew : Nat := 2
def fIdent : Nat := 3
def fBreakout : Nat := 4
def fBell : Nat := 5
def fVersion : Nat := 6
def fLaneOrder : Nat := 7
def fTimeout : Nat := 8
def fHeartbeat : Nat := 9
def fCredit : Nat := 10
def fAdmin : Nat := 11
def fFarDown : Nat := 12

/-- The link layer starts afresh: what it holds of the old link goes. -/
def Dev.clearLink (d : Dev) (lp : Nat) : Dev :=
  let p := d.port lp
  let d := d.setPort lp { downBy := p.downBy, recSeq := p.recSeq, served := p.served, fresh := p.fresh,
                          leaving := p.leaving, pcs := p.pcs }
  let lanes := (upto 9).map fun l => lpFp lp * 9 + l
  let mine := (d.positions lp).map fun pos => lpFp lp * 9 + d.laneOf (lpFp lp) 1 pos
  let d := (upto 8).foldl (fun d v => d.wr .plnLnkCrdAvail (lp * 8 + v) 0) d
  { d with link := { d.link with
      credits := SMap.keep d.link.credits fun k => k / 8 != lp
      opens := SMap.keep d.link.opens fun k => k / 8 != lp
      lanes := SMap.keep d.link.lanes fun k => !(lanes.contains k && mine.contains k) } }

/-- The state of a port set. -/
def Dev.setLnk (d : Dev) (lp st : Nat) : Dev := d.wrF .plnLnkStatus lp 3 0 st

/-- LINK_FAIL (R85): the port, the reason and the state left. -/
def Dev.linkFail (d : Dev) (lp reason left : Nat) : Dev := d.raise (lpDie lp) 0x0201 sevWarning [lp, reason, left]

/-- A port leaves its state for another, with a reason for fail_reason: an exit from ACTIVE is counted and its traffic
handled; exits from ACTIVE and failures of training are recorded. One that fails to train after a circuit switch rejoins as
any other (14 R373). -/
def Dev.linkExit (d : Dev) (lp st reason : Nat) : Dev :=
  let left := d.lnkState lp
  let d := if left = lnkActive then (d.leaveService lp).bump .plnLnkDownCnt lp
    else { d with lan := { d.lan with circuit := d.lan.circuit.filter (· != lp) } }
  let d := (d.clearLink lp).setLnk lp st
  let d := if reason = 0 then d else d.wrF .plnLnkStatus lp 11 4 reason
  if left = lnkActive ∨ (1 ≤ left ∧ left ≤ 4) then d.linkFail lp reason left else d

/-- A failure: HOLDOFF with its reason. -/
def Dev.linkHoldoff (d : Dev) (lp reason : Nat) : Dev := d.linkExit lp lnkHoldoff reason

/-- DOWN, with what lets the port leave it (R487). -/
def Dev.linkToDown (d : Dev) (lp reason : Nat) (by' : DownBy) : Dev :=
  let d := d.linkExit lp lnkDown reason
  d.setPort lp { d.port lp with downBy := by' }

/-- The port is training. -/
def Dev.training (d : Dev) (lp : Nat) : Bool := decide (1 ≤ d.lnkState lp) && decide (d.lnkState lp ≤ 4)

/-- The port can train: native, created, enabled, its lanes locked, or one of them fenced with no spare (14 R378: it then
fails in FEC_ALIGN). -/
def Dev.canTrain (d : Dev) (lp : Nat) : Bool :=
  !d.isEth lp && d.lpEnabled lp && (d.lanesLocked lp || d.noSpare lp)

/-- FEC_ALIGN is entered; the spares that the port uses are announced (14 R378). -/
def Dev.enterAlign (d : Dev) (lp : Nat) : Dev := ((d.clearLink lp).setLnk lp lnkFecAlign).announceSpares lp

/-- A port in DOWN goes to FEC_ALIGN where rule R487 lets it; the spares take the positions of fenced rings first. -/
def Dev.leaveDown (d : Dev) (lp : Nat) : Dev :=
  let d := d.unfenceNow (lpFp lp)
  let d := if d.lnkState lp = lnkDown then d.substitutes lp else d
  let may := match (d.port lp).downBy with
    | .reset => true
    | .holdoff | .farDown => d.rdB .plnLnkCfg lp 2
    | .admin => false
  if d.lnkState lp = lnkDown && may && d.canTrain lp then d.enterAlign lp else d

/-- LEAVE_DOWN. -/
def execLeaveDown (lp : Fin 2048) (s : State) : Host.Outcome State Fault Refusal := .next (tellLost <| s.on fun d => d.leaveDown lp)

/-- HOLDOFF_END: 1 ms has passed. -/
def execHoldoffEnd (lp : Fin 2048) (s : State) : Host.Outcome State Fault Refusal :=
  .next (tellLost <| s.on fun d => if d.lnkState lp = lnkHoldoff then d.linkToDown lp 0 .holdoff else d)

/-! Sending groups (R58 to R64). -/

/-- A group: 512 bytes of cells and its trailer (Table 3-1). -/
def groupBytes (cells : List Byte) (seq ack ackType : Nat) (unseq replay : Bool) : List Byte :=
  let b := slice cells 0 512 ++ toBE 4 (seq * 2 ^ 18 + ack * 2 ^ 4 + ackType * 4 + b2n unseq * 2 + b2n replay)
  b ++ toBE 4 (crc32c b)

/-- The pair that a lane sends. -/
def Dev.emitPair (d : Dev) (lp lane : Nat) (a b : List Byte) : Dev := d.emit (.pair lp lane (encodePair lane a b))

/-- The lane that copies a position's pairs while a migration sends both (14 R383). -/
def Dev.dualLane (d : Dev) (fp pos : Nat) : Option Nat :=
  match SMap.find? d.lan.mig fp with
  | some m => if m.pos = pos ∧ m.dual.isSome then some (if m.back then pos else 8) else none
  | none => none

/-- A stripe of groups goes out: the first of a pair waits for the second. -/
def Dev.sendStripe (d : Dev) (lp : Nat) (groups : List (List Byte)) : Dev :=
  let p := d.port lp
  if p.pairHalf.isEmpty then d.setPort lp { p with pairHalf := groups }
  else
    let fp := lpFp lp
    let d := d.setPort lp { p with pairHalf := [] }
    ((d.positions lp).zip (p.pairHalf.zip groups)).foldl (fun d e =>
      let d := d.emitPair lp (d.laneOf fp 0 e.1) e.2.1 e.2.2
      match d.dualLane fp e.1 with
      | some l => d.emitPair lp l e.2.1 e.2.2
      | none => d) d

/-- A pair of TS_ALIGN groups on the lane that a migration prepares (14 R383, step 1). -/
def Dev.sendMigAlign (d : Dev) (lp : Nat) : Dev :=
  let fp := lpFp lp
  match SMap.find? d.lan.mig fp with
  | some m =>
    let lane := if m.back then m.pos else 8
    if m.lp = lp ∧ m.dual.isNone ∧ d.ringSt (ringNo fp 0 lane) = stLocked then
      let g := groupBytes ((List.replicate 8 (mntCell 1 lane 0 [])).flatten) 0 0 2 true false
      d.emitPair lp lane g g
    else d
  | none => d

/-- The cells of one group of 8, maintenance cells of its lane first; null cells fill it. -/
def fillGroup (cells : List (List Byte)) : List Byte :=
  (cells ++ List.replicate (8 - cells.length) (nullCell 0 0)).flatten

/-- A stripe's cells taken from the maintenance cells of a port, per lane. -/
def Dev.takeMnt (d : Dev) (lp : Nat) : Dev × List (List (List Byte)) :=
  let fp := lpFp lp
  (d.positions lp).foldl (fun (a : Dev × List (List (List Byte))) pos =>
    let p := a.1.port lp
    let lane := a.1.laneOf fp 0 pos
    let first := pos == lp % 8
    let mine := p.txMnt.filter fun e => e.1 == lane || (first && !((a.1.positions lp).map (a.1.laneOf fp 0)).contains e.1)
    let cells := (mine.take 8)
    let rest := p.txMnt.filter fun e => !cells.contains e
    (a.1.setPort lp { p with txMnt := rest }, a.2 ++ [cells.map fun e => e.2])) (d, [])

/-- A cell is a packet cell, or returns credit. -/
def cellCounts (c : List Byte) : Bool :=
  let w := beAt c 0 4
  (!bit w 8 && !bit w 9) || bits w 23 18 != 0

/-- The acknowledgement of a trailer: ack and ack_type (R60, R63, R82). -/
def Dev.ackOf (d : Dev) (lp : Nat) : Nat × Nat :=
  let p := d.port lp
  if d.lnkState lp = lnkActive then (p.rxSeq, if p.nak then 1 else 0) else (0, 2)

/-- An unsequenced stripe. -/
def Dev.sendIdle (d : Dev) (lp : Nat) (cells : List (List (List Byte))) : Dev :=
  let (ack, typ) := d.ackOf lp
  d.sendStripe lp (cells.map fun c => groupBytes (fillGroup c) 0 ack typ true false)

/-- A sequenced stripe: each group takes a number and is kept until it is acknowledged (R64). -/
def Dev.sendData (d : Dev) (lp : Nat) (cells : List (List (List Byte))) : Dev :=
  let (ack, typ) := d.ackOf lp
  let p := d.port lp
  let gs := ((upto cells.length).zip cells).map fun e => ((p.txSeq + e.1) % 16384, fillGroup e.2)
  let d := d.setPort lp { p with txSeq := (p.txSeq + cells.length) % 16384, unacked := p.unacked ++ gs }
  d.sendStripe lp (gs.map fun g => groupBytes g.2 g.1 ack typ false false)

/-- A stripe of groups sent again (R64). Where they end before the stripe does, sequenced groups of null cells fill it, since
every group of such a stripe is sequenced (R61). DESIGN CHOICE (assumption 145): the groups keep their order and start at the
stripe's first lane, so that one may leave on another lane than when it was first sent. -/
def Dev.sendAgain (d : Dev) (lp l : Nat) : Dev :=
  let (ack, typ) := d.ackOf lp
  let p := d.port lp
  let gs := p.resend.take l
  let new := (upto (l - gs.length)).map fun i => ((p.txSeq + i) % 16384, fillGroup [])
  let d := d.setPort lp { p with resend := p.resend.drop l, txSeq := (p.txSeq + new.length) % 16384, unacked := p.unacked ++ new }
  d.sendStripe lp ((gs.map fun g => groupBytes g.2 g.1 ack typ false true) ++
    new.map fun g => groupBytes g.2 g.1 ack typ false false)

/-- The chosen cells put into the groups of a stripe after its maintenance cells. -/
def spread : List (List (List Byte)) → List (List Byte) → List (List (List Byte)) × List (List Byte)
  | [], cells => ([], cells)
  | g :: gs, cells =>
    let n := 8 - g.length
    let (r, rest) := spread gs (cells.drop n)
    ((g ++ cells.take n) :: r, rest)

/-- SEND_GROUP (R58, R61, R64): the port's next stripe. -/
def Dev.sendGroup (d : Dev) (lp : Nat) : Dev :=
  let st := d.lnkState lp
  if d.isEth lp || st = lnkDown || st = lnkHoldoff || d.lan.stopped.contains lp then d
  else
    let l := d.fibLanes (lpFp lp)
    let d := d.sendMigAlign lp
    if st ≠ lnkActive then
      let (d, m) := d.takeMnt lp
      d.sendIdle lp m
    else if !(d.port lp).resend.isEmpty then d.sendAgain lp l
    else if 512 * l < (d.port lp).unacked.length + l then
      let (d, m) := d.takeMnt lp
      d.sendIdle lp m
    else
      let (d, m) := d.takeMnt lp
      let (cells, rest) := spread m (d.port lp).txCells
      let d := d.setPort lp { d.port lp with txCells := rest }
      if cells.any fun g => g.any cellCounts then d.sendData lp cells else d.sendIdle lp cells

/-- SEND_GROUP. -/
def execSendGroup (lp : Fin 2048) (s : State) : Host.Outcome State Fault Refusal := .next (tellLost <| s.on fun d => d.sendGroup lp)

/-- A replay begins from a group still held. -/
def Dev.startReplay (d : Dev) (lp seq : Nat) : Dev :=
  let p := d.port lp
  let from' := p.unacked.dropWhile fun g => g.1 != seq
  if from'.isEmpty then d.setPort lp { p with replayReq := none }
  else (d.setPort lp { p with resend := from', replayReq := none, lastReplay := some (seq, d.time.now) }).bump .plnLnkReplay lp

/-- REPLAY: at the next group boundary, from the NAKed group (R64). -/
def execReplay (lp : Fin 2048) (s : State) : Host.Outcome State Fault Refusal :=
  .next (tellLost <| s.on fun d => match (d.port lp).replayReq with
    | some seq => d.startReplay lp seq
    | none => d)

/-- ACK_STALL_TIMEOUT: 12 µs without progress; the eighth in a row takes the link down (R64). -/
def Dev.ackStall (d : Dev) (lp : Nat) : Dev :=
  let p := d.port lp
  if d.lnkState lp ≠ lnkActive then d
  else match p.unacked with
    | [] => d
    | g :: _ =>
      if p.stalls + 1 ≥ 8 then d.linkHoldoff lp fTimeout
      else (d.setPort lp { p with stalls := p.stalls + 1 }).startReplay lp g.1

/-- ACK_STALL_TIMEOUT. -/
def execAckStallTimeout (lp : Fin 2048) (s : State) : Host.Outcome State Fault Refusal :=
  .next (tellLost <| s.on fun d => d.ackStall lp)

/-! Acknowledgements received (R60, R64). -/

/-- ACK_RECEIVED: groups before ack are acknowledged; a NAK asks for a replay unless one from the same group started
within the last 12 µs. -/
def Dev.ackIn (d : Dev) (lp ack typ : Nat) : Dev :=
  if typ ≥ 2 then d
  else
    let p := d.port lp
    let known := ack == p.txSeq || p.unacked.any fun g => g.1 == ack
    let p := if !known then p
      else
        let left := p.unacked.dropWhile fun g => g.1 != ack
        if left.length = p.unacked.length then p
        else { p with unacked := left, stalls := 0, resend := p.resend.filter fun g => left.any fun x => x.1 == g.1 }
    let recent := match p.lastReplay with
      | some (s, t) => s == ack && decide (d.time.now < t + 12000 * nsUnit)
      | none => false
    d.setPort lp (if typ = 1 ∧ known ∧ !recent then { p with replayReq := some ack } else p)

/-! Cells received (R65 to R72, R75, R76). -/

/-- The bound of the credits held for sending on a VC (R70): the far end's advertisement. One that advertised 0 on every VC
was not ready (R71); the full advertisement that it returns later is known to no sender, so the bound is the largest one. -/
def Dev.creditBound (d : Dev) (lp v : Nat) : Nat :=
  let adv := fun v => (SMap.getD d.link.credits (lp * 8 + v) {}).farAdv
  if (upto 8).all fun u => adv u == 0 then 0xFFFF else adv v

/-- A return of credits (R69, R70): up to the bound; a return beyond it is counted. -/
def Dev.creditIn (d : Dev) (lp v n : Nat) : Dev :=
  if n = 0 then d
  else
    let bound := d.creditBound lp v
    let x := d.rdF .plnLnkCrdAvail (lp * 8 + v) 16 0 + n
    let d := d.wrF .plnLnkCrdAvail (lp * 8 + v) 16 0 (min bound x)
    if bound < x then d.bump .plnLnkCrdOvr lp else d

/-- What is open on a port and VC. -/
def Dev.setOpen (d : Dev) (lp v : Nat) (o : Option (Option Nat)) : Dev :=
  let k := lp * 8 + v
  { d with link := { d.link with opens := match o with
      | some x => SMap.insert k x d.link.opens
      | none => SMap.erase d.link.opens k } }

/-- A packet being received is dropped or ended early. One that its engine would consume counts in that engine's counter
(06 R169, Table 6-8), whether or not its head has been looked up; one never enqueued counts in RX_DROP. -/
def Dev.endReceived (d : Dev) (pid : Nat) : Dev :=
  match d.held pid with
  | some h =>
    match h.phase with
    | .kept => d.endEarly pid
    | .gone => d.dropHeld pid
    | .engine => (d.discardCount h.die h.pkt).endEarly pid
    | _ => (if !headMalformed h && d.forEngine h then d.discardCount h.die h.pkt else d.rxDrop h).endEarly pid
  | none => d

/-- MALFORMED of a port. -/
def Dev.malCount (d : Dev) (lp : Nat) : Dev := d.bump .plnLnkMalformed lp

/-- A packet open on a VC where a HEAD or SOLO arrives is ended as aborted and counted (R68). DESIGN CHOICE (assumption 146): a
packet that was cut already, whose rest is being discarded up to its TAIL, is still open, and counts MALFORMED once more. -/
def Dev.closeOpen (d : Dev) (lp v : Nat) : Dev :=
  match SMap.find? d.link.opens (lp * 8 + v) with
  | some o =>
    let d := (d.malCount lp).setOpen lp v none
    match o with
    | some pid => d.endReceived pid
    | none => d
  | none => d

/-- The tail of a packet has arrived good: it becomes eligible, or goes to its engine; its source is learned (05 R144). -/
def tailGood (s : State) (lp pid : Nat) (h : Held) : State :=
  let d := s.dev.putHeld pid { h with done := true }
  let d := match h.phase with
    | .engine => d.handOff pid
    | .gone => d.dropHeld pid
    | _ => d
  let s := { s with dev := d }
  if d.rdB .plnLetLpCfg lp 14 && h.colour != .red then
    learn s ⟨1, h.pkt.tenant, 0, h.pkt.sid, lp, none⟩
  else s

/-- A MSG_GET_RSP that ends ABORT goes to the ring engine without its payload (06 R169). -/
def Dev.handAborted (d : Dev) (pid lp : Nat) (h : Held) : Dev :=
  let d := (d.unstage pid).dropHeld pid
  let x : Handed := { lp := lp, pkt := { h.pkt with payload := [] }, resv := h.resv, seq := pid }
  { d with keep := { d.keep with handed := d.keep.handed ++ [x] } }

/-- PACKET_TAIL (06 R169, R75, R76): the last cell of the open packet has arrived; `okForm`: its place and valid_bytes agree
with the header. -/
def tailIn (s : State) (lp pid : Nat) (h : Held) (okForm : Bool) (fin : Nat) (crc : Nat) : State :=
  let s := s.on fun d => (d.putHeld pid h).rxCount h lp (h.rcvd * 64) h.rcvd
  let aborted := fun (s : State) => if fin = 0 then s else s.on fun d => d.bump .plnLnkAbortRx lp
  if headMalformed h ∧ !failedGet h fin then
    (aborted s).on fun d => if h.phase = .gone then d.dropHeld pid else d.putHeld pid { h with done := true }
  else if h.phase = .gone then
    if fin = 0 ∧ okForm ∧ pktCrc h.pkt = crc then tailGood s lp pid h else (aborted s).on fun d => d.dropHeld pid
  else if fin ≠ 0 then
    s.on fun d =>
      let d := (d.bump .plnLnkAbortRx lp).bump .kepDropAbort h.die
      if d.forEngine h ∧ h.pkt.op = 0x13 then d.handAborted pid lp h else d.endReceived pid
  else if !okForm then s.on fun d => (d.malCount lp).endReceived pid
  else if pktCrc h.pkt ≠ crc then
    s.on fun d =>
      let d := d.bump .kepCrcIn h.die
      let d := if d.forwarded pid then d.bump .kepDropAbort h.die else d
      d.endReceived pid
  else tailGood s lp pid h

/-- A HEAD or SOLO opens a packet (R68, R72). -/
def openPacket (s : State) (lp v : Nat) (typ valid fin : Nat) (c : List Byte) : State :=
  let s := s.on fun d => d.closeOpen lp v
  let p := parseHdr v (slice c 4 24)
  let solo := typ = 3
  let body := slice c 28 (min p.len (if solo then 32 else 36))
  let h : Held := { pkt := { p with payload := body }, lp := some lp, die := lpDie lp, pl := lpPl lp,
                    solo := if solo then some valid else none, rcvd := 1, staged := 1, tin := s.dev.time.now }
  let (pid, d) := s.dev.newHeld h
  let d := d.poolMove (lpDie lp) .staging (· + 1)
  if solo then tailIn { s with dev := d } lp pid h true fin (leAt c 60 4)
  else { s with dev := d.setOpen lp v (some (some pid)) }

/-- A cell that is discarded leaves staging at once (R69). -/
def Dev.cellGone (d : Dev) (lp v : Nat) : Dev := d.owe lp v 1

/-- A BODY or TAIL joins the packet open on its VC (R68, R75). -/
def joinPacket (s : State) (lp v : Nat) (tail : Bool) (valid fin : Nat) (c : List Byte) : State :=
  match SMap.find? s.dev.link.opens (lp * 8 + v) with
  | none => s.on fun d => (d.malCount lp).cellGone lp v
  | some none => s.on fun d => (if tail then d.setOpen lp v none else d).cellGone lp v
  | some (some pid) =>
    match s.dev.held pid with
    | none => s.on fun d => (if tail then d.setOpen lp v none else d.setOpen lp v (some none)).cellGone lp v
    | some h =>
      let n := cellsOf h.pkt.len
      let start := cellStart h.rcvd
      let stays := h.phase == .head || h.phase == .wait || h.phase == .waitEngine || (h.phase == .engine && memReq h.pkt.op)
      let h' := { h with rcvd := h.rcvd + 1, staged := if stays then h.staged + 1 else h.staged }
      let d := if stays then s.dev.poolMove h.die .staging (· + 1) else s.dev.cellGone lp v
      let bad := headMalformed h
      if tail then
        let m := h.pkt.len - start
        let h' := if bad then h' else { h' with pkt := { h.pkt with payload := h.pkt.payload ++ slice c 4 (min m 56) } }
        let ok := h'.rcvd == n && valid == m
        tailIn { s with dev := d.setOpen lp v none } lp pid h' ok fin (leAt c 60 4)
      else if bad then { s with dev := d.putHeld pid h' }
      else if h'.rcvd ≥ n ∧ h.phase = .gone then { s with dev := (d.dropHeld pid).setOpen lp v (some none) }
      else if h'.rcvd ≥ n then { s with dev := (((d.putHeld pid h').malCount lp).endReceived pid).setOpen lp v (some none) }
      else
        let body := slice c 4 (min 60 (h.pkt.len - start))
        { s with dev := d.putHeld pid { h' with pkt := { h.pkt with payload := h.pkt.payload ++ body } } }

/-- CREDIT_OVERRUN (R70): a packet cell without credit. -/
def overrun (s : State) (lp v typ : Nat) : State :=
  s.on fun d =>
    let d := d.bump .plnLnkCrdOvr lp
    let d := d.setPort lp { d.port lp with overruns := (d.port lp).overruns + 1 }
    let d := if typ = 1 ∨ typ = 3 then d.closeOpen lp v
      else match SMap.find? d.link.opens (lp * 8 + v) with
        | some (some pid) => (d.endReceived pid).setOpen lp v none
        | some none => d.setOpen lp v none
        | none => d
    if d.rdF .plnLnkCfg lp 15 8 ≤ (d.port lp).overruns then d.linkHoldoff lp fCredit else d

/-- A packet cell (R68 to R72). -/
def packetIn (s : State) (lp : Nat) (w : Nat) (c : List Byte) : State :=
  let v := bits w 29 27
  let typ := bits w 31 30
  let cr := SMap.getD s.dev.link.credits (lp * 8 + v) {}
  if cr.far = 0 then overrun s lp v typ
  else
    let s := s.on fun d => { d.touch lp with link := { d.link with
      credits := SMap.put d.link.credits (lp * 8 + v) {} { cr with far := cr.far - 1 } } }
    let valid := bits w 17 12
    let fin := bits w 11 10
    if typ = 1 ∨ typ = 3 then openPacket s lp v typ valid fin c
    else joinPacket s lp v (typ == 2) valid fin c

/-! Training records (R82 to R86). -/

/-- Records of a type on each lane of a port. -/
def Dev.sendOnLanes (d : Dev) (lp typ : Nat) (body : Nat → List Byte) : Dev :=
  ((d.positions lp).map fun pos => d.laneOf (lpFp lp) 0 pos).foldl (fun d lane => d.sendRecord lp lane typ (body lane)) d

/-- The TS_IDENT of a lane (Table 3-12). -/
def Dev.identBody (d : Dev) (lp lane : Nat) : List Byte :=
  let fp := lpFp lp
  let cfg := d.rd .plnFibCfg fp
  let w16 := d.rdF .hubStraps 0 13 8 * 2 ^ 26 + fp * 2 ^ 18 + lp % 8 * 2 ^ 15 + fld cfg 1 0 * 2 ^ 13 + fld cfg 3 3 * 2 ^ 12 +
    d.rdF .timBellCfg 0 2 0 * 2 ^ 8
  let w20 := d.laneLine fp 0 lane * 2 ^ 28 + b2n (d.addressed fp) * 2 ^ 27
  toBE 4 (d.rdN .secDevIdHi 0) ++ toBE 4 (d.rdN .secDevIdLo 0) ++ toBE 4 w16 ++ toBE 4 w20

/-- The credits of a port as training begins to advertise them (R71): what the registers in force give, of which the far
end may use nothing while the device is not ready. -/
def Dev.advertise (d : Dev) (lp : Nat) : Dev :=
  (upto 8).foldl (fun d v =>
    let k := lp * 8 + v
    let adv := d.rdF .plnLnkCrdAdv k 15 0
    let f := fun (c : Credit) => { c with adv := adv, far := if d.forwards then adv else 0, owed := 0 }
    { d with link := { d.link with credits := SMap.modify d.link.credits k {} f } }) d

/-- The TS_PARAM of a port: what it has advertised on every VC, 0 until the device is ready (R71). -/
def Dev.paramBody (d : Dev) (lp : Nat) : List Byte :=
  (upto 8).flatMap fun v => toBE 2 (SMap.getD d.link.credits (lp * 8 + v) {}).far

/-- DESKEW is entered: the stripes start here. -/
def Dev.enterDeskew (d : Dev) (lp : Nat) : Dev :=
  let d := (d.setLnk lp lnkDeskew).setPort lp { d.port lp with rxLanes := [] }
  d.sendOnLanes lp 1 fun _ => []

/-- IDENT is entered. -/
def Dev.enterIdent (d : Dev) (lp : Nat) : Dev :=
  let d := d.setLnk lp lnkIdent
  let d := d.setPort lp { d.port lp with sending := (d.port lp).sending.filter fun r => r.typ != 1 }
  d.sendOnLanes lp 2 (d.identBody lp)

/-- PARAM is entered. -/
def Dev.enterParam (d : Dev) (lp : Nat) : Dev :=
  let d := (d.setLnk lp lnkParam).advertise lp
  d.sendRecord lp (d.firstLane lp) 3 (d.paramBody lp)

/-- The port is in service; its live bit follows at a bell, after the bells of rejoin_left for one that has been in service
before (04 R119). -/
def Dev.enterService (d : Dev) (lp : Nat) : Dev :=
  let p := d.port lp
  let circ := d.lan.circuit.contains lp && d.rdB .plnLnkCfg lp 1
  let d := { d with lan := { d.lan with circuit := d.lan.circuit.filter (· != lp) } }
  let fresh := !p.served || circ
  let d := d.wrF .plnFwdLpStatus lp 31 8 (if fresh then 0 else d.rdF .plnFwdRejoin (lpDie lp) 23 0)
  d.setPort lp { p with fresh := fresh, served := true }

/-- The LAT_TOL that the device sends on a native port (18 R459). -/
def Dev.sendLatTol (d : Dev) (lp : Nat) : Dev :=
  let die := lpDie lp
  d.originate die { op := 0x73, vc := 6, did := linkLocal, sid := d.selfDid die, opf := 3 * 2 ^ 62 + d.rdN .pwrLatAdv 0 }
    (some lp) false false {}

/-- The credits of a port that advertised 0 because the device was not ready are owed to its far end in full once it is
(R71). -/
def Dev.creditsReturned (d : Dev) (lp : Nat) : Dev :=
  let c := fun (d : Dev) v => SMap.getD d.link.credits (lp * 8 + v) {}
  if d.isEth lp || d.lnkState lp != lnkActive || !d.forwards || (upto 8).any fun v => (c d v).far != 0 || (c d v).owed != 0 then d
  else (upto 8).foldl (fun d v =>
    let f := fun (c : Credit) => { c with owed := c.adv }
    { d with link := { d.link with credits := SMap.modify d.link.credits (lp * 8 + v) {} f } }) d

/-- ACTIVE is entered: the credits of each VC stand as both ends advertised them (R71). -/
def Dev.enterActive (d : Dev) (lp : Nat) : Dev :=
  let d := (upto 8).foldl (fun d v =>
    d.wrF .plnLnkCrdAvail (lp * 8 + v) 16 0 (SMap.getD d.link.credits (lp * 8 + v) {}).farAdv) d
  let d := ((d.setLnk lp lnkActive).creditsReturned lp).enterService lp
  let d := { d with pwr := { d.pwr with laneTol := SMap.erase d.pwr.laneTol lp, svcTol := SMap.erase d.pwr.svcTol lp } }
  d.sendLatTol lp

/-- Training moves on when both ends have acknowledged (Table 3-11). -/
def Dev.advanceTraining (d : Dev) (lp : Nat) : Dev :=
  let p := d.port lp
  if d.lnkState lp = lnkIdent then
    if p.identAcked && (d.positions lp).all fun pos => p.identLanes.contains (d.laneOf (lpFp lp) 1 pos) then d.enterParam lp
    else d
  else if d.lnkState lp = lnkParam then (if p.paramAcked && p.paramSeen then d.enterActive lp else d)
  else d

/-- A record of another version fails training (R83). -/
def Dev.versioned (d : Dev) (lp version : Nat) (f : Dev → Dev) : Dev :=
  if version = 1 then f d else if d.training lp then d.linkHoldoff lp fVersion else d

/-- MIG_READY once the lane that a receive side moves to is aligned and its skew within 40 ns (14 R383, step 2). -/
def Dev.migPrepared (d : Dev) (fp : Nat) (m : RxMig) : Dev :=
  let aligned := (SMap.getD d.link.lanes (fp * 9 + m.target) {}).aligned
  if aligned && m.skew && !m.ready then (d.setRxMig fp { m with ready := true }).sendLaneCtrl m.lp 2 m.pos 1 0 0 8
  else d.setRxMig fp m

/-- TS_ALIGN on the lane that a receive side moves to: it shows the lane's skew. More than 40 ns ends the migration. -/
def Dev.migAlign (d : Dev) (lp lane skew seq : Nat) : Dev :=
  match SMap.find? d.lan.rxMig (lpFp lp) with
  | some m =>
    if m.lp ≠ lp ∨ lane ≠ m.target ∨ m.ready = true then d
    else if skew > 40 then d.rxMigFail (lpFp lp)
    else (d.sendAck lp lane 1 seq).migPrepared (lpFp lp) { m with skew := true }
  | none => d

/-- TS_ALIGN: stripes align within 40 ns (R59), every lane in its order; on a spare it prepares a migration (14 R383). -/
def Dev.tsAlign (d : Dev) (lp lane named skew seq : Nat) : Dev :=
  if d.lnkState lp = lnkActive then d.migAlign lp lane skew seq
  else if d.lnkState lp ≠ lnkDeskew then d
  else if skew > 40 then d.linkHoldoff lp fDeskew
  else if named ≠ lane then (d.linkHoldoff lp fLaneOrder).wrongLine (lpFp lp) 1 lane
  else
    let d := d.sendAck lp lane 1 seq
    let p := d.port lp
    let d := d.setPort lp { p with alignLanes := if p.alignLanes.contains lane then p.alignLanes else lane :: p.alignLanes }
    if (d.positions lp).all fun pos => (d.port lp).alignLanes.contains (d.laneOf (lpFp lp) 1 pos) then d.enterIdent lp else d

/-- TS_ALIGN. -/
def execTsAlign (lp : Fin 2048) (lane : Fin 9) (named version : Nat) (recSeq : Fin 256) (skew : Nat) (s : State) :
    Host.Outcome State Fault Refusal :=
  .next (tellLost <| s.on fun d => d.versioned lp version fun d => d.tsAlign lp lane named skew recSeq)

/-- The first mismatch of rule R84 in a TS_IDENT, with the wrong-line check of 14 R376: its reason, 0 for none. -/
def Dev.identCheck (d : Dev) (lp : Nat) (r : Ident) : Nat :=
  let fp := lpFp lp
  if r.named ≠ r.lane ∨ bits r.word20 31 28 ≠ d.laneLine fp 1 r.lane then fLaneOrder
  else if bits r.word16 14 13 ≠ d.rdF .plnFibCfg fp 1 0 then fBreakout
  else if bits r.word16 10 8 ≠ d.rdF .timBellCfg 0 2 0 then fBell
  else if d.rdB .plnLnkCfg lp 1 ∧ (r.devId ≠ d.rdN .plnLnkExpIdLo lp + d.rdN .plnLnkExpIdHi lp * 2 ^ 32 ∨
      bits r.word16 17 15 ≠ d.rdF .plnLnkExpPort lp 10 8 ∨ bits r.word16 25 18 ≠ d.rdF .plnLnkExpPort lp 7 0) then fIdent
  else 0

/-- TS_IDENT accepted: its lane is acknowledged, the far end's identity and port are shown. -/
def Dev.identOk (d : Dev) (lp : Nat) (r : Ident) (seq : Nat) : Dev :=
  let p := d.port lp
  let d := d.setPort lp { p with identLanes := if p.identLanes.contains r.lane then p.identLanes else r.lane :: p.identLanes }
  let d := (d.wr .plnLnkFarIdLo lp (word r.devId)).wr .plnLnkFarIdHi lp (word (r.devId / 2 ^ 32))
  let d := (d.wr .plnLnkFarPort lp (word r.word16)).wrF .plnLnkStatus lp 13 12 (bits r.word16 12 11)
  (d.sendAck lp r.lane 2 seq).advanceTraining lp

/-- TS_IDENT (R84): judged in IDENT; one that comes again later is acknowledged again. DESIGN CHOICE (assumption 147): each
lane's record is judged by itself as it arrives, through all four steps, so that a mismatch of breakout on one lane fails
training before the record of a later lane that names the wrong lane. -/
def Dev.tsIdent (d : Dev) (lp : Nat) (r : Ident) (seq : Nat) : Dev :=
  let st := d.lnkState lp
  if st = lnkIdent then
    match d.identCheck lp r with
    | 0 => d.identOk lp r seq
    | 7 => (d.linkHoldoff lp fLaneOrder).wrongLine (lpFp lp) 1 r.lane
    | e => d.linkHoldoff lp e
  else if st = lnkParam ∨ st = lnkActive then d.sendAck lp r.lane 2 seq
  else d

/-- TS_IDENT. -/
def execTsIdent (lp : Fin 2048) (r : Ident) (recSeq : Fin 256) (s : State) : Host.Outcome State Fault Refusal :=
  .next (tellLost <| s.on fun d => d.versioned lp r.version fun d => d.tsIdent lp r recSeq)

/-- TS_PARAM: the far end's initial credits (R71); one that comes again is acknowledged again. -/
def Dev.tsParam (d : Dev) (lp : Nat) (credits : List Nat) (seq : Nat) : Dev :=
  let lane := d.firstLane lp
  if d.lnkState lp = lnkActive then d.sendAck lp lane 3 seq
  else if d.lnkState lp ≠ lnkParam then d
  else
    let d := (upto 8).foldl (fun d v =>
      let c := SMap.getD d.link.credits (lp * 8 + v) {}
      { d with link := { d.link with
        credits := SMap.put d.link.credits (lp * 8 + v) {} { c with farAdv := credits.getD v 0 % 65536 } } }) d
    ((d.setPort lp { d.port lp with paramSeen := true }).sendAck lp lane 3 seq).advanceTraining lp

/-- TS_PARAM. -/
def execTsParam (lp : Fin 2048) (version : Nat) (recSeq : Fin 256) (credits : List Nat) (s : State) :
    Host.Outcome State Fault Refusal :=
  .next (tellLost <| s.on fun d => d.versioned lp version fun d => d.tsParam lp credits recSeq)

/-- TS_ACK: the record of a type and rec_seq is sent no more (R82). -/
def Dev.tsAck (d : Dev) (lp typ seq : Nat) : Dev :=
  let p := d.port lp
  let left := p.sending.filter fun r => !(r.typ == typ && r.seq == seq)
  if left.length = p.sending.length then d
  else
    let none' := fun t => !left.any fun r => r.typ == t
    let p := { p with sending := left, identAcked := p.identAcked || (typ == 2 && none' 2),
                      paramAcked := p.paramAcked || (typ == 3 && none' 3) }
    (d.setPort lp p).advanceTraining lp

/-- TS_ACK. -/
def execTsAck (lp : Fin 2048) (version : Nat) (recType ackSeq : Fin 256) (s : State) : Host.Outcome State Fault Refusal :=
  .next (tellLost <| s.on fun d => d.versioned lp version fun d => d.tsAck lp recType ackSeq)

/-- LINK_DOWN received (R86): DOWN at once. -/
def Dev.farDown (d : Dev) (lp : Nat) : Dev :=
  if d.training lp || d.lnkState lp = lnkActive then d.linkToDown lp fFarDown .farDown else d

/-- LINK_DOWN. The reason that the record names is the far end's and is not shown. -/
def execLinkDown (lp : Fin 2048) (version : Nat) (_reason : Fin 256) (s : State) : Host.Outcome State Fault Refusal :=
  .next (tellLost <| s.on fun d => d.versioned lp version fun d => d.farDown lp)

/-- TRAINING_RESEND: each record not yet acknowledged is sent again (R82). -/
def Dev.resendRecords (d : Dev) (lp : Nat) : Dev :=
  (d.port lp).sending.foldl (fun d r => d.queueMnt lp r.lane (mntCell r.typ r.lane r.seq r.body)) d

/-- TRAINING_RESEND. -/
def execTrainingResend (lp : Fin 2048) (s : State) : Host.Outcome State Fault Refusal :=
  .next (tellLost <| s.on fun d => d.resendRecords lp)

/-- TRAINING_TIMEOUT: 500 µs from FEC_ALIGN (R82). -/
def execTrainingTimeout (lp : Fin 2048) (s : State) : Host.Outcome State Fault Refusal :=
  .next (tellLost <| s.on fun d => if d.training lp then d.linkHoldoff lp fTimeout else d)

/-- FEC_ALIGN_TIMEOUT: 100 µs in FEC_ALIGN. -/
def execFecAlignTimeout (lp : Fin 2048) (s : State) : Host.Outcome State Fault Refusal :=
  .next (tellLost <| s.on fun d => if d.lnkState lp = lnkFecAlign then d.linkHoldoff lp fFecNoLock else d)

/-- HEARTBEAT_TIMEOUT: 2 µs without a valid group on a lane (R85), unless a HOLD covers it (14 R380). -/
def execHeartbeatTimeout (lp : Fin 2048) (s : State) : Host.Outcome State Fault Refusal :=
  .next (tellLost <| s.on fun d => if d.lnkState lp = lnkActive ∧ !d.held? lp then d.linkHoldoff lp fHeartbeat else d)

/-- The 16 LINK_DOWN records of a port that software takes down, in unsequenced groups of its first lane (R86). DESIGN CHOICE
(assumption 150): their rec_seq is 0, for nothing acknowledges them. -/
def Dev.sendLinkDown (d : Dev) (lp reason : Nat) : Dev :=
  let l := d.fibLanes (lpFp lp)
  let lane := d.laneOf (lpFp lp) 0 (lp % 8)
  let cells := List.replicate 8 (mntCell 6 lane 0 (toBE 4 reason))
  let stripe := cells :: List.replicate (l - 1) []
  let d := (d.sendIdle lp stripe).sendIdle lp stripe
  if (d.port lp).pairHalf.isEmpty then d else d.sendIdle lp (List.replicate l [])

/-- The port is taken down by software, which sends its LINK_DOWN records from every state that sends (R86), or by a commit,
which sends them from ACTIVE only: a port in training goes to DOWN at once (R93). -/
def Dev.adminDown (d : Dev) (lp : Nat) (commit : Bool) : Dev :=
  let st := d.lnkState lp
  let d := if st = lnkActive || (d.training lp && !commit) then d.sendLinkDown lp fAdmin else d
  if st = lnkHoldoff ∨ st = lnkDown then (d.setLnk lp lnkDown).setPort lp { d.port lp with downBy := .admin }
  else d.linkToDown lp fAdmin .admin

/-- LNK_CTRL_DOWN. DESIGN CHOICE (assumption 148): a port in Ethernet framing has none of the states of Table 3-11 (R87), and
the write does nothing to it. -/
def execLnkCtrlDown (who : Partner) (lp : Fin 2048) (s : State) : Host.Outcome State Fault Refusal :=
  .next (tellLost <| s.on fun d => d.ctl who (regOffset .plnLnkCtrl lp) fun d => if d.isEth lp then d else d.adminDown lp false)

/-- PLN_LNK_CTRL.retrain (R487): from DOWN or ACTIVE to FEC_ALIGN while enable = 1 is in force. -/
def Dev.retrain (d : Dev) (lp : Nat) : Dev :=
  let st := d.lnkState lp
  if d.isEth lp || !d.lpEnabled lp then d
  else if st = lnkActive then (d.linkToDown lp 0 .reset).leaveDown lp
  else if st = lnkDown then (d.setPort lp { d.port lp with downBy := .reset }).leaveDown lp
  else d

/-- LNK_CTRL_RETRAIN. -/
def execLnkCtrlRetrain (who : Partner) (lp : Fin 2048) (s : State) : Host.Outcome State Fault Refusal :=
  .next (tellLost <| s.on fun d => d.ctl who (regOffset .plnLnkCtrl lp) fun d => d.retrain lp)

/-- CLR_COUNTERS. -/
def execClrCounters (who : Partner) (off : Nat) (s : State) : Host.Outcome State Fault Refusal :=
  .next (tellLost <| s.on fun d => clrAt d who off)

/-! Ethernet ports (R87, 04 R117). -/

/-- PCS_ALIGNED: the port is up. -/
def Dev.pcsUp (d : Dev) (lp : Nat) : Dev :=
  if d.isEth lp && d.lpEnabled lp && !(d.port lp).pcs then
    (d.setPort lp { d.port lp with pcs := true }).enterService lp
  else d

/-- PCS_ALIGNED. -/
def execPcsAligned (lp : Fin 2048) (s : State) : Host.Outcome State Fault Refusal := .next (tellLost <| s.on fun d => d.pcsUp lp)

/-- PCS_ALIGN_LOST: the port leaves service. -/
def Dev.pcsDown (d : Dev) (lp : Nat) : Dev :=
  if (d.port lp).pcs then (d.setPort lp { d.port lp with pcs := false }).leaveService lp else d

/-- PCS_ALIGN_LOST. -/
def execPcsAlignLost (lp : Fin 2048) (s : State) : Host.Outcome State Fault Refusal := .next (tellLost <| s.on fun d => d.pcsDown lp)

/-! Groups received (R56 to R63). -/

/-- A LANE_CTRL record (Table 14-4). -/
def Dev.laneCtrl (d : Dev) (lp seq : Nat) (b : List Byte) : Dev :=
  let w := beAt b 0 4
  let pos := bits w 23 20 % 8
  let bell := beAt b 4 8
  match bits w 31 24 with
  | 1 => d.migReq lp pos bell seq
  | 2 => d.migReady lp seq
  | 3 => d.migDone lp seq
  | 4 => d.migAborted lp (bits w 19 16 % 2) pos seq
  | 5 => d.spareMap lp (bits w 19 16 % 2) pos seq
  | 6 => d.holdRx lp bell (bits w 15 0) seq
  | _ => d

/-- A maintenance record that arrived on a lane; an unknown type is ignored (R83). -/
def Dev.recordIn (d : Dev) (lp lane : Nat) (c : List Byte) : Dev :=
  let w := beAt c 4 4
  let named := bits w 15 8
  let seq := bits w 7 0
  let b := slice c 8 56
  d.versioned lp (bits w 23 16) fun d =>
    match bits w 31 24 with
    | 1 => d.tsAlign lp lane named 0 seq
    | 2 => d.tsIdent lp ⟨lane, named, 1, beAt b 0 8, beAt b 8 4, beAt b 12 4⟩ seq
    | 3 => d.tsParam lp ((upto 8).map fun v => beAt b (2 * v) 2) seq
    | 4 => d.tsAck lp (beAt b 0 1) (beAt b 3 1)
    | 5 => d.laneCtrl lp seq b
    | 6 => d.farDown lp
    | _ => d

/-- One cell of a group; packet cells and credit returns act only in an accepted sequenced group (R61, R62). -/
def cellIn (s : State) (lp lane : Nat) (sequenced : Bool) (c : List Byte) : State :=
  let w := beAt c 0 4
  if bit w 8 && bit w 9 then s.on fun d => d.malCount lp
  else
    let s := if sequenced then s.on fun d => d.creditIn lp (bits w 26 24) (bits w 23 18) else s
    if bit w 8 then s
    else if bit w 9 then s.on fun d => d.recordIn lp lane c
    else if sequenced then packetIn s lp w c
    else s

/-- The 8 cells of a group. -/
def cellsIn (s : State) (lp lane : Nat) (sequenced : Bool) (g : List Byte) : State :=
  (upto 8).foldl (fun s i =>
    if sequenced && s.dev.lnkState lp != lnkActive then s else cellIn s lp lane sequenced (slice g (64 * i) 64)) s

/-- A link error (R63): a NAK is raised. -/
def Dev.raiseNak (d : Dev) (lp : Nat) : Dev :=
  let p := d.port lp
  if d.lnkState lp ≠ lnkActive ∨ p.nak then d else (d.setPort lp { p with nak := true }).bump .plnLnkNakTx lp

/-- A lane of a port has lost its alignment while a HOLD covers the port, which is no link error (14 R380). -/
def Dev.lossHeld (d : Dev) (lp lane : Nat) : Bool :=
  d.held? lp && !(SMap.getD d.link.lanes (lpFp lp * 9 + lane) {}).aligned

/-- One group of a stripe, in lane order; none: its codeword was discarded (R57, R60 to R63). -/
def groupIn (s : State) (lp lane : Nat) (g : Option (List Byte)) : State :=
  match g with
  | none => s.on fun d => if d.lossHeld lp lane then d else d.raiseNak lp
  | some g =>
    if crc32c (slice g 0 516) ≠ beAt g 516 4 then s.on fun d => (d.bump .plnLnkCrcErr lp).raiseNak lp
    else
      let w := beAt g 512 4
      let seq := bits w 31 18
      let unseq := bit w 1
      let replay := bit w 0
      let s := if s.dev.lnkState lp = lnkActive then s.on fun d => d.ackIn lp (bits w 17 4) (bits w 3 2) else s
      if unseq then cellsIn s lp lane false g
      else if s.dev.lnkState lp ≠ lnkActive then s
      else
        let p := s.dev.port lp
        if seq = p.rxSeq then
          let s := s.on fun d =>
            (d.setPort lp { p with rxSeq := (seq + 1) % 16384, nak := p.nak && !replay }).bump64 .plnLnkGrpRxLo .plnLnkGrpRxHi lp 1
          cellsIn s lp lane true g
        else if (seq + 16384 - p.rxSeq) % 16384 < 8192 then s.on fun d => d.raiseNak lp
        else s

/-- One complete stripe taken from the lanes, if each has a group. -/
def Port.stripe (p : Port) (ps : List Nat) : Option (Port × List (Nat × Option (List Byte))) :=
  let heads := ps.map fun pos => (pos, SMap.getD p.rxLanes pos [])
  if heads.any fun h => h.2.isEmpty then none
  else some ({ p with rxLanes := heads.foldl (fun m h => SMap.put m h.1 [] h.2.tail) p.rxLanes },
             heads.map fun h => (h.1, (h.2.head?).getD none))

/-- Complete stripes are taken up in lane order. -/
def stripesIn (s : State) (lp : Nat) : Nat → State
  | 0 => s
  | k + 1 =>
    match (s.dev.port lp).stripe (s.dev.positions lp) with
    | none => s
    | some (p, gs) =>
      let s := s.on fun d => d.setPort lp p
      let s := gs.foldl (fun s g => groupIn s lp (s.dev.laneOf (lpFp lp) 1 g.1) g.2) s
      stripesIn s lp k

/-- A lane's alignment after a pair (R56). -/
def Align.after (a : Align) (good : Bool) : Align :=
  if a.aligned then
    if good then { a with bad := 0 }
    else if a.bad + 1 ≥ 8 then {} else { a with bad := a.bad + 1 }
  else if good then (if a.good + 1 ≥ 4 then ⟨true, 0, 0⟩ else { a with good := a.good + 1 })
  else { a with good := 0 }

/-- FEC counters of a decoded pair: symbols corrected and uncorrectable codewords (R57). -/
def Dev.fecCount (d : Dev) (lp : Nat) (r : Option (List Byte × Nat)) : Dev :=
  match r with
  | some x => if x.2 = 0 then d else d.bumpN .plnLnkFecCorr lp x.2
  | none => d.bump .plnLnkFecUnc lp

/-- SPARE_TAKEOVER (14 R383, step 4): pairs of the spare and of the lane are compared in order; after 4 identical ones the
position is taken from where it moves to, and MIG_DONE is sent. -/
def Dev.migCompare (d : Dev) (fp : Nat) (m : RxMig) : Nat → Dev
  | 0 => d
  | k + 1 =>
    match m.spare, m.lane with
    | a :: as, b :: bs =>
      let n := if a = b then m.same + 1 else 0
      let m := { m with spare := as, lane := bs, same := n }
      if n ≥ 4 then
        let d := { d with lan := { d.lan with rxMig := SMap.erase d.lan.rxMig fp, taken := SMap.insert fp (m.pos, m.back) d.lan.taken } }
        let d := d.setSpare fp 1 (if m.back then 15 else m.pos)
        (d.park fp 1 m.source).sendLaneCtrl m.lp 3 m.pos 1 0 0 8
      else (d.setRxMig fp m).migCompare fp m k
    | _, _ => d

/-- A pair of a lane that a migration watches: alignment before MIG_READY, comparison after it from the named bell. -/
def Dev.migPair (d : Dev) (fp lane : Nat) (r : Option (List Byte) × Option (List Byte)) : Dev :=
  match SMap.find? d.lan.rxMig fp with
  | none => d
  | some m =>
    if !m.ready then d.migPrepared fp m
    else match r with
      | (some a, some b) =>
        if d.time.bell < m.bell then d
        else if lane = m.target then
          let m := { m with spare := m.spare ++ [a ++ b] }
          (d.setRxMig fp m).migCompare fp m 64
        else if lane = m.source then
          let m := { m with lane := m.lane ++ [a ++ b] }
          (d.setRxMig fp m).migCompare fp m 64
        else d
      | _ => d

/-- The unsequenced cells of groups outside a stripe: those of a lane in FEC_ALIGN, or of one that a migration prepares. -/
def looseGroups (s : State) (lp lane : Nat) (gs : List (Option (List Byte))) : State :=
  gs.foldl (fun s g => match g with
    | some g => if crc32c (slice g 0 516) = beAt g 516 4 ∧ bit (beAt g 512 4) 1 = true then cellsIn s lp lane false g else s
    | none => s) s

/-- The lane is the one that a receive side of the port moves to and is not yet ready on. -/
def Dev.migTarget (d : Dev) (lp lane : Nat) : Bool :=
  match SMap.find? d.lan.rxMig (lpFp lp) with
  | some m => m.lp == lp && lane == m.target && !m.ready
  | none => false

/-- GROUP_RECEIVED: a codeword pair on a lane of a port is decoded; its groups join the stripes of the port. DESIGN CHOICE
(assumption 149): while a lane hunts for its alignment (R56) it takes up no codeword, and the FEC counters (R57) count
none. -/
def groupReceived (s : State) (lp lane : Nat) (pair : List Byte) : State :=
  let st := s.dev.lnkState lp
  let fp := lpFp lp
  if s.dev.isEth lp || st = lnkDown || st = lnkHoldoff then s
  else
    let (a, b) := decodePair lane pair
    let k := fp * 9 + lane
    let al := SMap.getD s.dev.link.lanes k {}
    let al' := al.after (a.isSome && b.isSome)
    let pos := s.dev.posOf fp 1 lane
    let s := s.on fun d =>
      let d := { d with link := { d.link with lanes := SMap.put d.link.lanes k {} al' } }
      let d := if al.aligned then (d.fecCount lp a).fecCount lp b else d
      d.migPair fp lane (a.map (·.1), b.map (·.1))
    let gs := if al.aligned then [a.map (·.1), b.map (·.1)] else [none, none]
    if s.dev.migTarget lp lane then looseGroups s lp lane gs
    else if !(s.dev.positions lp).contains pos || s.dev.laneOf fp 1 pos ≠ lane then s
    else if st = lnkFecAlign then
      (looseGroups s lp lane gs).on fun d =>
        if d.lnkState lp = lnkFecAlign ∧ d.noSpare lp = false ∧
            (d.positions lp).all (fun p => (SMap.getD d.link.lanes (fp * 9 + d.laneOf fp 1 p) {}).aligned) = true then
          d.enterDeskew lp
        else d
    else
      let s := s.on fun d =>
        let p := d.port lp
        d.setPort lp { p with rxLanes := SMap.modify p.rxLanes pos [] (· ++ gs) }
      stripesIn s lp 4

/-- GROUP_RECEIVED. -/
def execGroupReceived (lp : Fin 2048) (lane : Fin 9) (pair : List Byte) (s : State) : Host.Outcome State Fault Refusal :=
  .next (tellLost (groupReceived s lp lane pair))

/-! Live bits (04 R117, R119). -/

/-- The live bit of a port is set; a rejoin writes its record. -/
def Dev.setLive (d : Dev) (lp : Nat) (rejoin : Bool) : Dev :=
  let d := (d.wr .plnFwdLpStatus lp 1).setPort lp { d.port lp with fresh := false }
  if rejoin then d.raise (lpDie lp) 0x0302 sevNotice [lp, 0] else d

/-- REJOIN: the hold of a port in service has ended: no bell of it remains. -/
def Dev.rejoin (d : Dev) (lp : Nat) : Dev :=
  if d.rdF .plnFwdLpStatus lp 31 8 = 0 && d.inService lp && !d.rdB .plnFwdLpStatus lp 0 && !(d.port lp).fresh && !(d.port lp).leaving then d.setLive lp true else d

/-- REJOIN. -/
def execRejoin (lp : Fin 2048) (s : State) : Host.Outcome State Fault Refusal := .next (tellLost <| s.on fun d => d.rejoin lp)

/-- The live bit of a port at a bell in service: set at once the first time, else when the bells of its hold have passed
(04 R119). -/
def Dev.liveBell (d : Dev) (lp : Nat) : Dev :=
  let left := d.rdF .plnFwdLpStatus lp 31 8
  if !d.inService lp || d.rdB .plnFwdLpStatus lp 0 then d
  else if (d.port lp).fresh then d.setLive lp false
  else if left ≤ 1 then d.setLive lp true
  else d.wrF .plnFwdLpStatus lp 31 8 (left - 1)

/-- Overruns start afresh at a bell (R70). -/
def Dev.overrunBell (d : Dev) (lp : Nat) : Dev := d.setPort lp { d.port lp with overruns := 0 }

end Sys2Proof.Machine
end

