-- ==== Sys2Proof/Machine/Recorder.lean ====
section
/-! DEFINITION. The event recorder and the record store (17_recorder_and_counters.md R432 to R443). -/

namespace Sys2Proof.Machine

/-! Records (R432 to R438). -/

/-- The recorder's mode (R437): 3 RECOVERY, 2 TEST, 1 STARTUP until READY (phase 6 of Table 16-8), 0 SERVICE. -/
def Dev.recMode (d : Dev) : Nat :=
  if d.recovery then 3
  else if d.rdB .evrTest 0 0 then 2
  else if d.rdF .secBootStatus 0 31 28 = 6 then 0
  else 1

/-- The number of record slots (R432). -/
def recSlots : Nat := 65536

/-- The lowest number not among the keys of a map that rises from n. -/
def firstGap : SMap Rec → Nat → Nat
  | [], n => n
  | (k, _) :: t, n => if k = n then firstGap t (n + 1) else n

/-- The slot of lowest seq among those of severity at most `sev`. -/
def oldestSlot (m : SMap Rec) (sev : Nat) : Option Nat :=
  (m.foldl (fun (a : Option (Nat × Nat)) e =>
    if e.2.sev ≤ sev then
      match a with
      | some (_, q) => if e.2.seq < q then some (e.1, e.2.seq) else a
      | none => some (e.1, e.2.seq)
    else a) none).map (·.1)

/-- The sequence number after n (R438). -/
def seqAfter (n : Nat) : Nat := if n + 1 ≥ 2 ^ 32 then 1 else n + 1

/-- Records not flushed. -/
def RecSt.unflushed (r : RecSt) : Nat := (r.slots.filter fun e => !e.2.flushed).length

/-- A trigger for a flush (R439). The running flush or the next one takes it up; without a store nothing is flushed. -/
def Dev.flushTrigger (d : Dev) : Dev := { d with rcd := { d.rcd with trigger := true } }

/-- HUB_EVT_IRQ: a new record of severity at least min_sev sends a host its message (19 R469); 7 acts as 6. -/
def Dev.recordIrq (d : Dev) (sev : Nat) : Dev :=
  [0, 1].foldl (fun d h =>
    if d.rdB .hubEvtIrq h 31 && decide (min 6 (d.rdF .hubEvtIrq h 30 28) ≤ sev) then d.msix h (d.rdF .hubEvtIrq h 10 0)
    else d) d

/-- A WATCHDOG record being written sets HUB_FAULT_CTX word 1 to its seq (15 R391). -/
def Dev.faultCtxSeq (d : Dev) (code seq : Nat) : Dev :=
  if code = 0x0A01 ∨ code = 0x0511 ∨ code = 0x0A02 then d.wr .hubFaultCtx 1 (word seq) else d

/-- A new record in a slot (R433, R436). -/
def Dev.newRecord (d : Dev) (slot : Nat) (e : Event) : Dev :=
  let seq := d.rdN .evrSeqNext 0
  let old := SMap.find? d.rcd.slots slot
  let wc := ((old.map (·.wcount)).getD 0 + 2) % 2 ^ 16
  let r : Rec := ⟨seq, wc, false, e.sev, e.origin, e.code, min 65535 e.extra, e.bell, e.bell % 2 ^ 32, e.sec, e.ns, e.w⟩
  let lost : Bool := match old with | some o => !o.flushed | none => false
  let d : Dev := if lost then d.bump .evrLost 0 else d
  let d : Dev := { d with rcd := { d.rcd with slots := SMap.insert slot r d.rcd.slots, last := SMap.insert e.origin slot d.rcd.last } }
  let d : Dev := (d.wr .evrSeqNext 0 (word (seqAfter seq))).faultCtxSeq e.code seq
  let d := if decide (d.rdF .evrCfg 0 6 4 ≤ e.sev) || decide (256 ≤ d.rcd.unflushed) then d.flushTrigger else d
  d.recordIrq e.sev

/-- A repeat of the origin's last record (R435). -/
def Dev.repeatRecord (d : Dev) (slot : Nat) (r : Rec) (e : Event) : Dev :=
  let r' := { r with rep := min 65535 (r.rep + 1 + e.extra), lastBell := e.bell % 2 ^ 32, flushed := false, wcount := (r.wcount + 2) % 2 ^ 16 }
  let d : Dev := { d with rcd := { d.rcd with slots := SMap.insert slot r' d.rcd.slots } }
  if r.flushed && decide (256 ≤ d.rcd.unflushed) then d.flushTrigger else d

/-- The slot and record that an event repeats: the origin's last record, still in its slot, with the event's code, w0
and w1 and a repeat count below 65,535 (R435). -/
def Dev.repeats (d : Dev) (e : Event) : Option (Nat × Rec) :=
  match SMap.find? d.rcd.last e.origin with
  | none => none
  | some slot =>
    match SMap.find? d.rcd.slots slot with
    | none => none
    | some r =>
      if r.origin = e.origin ∧ r.code = e.code ∧ r.w[0]? = e.w[0]? ∧ r.w[1]? = e.w[1]? ∧ r.rep < 65535 then some (slot, r)
      else none

/-- One event written: a repeat, a new record in an empty slot or over an old one, or dropped (R435, R436). -/
def Dev.writeEvent (d : Dev) (e : Event) : Dev :=
  match d.repeats e with
  | some (slot, r) => d.repeatRecord slot r e
  | none =>
    let gap := firstGap d.rcd.slots 0
    if gap < recSlots then d.newRecord gap e
    else if d.recMode = 0 then
      match oldestSlot d.rcd.slots e.sev with
      | some slot => d.newRecord slot e
      | none => d.bump .evrDrop e.sev
    else d.bump .evrDropFull 0

/-- A write over another origin's last record makes that origin's slot hold it no more (R435): the check of `repeats`
compares the origin, and two records of one origin in one slot differ in seq; the map is kept exact here. -/
def Dev.dropLast (d : Dev) (slot origin : Nat) : Dev :=
  { d with rcd := { d.rcd with last := d.rcd.last.filter fun x => !(x.2 == slot && x.1 != origin) } }

/-- RECORD_WRITE: the recorder takes the oldest event of an origin's queue; none is taken after PWR_WARN_N (R440). -/
def Dev.recordWrite (d : Dev) (origin : Nat) : Dev :=
  if d.rcd.warn then d
  else match SMap.getD d.rcd.queues origin [] with
    | [] => d
    | e :: q =>
      let d := { d with rcd := { d.rcd with queues := SMap.put d.rcd.queues origin [] q } }
      let d := d.writeEvent e
      match SMap.find? d.rcd.last origin with
      | some slot => d.dropLast slot origin
      | none => d

/-- RECORD_WRITE. -/
def execRecordWrite (origin : Fin 9) (s : State) : Host.Outcome State Fault Refusal :=
  .next (s.on fun d => d.recordWrite origin.val)

/-! The record store (R439 to R442). -/

/-- Journal entries of the store (Table 17-2). -/
def journalSize : Nat := 261120

/-- The header copy in force: the higher generation (R441). -/
def RecSt.header (r : RecSt) : StoreHdr := if r.hdrB.gen > r.hdrA.gen then r.hdrB else r.hdrA

/-- A record appended to the journal and marked flushed; a mark alone leaves wcount unchanged (R433). -/
def RecSt.journalPut (r : RecSt) (h : StoreHdr) (slot : Nat) (x : Rec) : RecSt × StoreHdr :=
  let n := h.nextIdx + 1
  ({ r with journal := SMap.insert h.nextIdx { x with flushed := true } r.journal,
            slots := SMap.insert slot { x with flushed := true } r.slots },
   { h with nextIdx := if n ≥ journalSize then 0 else n, wrapped := h.wrapped || decide (n ≥ journalSize) })

/-- The header written over the older copy, one generation up (R441). -/
def RecSt.putHeader (r : RecSt) (h : StoreHdr) : RecSt :=
  let h := { h with gen := r.header.gen + 1 }
  if r.hdrB.gen > r.hdrA.gen then { r with hdrA := h } else { r with hdrB := h }

/-- Insertion into a list sorted by a key. -/
def sortInsert {α : Type} (key : α → Nat) (a : α) : List α → List α
  | [] => [a]
  | b :: t => if key a ≤ key b then a :: b :: t else b :: sortInsert key a t

/-- A list sorted by a key, stable. -/
def sortBy {α : Type} (key : α → Nat) (l : List α) : List α := l.foldr (sortInsert key) []

/-- A flush fails (R441): store_err is set and recorded with the journal index, once; a write error is counted. -/
def Dev.storeFail (d : Dev) (next : Nat) (wrErr : Bool) : Dev :=
  let d := if wrErr then d.wrF .hubFlsErr 0 31 16 (min 65535 (d.rdF .hubFlsErr 0 31 16 + 1)) else d
  let was := d.rcd.storeErr
  let d := { d with rcd := { d.rcd with storeErr := true, trigger := false } }
  if was then d else d.raise hubOrigin 0x0F01 sevError [0, 0, next]

/-- The store has taken n writes. -/
def RecSt.took (r : RecSt) (n : Nat) : RecSt := { r with fault := r.fault.map fun f => (f.1 - n, f.2) }

/-- The store fails while a flush writes the unflushed records and the header: how many it takes, and whether it reports an
error. -/
def RecSt.failsIn (r : RecSt) : Option (Nat × Bool) :=
  r.fault.filter fun f => decide (f.1 ≤ (r.slots.filter fun e => !e.2.flushed).length)

/-- Records and then the header are written, or the store fails on the way (R441). -/
def Dev.storeWrite (d : Dev) (todo : List (Nat × Rec)) (fails : Option (Nat × Bool)) (f : StoreHdr → StoreHdr) : Dev :=
  let put := fun (n : Nat) => (todo.take n).foldl (fun (a : RecSt × StoreHdr) e => a.1.journalPut a.2 e.1 e.2) (d.rcd, d.rcd.header)
  match fails with
  | none =>
    let (r, h) := put todo.length
    { d with rcd := (r.putHeader (f h)).took (todo.length + 1) }
  | some (n, wrErr) =>
    let (r, h) := put n
    ({ d with rcd := r.took n }).storeFail h.nextIdx wrErr

/-- Every unflushed record is written in ascending seq order, then the header (R439); without a store, and after one has failed,
nothing is written. -/
def Dev.flushWith (d : Dev) (f : StoreHdr → StoreHdr) : Dev :=
  if !d.rcd.present || d.rcd.storeErr then d.storeFail d.rcd.header.nextIdx false
  else
    let d := d.storeWrite (sortBy (fun e => e.2.seq) (d.rcd.slots.filter fun e => !e.2.flushed)) d.rcd.failsIn f
    { d with rcd := { d.rcd with trigger := false, flushing := false } }

/-- A flush. -/
def Dev.flushNow (d : Dev) : Dev := d.flushWith id

/-- FLUSH. Between PWR_WARN_N and its end only the write of rule R440 is made: the trigger waits. -/
def Dev.flush (d : Dev) : Dev := if d.rcd.warn then d else d.flushNow

/-- FLUSH. -/
def execFlush (s : State) : Host.Outcome State Fault Refusal := .next (s.on Dev.flush)

/-- FLUSH_MS_EXPIRY: flush_ms after the last flush a new one starts (R439). -/
def execFlushMsExpiry (s : State) : Host.Outcome State Fault Refusal := .next (s.on fun d => d.flushTrigger.flush)

/-- EVR_FLUSH: a write of EVR_CTRL.flush (R439). -/
def execEvrFlush (who : Partner) (s : State) : Host.Outcome State Fault Refusal :=
  .next (s.on fun d => d.ctl who 0x40004 fun d => d.flushTrigger.flush)

/-- Key of the order of rule R440: highest severity first, then newest. -/
def warnKey (e : Nat × Rec) : Nat := (6 - e.2.sev) * 2 ^ 33 + (2 ^ 32 - e.2.seq)

/-- PWR_WARN_N asserted (R440): no more events; at most 1,024 unflushed records are written, highest severity first and
newest first within one; then the header with the number left unwritten. -/
def Dev.pwrWarn (d : Dev) : Dev :=
  if d.rcd.warn then d
  else
    let d := { d with rcd := { d.rcd with warn := true, refused := 0 } }
    if !d.rcd.present || d.rcd.storeErr then d
    else
      let all := sortBy warnKey (d.rcd.slots.filter fun e => !e.2.flushed)
      let bell := d.time.bell
      d.storeWrite (all.take 1024) (d.rcd.failsIn.filter fun x => decide (x.1 ≤ 1024)) fun h =>
        { h with bell := bell, left := all.length - 1024, refused := 0 }

/-- PWR_WARN_N. -/
def execPwrWarnN (s : State) : Host.Outcome State Fault Refusal := .next (s.on Dev.pwrWarn)

/-- PWR_WARN_N deasserts without loss of power (R440): recording resumes, the header takes the events refused, and the
remaining records are flushed with it. -/
def Dev.pwrWarnEnd (d : Dev) : Dev :=
  if !d.rcd.warn then d
  else
    let n := d.rcd.refused
    ({ d with rcd := { d.rcd with warn := false } }).flushTrigger.flushWith fun h => { h with refused := n }

/-- PWR_WARN_DEASSERT. -/
def execPwrWarnDeassert (s : State) : Host.Outcome State Fault Refusal := .next (s.on Dev.pwrWarnEnd)

/-- EVR_FIND_SEQ written: the slot that holds the seq, or found = 0 (R438). A seq of 0 names no record. -/
def Dev.findSeq (d : Dev) (v : Word) : Dev :=
  let hit := d.rcd.slots.find? fun e => e.2.seq == v.toNat && v.toNat != 0
  (d.wr .evrFindSeq 0 v).wr .evrFindSlot 0 (match hit with | some e => word (2 ^ 31 + e.1) | none => 0)

/-- EVR_FIND_SEQ. -/
def execEvrFindSeq (who : Partner) (v : Word) (s : State) : Host.Outcome State Fault Refusal :=
  .next (s.on fun d => d.ctl who 0x40084 fun d => d.findSeq v)

/-- Word w of a record as it is laid out (Table 17-1). -/
def recWord (r : Rec) (w : Nat) : Nat :=
  match w with
  | 0 => r.seq
  | 1 => r.wcount * 2 ^ 16 + b2n r.flushed * 2 ^ 15 + r.sev * 2 ^ 12 + r.origin * 2 ^ 8
  | 2 => r.code * 2 ^ 16 + r.rep
  | 3 => r.bell / 2 ^ 32 % 2 ^ 32
  | 4 => r.bell % 2 ^ 32
  | 5 => r.lastBell
  | 6 => r.sec
  | 7 => r.ns
  | w => r.w.getD (w - 8) 0

/-- EVR_WIN: word w of the 64 slots from 64 × EVR_WIN_SEL (Table 17-7). -/
def Dev.evrWin (d : Dev) (w : Nat) : Nat :=
  match SMap.find? d.rcd.slots (d.rdF .evrWinSel 0 9 0 * 64 + w / 16) with
  | some r => recWord r (w % 16)
  | none => 0

/-- Word w of a header copy (Table 17-2), but for its CRC. -/
def hdrWord (h : StoreHdr) (w : Nat) : Nat :=
  match w with
  | 0 => 0x45565253
  | 1 => h.gen
  | 2 => h.nextIdx
  | 3 => b2n h.wrapped * 2 ^ 31
  | 4 => h.bell % 2 ^ 32
  | 5 => h.bell / 2 ^ 32 % 2 ^ 32
  | 6 => h.left
  | 7 => h.refused
  | _ => 0

/-- The mode, flushing, store_err and records held: EVR_STATUS (Table 17-7). -/
def Dev.evrStatus (d : Dev) : Nat :=
  d.recMode * 2 ^ 30 + b2n d.rcd.flushing * 2 ^ 29 + b2n d.rcd.storeErr * 2 ^ 28 + min (2 ^ 17 - 1) d.rcd.slots.length

end Sys2Proof.Machine
end

