-- ==== Sys2Proof/Machine/Embedding.lean ====
section
/-! DEFINITION. The embedding service (10_embedding_service.md): lookups, updates, commits, snapshots, mirrors and
restores. -/

namespace Sys2Proof.Machine

/-! NAKs (R269). -/

/-- Subcodes of Table 10-5. -/
def eNone : Nat := 0
def eFormat : Nat := 1
def eIndex : Nat := 2
def eBatch : Nat := 3
def eCredit : Nat := 4
def eService : Nat := 5
def eStageFull : Nat := 6
def eStageLimit : Nat := 7
def ePage : Nat := 8
def eRestoring : Nat := 9
def eCommitting : Nat := 10
def eMemory : Nat := 11
def eTile : Nat := 12

/-- A refusal: code, subcode, hint and position. -/
structure EmbNak where
  code : Nat
  sub : Nat := 0
  hint : Nat := 0
  pos : Nat := 0

/-- EMB_NAK, counted on a die: the ingress die of a lookup, the home die of an update. -/
def Dev.embNak (d : Dev) (lp : Nat) (p : Pkt) (n : EmbNak) (on : Nat) (resv : Resv) : Dev :=
  let die := lpDie lp
  let d := d.originate die { op := 0x54, vc := 1, did := p.sid, sid := d.selfDid die, tenant := p.tenant, tclass := p.tclass,
                             flow := p.flow, tag := p.tag,
                             opf := n.code * 2 ^ 56 + n.hint * 2 ^ 32 + p.opf / 2 ^ 52 % 2 ^ 12 * 2 ^ 20 + n.sub * 2 ^ 16 +
                               min 65535 n.pos } none (p.did == linkLocal) false resv
  ((d.bump .embNakCnt (on * 10 + n.code)).ocu on 25 { tenant := some p.tenant, lp := some lp } 1).page p.tenant tEmbNak 1

def Dev.nrHint (d : Dev) (die : Nat) : Nat := d.rdF .embCfg die 7 0
def Dev.busyHint (d : Dev) (die : Nat) : Nat := d.rdF .embCfg die 15 8

/-- A table's packets are refused by a reclaim of its tenant (R282). -/
def Dev.embRefused (d : Dev) (t tenant : Nat) : Bool := d.underReclaim tenant || d.rng.embClosed.contains t

/-- A descriptor that a packet may use on a die: valid there, of its tenant. -/
def Dev.embPerm (d : Dev) (die t tenant : Nat) : Bool :=
  let ws := d.embDesc t
  tdValid ws && !d.entBad die 10 0 0 t && tdTenant ws == tenant

/-- A bad entry met is counted and recorded (05 R125). -/
def Dev.embParity (d : Dev) (die t : Nat) : Dev := if d.entBad die 10 0 0 t then d.perr die 10 0 t else d

/-! Admission (R270). -/

/-- Rows a lookup takes. -/
def pNidx (p : Pkt) : Nat := bits p.opf 41 32
def lookupRows (p : Pkt) : Nat := max 1 (pNidx p)

/-- Rows in flight on a die, of a tenant or of all. -/
def Dev.embRows (d : Dev) (die : Nat) (tenant : Option Nat) : Nat :=
  (d.emb.lookups.filter fun e => e.1 / 65536 == die && (match tenant with
    | some t => e.2.p.tenant == t
    | none => true)).foldl (fun n e => n + lookupRows e.2.p) 0

/-- The limit of a tenant on a die: its enabled EMB_ADM slot's, or EMB_ADM_DFLT. -/
def Dev.embLimit (d : Dev) (die tenant : Nat) : Nat :=
  match (upto 64).find? fun i => d.rdB .embAdm (die * 64 + i) 31 && d.rdF .embAdm (die * 64 + i) 15 0 == tenant with
  | some i => d.rdF .embAdm (die * 64 + i) 30 16
  | none => d.rdF .embAdmDflt die 14 0

/-- The subcode of a refusal for n rows, 0 for none; `slot`: a slot is free. -/
def Dev.embAdmit (d : Dev) (die tenant n : Nat) (slot : Bool) : Nat :=
  if d.embLimit die tenant < d.embRows die (some tenant) + n then eCredit
  else if 16384 < d.embRows die none + n ∨ slot = false then eService
  else 0

/-- The slot that the next lookup of a die takes: on the serving tiles in turn (R265). -/
def Dev.embSlot (d : Dev) (die : Nat) : Option (Nat × Nat) :=
  let start := SMap.getD d.col.rr die 0
  (upto 8).findSome? fun i =>
    let ct := die * 8 + (start + i) % 8
    if d.serving ct && SMap.find? d.sen.next die != some ct then (d.openSlots ct).head?.map fun x => (ct, x) else none

/-! Lookups (R263 to R268). -/

def pTable (p : Pkt) : Nat := bits p.opf 63 52
def pPool (p : Pkt) : Nat := bits p.opf 51 50
def pOutFmt (p : Pkt) : Nat := bits p.opf 49 46
def pRnd (p : Pkt) : Bool := bit p.opf 45
def pWeighted (p : Pkt) : Bool := bit p.opf 44

/-- Index i of a lookup, and its weight. -/
def pIndex (p : Pkt) (i : Nat) : Nat := leAt p.payload (4 * i) 4
def pWeight (p : Pkt) (i : Nat) : Nat := leAt p.payload (4 * pNidx p + 4 * i) 4

/-- Check 1 of Table 10-3. -/
def lookupForm (p : Pkt) : Bool :=
  decide (pNidx p ≤ 512) && decide (pOutFmt p ≤ 6) && pWeighted p == (pPool p == 2) &&
    p.payload.length == (if pNidx p = 0 then 4 else if pWeighted p then 8 * pNidx p else 4 * pNidx p)

/-- Check 3. -/
def lookupFits (ws : List Word) (p : Pkt) : Bool :=
  decide (fmtBytes (pOutFmt p) (tdDim ws) ≤ 4096) && !(isMx (pOutFmt p) && tdDim ws % 32 != 0)

/-- The lowest index position that is no row. -/
def badIndex (ws : List Word) (p : Pkt) : Option Nat := (upto (pNidx p)).find? fun i => decide (tdRows ws ≤ pIndex p i)

/-- Checks 1 to 7: a refusal, or the slot. -/
def Dev.lookupCheck (d : Dev) (die : Nat) (p : Pkt) : EmbNak ⊕ (Nat × Nat) :=
  let t := pTable p
  let ws := d.embDesc t
  let slot := d.embSlot die
  if !d.isReady then .inl { code := nNotReady, hint := d.nrHint die }
  else if !lookupForm p then .inl { code := nMalformed, sub := eFormat }
  else if !d.embPerm die t p.tenant then .inl { code := nPerm }
  else if !lookupFits ws p then .inl { code := nMalformed, sub := eFormat }
  else if d.embRefused t p.tenant then .inl { code := nPreempted }
  else if d.batchState t = bRestoring then .inl { code := nNotReady, sub := eRestoring, hint := d.nrHint die }
  else
    let sub := d.embAdmit die p.tenant (lookupRows p) slot.isSome
    if sub ≠ 0 then .inl { code := nBusy, sub := sub, hint := d.busyHint die }
    else match badIndex ws p, slot with
      | some i, _ => .inl { code := nMalformed, sub := eIndex, pos := i }
      | none, some x => .inr x
      | none, none => .inl { code := nBusy, sub := eService, hint := d.busyHint die }

/-- The control word that stands for a lookup's arithmetic in a Sentinel record: SUM, AVG for MEAN, MAX. -/
def lookupCw (p : Pkt) : Nat :=
  let op := match pPool p with
    | 1 => opAvg
    | 3 => opMax
    | _ => opSum
  op * 2 ^ 28 + pOutFmt p * 2 ^ 24 + b2n (pRnd p) * 2 ^ 20

/-- The seq of a lookup's draws (R267). -/
def lookupSeq (p : Pkt) : Nat := p.sid % 2 ^ 16 * 2 ^ 16 + p.tag

/-- EMB_LOOKUP: checked, and gathering in a slot. -/
def Dev.embLookup (d : Dev) (lp : Nat) (p : Pkt) : Dev :=
  let die := lpDie lp
  let (d, resv) := d.take lp p
  let d := d.embParity die (pTable p)
  match d.lookupCheck die p with
  | .inl n => d.embNak lp p n die resv
  | .inr (ct, slot) =>
    match (upto 65536).find? fun i => (SMap.find? d.emb.lookups (die * 65536 + i)).isNone with
    | none => d.embNak lp p { code := nBusy, sub := eService, hint := d.busyHint die } die resv
    | some i =>
      let x : Lookup := ⟨lp, p, resv, d.embDesc (pTable p), ct, slot⟩
      let d := { d with emb := { d.emb with lookups := SMap.insert (die * 65536 + i) x d.emb.lookups },
                        col := { d.col with rr := SMap.put d.col.rr die 0 ((ct + 1) % 8) } }
      (d.armSlot ct slot).sampleOpen true (pTable p) (lookupSeq p) 0 (lookupCw p) ct

/-- EMB_LOOKUP. -/
def execEmbLookup (lp : Fin 2048) (p : Pkt) (s : State) : Host.Outcome State Fault Refusal :=
  .next (vc0Order lp p (fun s => s.on fun d => d.embLookup lp p) s)

/-! Rows (R260, R266). -/

/-- The Cupola format of a table's elements. -/
def tdElem (ws : List Word) : Nat := if tdFmt ws = 7 then 11 else tdFmt ws

/-- A table's rows carry a row scale. -/
def tdScaled (ws : List Word) : Bool := [3, 4, 7].contains (tdFmt ws)

/-- The elements of a row. -/
def rowElems (ws : List Word) (row : List Byte) : List Elem :=
  decodeElems (tdElem ws) (tdDim ws) (if tdScaled ws then row.drop 32 else row)

/-- An FP32 word as an element. -/
def fp32Elem (x : Nat) : Elem := decodeScalar 0 x

/-- One, in units of 2^-152. -/
def oneElem : Elem := .fin (2 ^ 152 : Nat)

/-- The row scale. -/
def rowScale (ws : List Word) (row : List Byte) : Elem := if tdScaled ws then fp32Elem (leAt row 0 4) else oneElem

/-- The exact product of factors: NaN, an infinity, or a value in units of 2^-456. -/
def mul3 (x s w : Elem) : Elem :=
  let zero := fun (e : Elem) => e == Elem.fin 0
  let neg := fun (e : Elem) => match e with
    | .fin v => decide (v < 0)
    | .inf n => n
    | .nan => false
  let isInf := fun (e : Elem) => match e with
    | .inf _ => true
    | _ => false
  match x, s, w with
  | .nan, _, _ | _, .nan, _ | _, _, .nan => .nan
  | .fin a, .fin b, .fin c => .fin (a * b * c)
  | _, _, _ =>
    if zero x || zero s || zero w then .nan
    else if isInf x || isInf s || isInf w then .inf (xor (neg x) (xor (neg s) (neg w)))
    else .nan

/-- The addend of rule R266, and whether it was finite and taken as infinite. -/
def addend (x s w : Elem) : Elem × Bool :=
  match mul3 x s w with
  | .fin v =>
    if (2 ^ (157 + 456) : Nat) ≤ v.natAbs then (.inf (decide (v < 0)), true)
    else (.fin (roundAt v 1 304 none), false)
  | e => (e, false)

/-- A row read on a die, at a class: a code, or its bytes. -/
def rowRead (s : State) (die : Nat) (ws : List Word) (r cls : Nat) : State × (Nat ⊕ List Byte) :=
  poolRead s die (tdTenant ws) (tdBase ws + r * tdRowBytes ws) (tdRowBytes ws) cls

/-- Every row of a lookup. -/
def gather (s : State) (die : Nat) (ws : List Word) (p : Pkt) : State × List (Nat ⊕ List Byte) :=
  (upto (pNidx p)).foldl (fun (a : State × List (Nat ⊕ List Byte)) i =>
    match rowRead a.1 die ws (pIndex p i) 0 with
    | (s, r) => (s, a.2 ++ [r])) (s, [])

/-- The first position whose row has no page (check 8), or else did not read (check 9). -/
def gatherFail (rows : List (Nat ⊕ List Byte)) : Option (Bool × Nat) :=
  let codes := rows.map fun r => match r with
    | .inl c => c
    | .inr _ => 0
  if codes.contains cPage then some (true, codes.findIdx (· == cPage))
  else if codes.any (· != 0) then some (false, codes.findIdx (· != 0))
  else none

/-- The addends of a lookup, row by row, each with whether it was finite and taken as infinite (R266). -/
def addends (ws : List Word) (p : Pkt) (rows : List (List Byte)) : List (List (Elem × Bool)) :=
  ((upto rows.length).zip rows).map fun x =>
    let w := if pWeighted p then fp32Elem (pWeight p x.1) else oneElem
    let s := rowScale ws x.2
    (rowElems ws x.2).map fun e => addend e s w

/-- The accumulators of a lookup, and how many addends were taken as infinite (R266, R267). -/
def pooled (ws : List Word) (p : Pkt) (rows : List (List Byte)) : List Acc × Nat :=
  let op := if pPool p = 3 then opMax else opSum
  (addends ws p rows).foldl (fun (t : List Acc × Nat) as =>
    ((t.1.zip as).map fun y => y.1.add op 64 y.2.1, t.2 + (as.filter (·.2)).length)) (List.replicate (tdDim ws) {}, 0)

/-- EMB_RESULT (R268). -/
def Dev.embResult (d : Dev) (x : Lookup) (bs : List Byte) (empty : Bool) (t : Tally) : Dev :=
  let die := lpDie x.lp
  let p := x.p
  let flags := b2n empty * 8 + b2n (t.nan + t.nanBlk != 0) * 4 + b2n (t.inf != 0) * 2 + b2n (t.sat != 0)
  let q : Pkt := { op := 0x51, vc := 1, did := p.sid, sid := d.selfDid die, tenant := p.tenant, tclass := p.tclass,
                   flow := p.flow, tag := p.tag, payload := bs,
                   opf := pTable p * 2 ^ 52 + flags * 2 ^ 48 + pNidx p * 2 ^ 32 + p.opf % 2 ^ 32 }
  let tag : OcuTag := { tenant := some p.tenant, lp := some x.lp }
  let d := d.originate die q none (p.did == linkLocal) false x.resv
  let d := (d.bump64 .embLookupLo .embLookupHi die 1).bump64 .embRowsLo .embRowsHi die (pNidx p)
  (((d.ocu die 23 tag 1).ocu die 24 tag (pNidx p)).page p.tenant tLookups 1).page p.tenant tRows (pNidx p)

/-- A lookup leaves its slot. -/
def Dev.endLookup (d : Dev) (k : Nat) : Dev := { d with emb := { d.emb with lookups := SMap.erase d.emb.lookups k } }

/-- Samples of a lookup that ends without a result are dropped (15 R400). -/
def Dev.lookupUnsampled (d : Dev) (p : Pkt) : Dev :=
  d.sampleDrop fun x => x.table && x.id == pTable p && x.seq == lookupSeq p

/-- The arithmetic of a lookup (R267). -/
def lookupRound (p : Pkt) : RoundCfg :=
  let n := pNidx p
  let op := if n = 0 then opSum else match pPool p with
    | 1 => opAvg
    | 3 => opMax
    | _ => opSum
  { op := op, fmt := pOutFmt p, den := max 1 n, sr := pRnd p, nanMode := false, sat := true }

/-- The rows of a lookup go to the Sentinel too, if it is sampled (15 R400). -/
def Dev.lookupSampled (d : Dev) (ws : List Word) (p : Pkt) (rows : List (List Byte)) : Dev :=
  ((addends ws p rows).zip rows).foldl (fun d x => d.sampleIn true (pTable p) (lookupSeq p) 0 (x.1.map (·.1)) x.2.length) d

/-- LOOKUP_COMPLETE: the rows are gathered and pooled, and the result or a NAK leaves (checks 8 to 11). `bad`: what the
tile does wrong meanwhile. -/
def lookupComplete (s : State) (die i : Nat) (bad : SlotFault) : State :=
  let k := die * 65536 + i
  match SMap.find? s.dev.emb.lookups k with
  | none => s
  | some x =>
    let p := x.p
    if s.dev.frozen die then s
    else match gather s die x.desc p with
    | (s', rows) =>
      if rows.any (fun r => r == .inl cWait) then s else
      let s := s'.on fun d => (d.endLookup k).corrected x.ct bad
      let nak := fun (s : State) (n : EmbNak) => s.on fun d => (d.lookupUnsampled p).embNak x.lp p n die x.resv
      match gatherFail rows with
      | some (true, pos) => nak s { code := nFault, sub := ePage, pos := pos }
      | some (false, pos) => nak s { code := nUncorr, sub := eMemory, pos := pos }
      | none =>
        if bad.unc then nak (s.on fun d => d.poison x.ct x.slot 0) { code := nUncorr, sub := eMemory }
        else
          let bytes := rows.filterMap fun r => match r with
            | .inr b => some b
            | .inl _ => none
          let (accs, ovf) := pooled x.desc p bytes
          let n := pNidx p
          let cfg := lookupRound p
          let (bs, t) := roundChunk cfg accs fun e => srDraw (tdSeed x.desc) (lookupSeq p) e
          let how : SampleHow := ⟨if pPool p = 3 then opMax else opSum, 64, tdDim x.desc, cfg, tdSeed x.desc, lookupSeq p, 0⟩
          s.on fun d =>
            let d := (d.bumpN .embAddendOvf die ovf).addsCount x.ct (n * tdDim x.desc)
            let d := (d.lookupSampled x.desc p bytes).tallyCount x.ct accs.length t
            let d := d.sampleRounded true (pTable p) (lookupSeq p) 0 how (tileOut bad bs)
            d.embResult x (tileOut bad bs) (n == 0 && (pPool p == 1 || pPool p == 3)) t

/-- LOOKUP_COMPLETE. -/
def execLookupComplete (die : Fin 8) (i : Nat) (bad : SlotFault) (s : State) : Host.Outcome State Fault Refusal :=
  .next (lookupComplete s die i bad)

/-- Lookups on a tile that is reset are refused, and their slots are lost (R283). -/
def lookupsTileLost (s : State) (ct : Nat) : State :=
  (s.dev.emb.lookups.filter fun e => e.2.ct == ct).foldl (fun s e =>
    s.on fun d => ((d.endLookup e.1).lookupUnsampled e.2.p).embNak e.2.lp e.2.p { code := nRetry, sub := eTile } (e.1 / 65536)
      e.2.resv) s

/-! Updates (R271 to R274). -/

def pKind (p : Pkt) : Nat := bits p.opf 51 50
def pGradFmt (p : Pkt) : Nat := bits p.opf 49 48
def pBatch (p : Pkt) : Nat := bits p.opf 47 32
def pPairs (p : Pkt) : Nat := bits p.opf 31 16

/-- A pair of an ADD: row, first element and gradients. -/
structure Pair where
  row : Nat
  first : Nat
  grads : List Elem

/-- The pairs of a payload, and the bytes left; none where a count is 0 or the bytes end. -/
def parsePairs (f : Nat) : Nat → List Byte → Option (List Pair × List Byte)
  | 0, bs => some ([], bs)
  | k + 1, bs =>
    let n := leAt bs 6 2
    let size := (n * (elemBits f / 8) + 3) / 4 * 4
    if bs.length < 8 + size ∨ n = 0 then none
    else match parsePairs f k (bs.drop (8 + size)) with
      | some (ps, rest) => some (⟨leAt bs 0 4, leAt bs 4 2, decodeElems f n (bs.drop 8)⟩ :: ps, rest)
      | none => none

/-- The pairs of an ADD whose form is good. -/
def addPairs (p : Pkt) : Option (List Pair) :=
  match parsePairs (pGradFmt p) (pPairs p) p.payload with
  | some (ps, []) => some ps
  | _ => none

/-- Check 1 of Table 10-6. -/
def updForm (p : Pkt) : Bool :=
  pKind p != 3 && pGradFmt p != 3 &&
    (if pKind p = 0 then pPairs p != 0 && (addPairs p).isSome else p.payload.length == 8)

/-- Checks 1 to 6, on a table's home die. -/
def Dev.updCheck (d : Dev) (p : Pkt) : Option EmbNak :=
  let t := pTable p
  let ws := d.embDesc t
  let home := tdHome ws
  let badPair := fun (x : Pair) => decide (tdDim ws < x.first + x.grads.length) || x.grads.any (· == Elem.nan)
  if !d.isReady then some { code := nNotReady, hint := d.nrHint home }
  else if !updForm p then some { code := nMalformed, sub := eFormat }
  else if !d.embPerm home t p.tenant then some { code := nPerm }
  else if pKind p = 0 ∧ ((addPairs p).getD []).any badPair = true then
    some { code := nMalformed, sub := eFormat, pos := ((addPairs p).getD []).findIdx badPair }
  else if pKind p = 1 ∧ (match fp32Elem (leAt p.payload 0 4) with
      | .fin _ => false
      | _ => true) = true then some { code := nMalformed, sub := eFormat }
  else if d.embRefused t p.tenant then some { code := nPreempted }
  else if d.batchState t = bRestoring then some { code := nNotReady, sub := eRestoring, hint := d.nrHint home }
  else if d.batchState t = bCommitting then some { code := nNotReady, sub := eCommitting, hint := d.nrHint home }
  else if d.batchState t = bOpen ∧ d.openBatch t ≠ pBatch p then some { code := nMalformed, sub := eBatch }
  else none

/-- EMB_ACK (R277). -/
def Dev.embAck (d : Dev) (lp : Nat) (p : Pkt) (sat : Bool) (n : Nat) (resv : Resv) : Dev :=
  let die := lpDie lp
  d.originate die { op := 0x53, vc := 1, did := p.sid, sid := d.selfDid die, tenant := p.tenant, tclass := p.tclass,
                    flow := p.flow, tag := p.tag,
                    opf := p.opf / 2 ^ 50 % 2 ^ 14 * 2 ^ 50 + b2n sat * 2 ^ 49 + pBatch p * 2 ^ 32 + n % 2 ^ 32 }
    none (p.did == linkLocal) false resv

/-- The hash of a row's first entry (R273). -/
def stageHash (ws : List Word) (r : Nat) : Nat := crc32cSeed 0x5EFE0010 (toLE 4 r) % 2 ^ tdStageLog ws

/-- An entry that an ADD takes: its index, row and pairs, with the pairs counted before. -/
structure Taken where
  entry : Nat
  row : Nat
  n : Nat
  /-- The entry was used before this ADD. -/
  used : Bool

/-- What a probe finds. -/
inductive Probe where
  | found (x : Taken)
  | full
  | fail (code : Nat)

/-- The entry for a row among the 16 of its sequence, with those that this ADD has taken. -/
def probe (s : State) (ws : List Word) (taken : List Taken) (r : Nat) : Nat → Nat → State × Probe
  | _, 0 => (s, .full)
  | j, fuel + 1 =>
    let e := (stageHash ws r + j) % 2 ^ tdStageLog ws
    match taken.find? fun x => x.entry == e with
    | some x => if x.row = r then (s, .found x) else probe s ws taken r (j + 1) fuel
    | none =>
      match poolParts s (tdHome ws) (tdTenant ws) true (pageParts (stageAt ws e) (stageSize ws)) with
      | (s, .inl c) => (s, .fail c)
      | (s, .inr _) =>
        match poolRead s (tdHome ws) (tdTenant ws) (stageAt ws e) 8 1 with
        | (s, .inl c) => (s, .fail c)
        | (s, .inr h) =>
          if !bit (leAt h 0 4) 31 then (s, .found ⟨e, r, 0, false⟩)
          else if leAt h 4 4 = r then (s, .found ⟨e, r, leAt h 0 2, true⟩)
          else probe s ws taken r (j + 1) fuel

/-- Entries for every pair: those taken, and the first pair that finds none (check 9), and the first whose page or memory
fails (check 10). -/
structure Places where
  taken : List Taken := []
  refused : Option EmbNak := none
  failed : Option EmbNak := none
  /-- An access waits for its class. -/
  waits : Bool := false

/-- The refusal of a staging access that failed. -/
def stageNak (code pos : Nat) : EmbNak :=
  if code = cPage ∨ code = cAccess then { code := nFault, sub := ePage, pos := pos }
  else { code := nUncorr, sub := eMemory, pos := pos }

/-- One pair placed. -/
def placePair (ws : List Word) (a : State × Places) (x : Nat × Pair) : State × Places :=
  match probe a.1 ws a.2.taken x.2.row 0 16 with
  | (s, .fail c) => (s, if c = cWait then { a.2 with waits := true } else { a.2 with failed := a.2.failed.or (some (stageNak c x.1)) })
  | (s, .full) => (s, { a.2 with refused := a.2.refused.or (some { code := nBusy, sub := eStageFull, pos := x.1 }) })
  | (s, .found t) =>
    if 65535 < t.n + 1 then
      (s, { a.2 with refused := a.2.refused.or (some { code := nBusy, sub := eStageLimit, pos := x.1 }) })
    else
      (s, { a.2 with taken := { t with n := t.n + 1 } :: a.2.taken.filter fun y => y.entry != t.entry })

/-- A gradient in units of 2^upd_lsb: rounded to the nearest even integer, clamped; whether it was clamped (R274). -/
def gradUnits (lsb : Int) (g : Elem) : Int × Bool :=
  let lim : Int := (2 ^ 47 - 1 : Nat)
  match g with
  | .fin v =>
    let i := roundAt v 1 (152 + lsb).toNat none
    if lim < i then (lim, true) else if i < -lim then (-lim, true) else (i, false)
  | .inf neg => (if neg then -lim else lim, true)
  | .nan => (0, false)

/-- The staged values of an entry's bytes. -/
def stagedAt (bs : List Byte) (e : Nat) : Int := toSigned 64 (leAt bs (32 + 8 * e) 8)

/-- A pair added to the bytes of its entry; how many of its elements were clamped. -/
def stagePair (ws : List Word) (bs : List Byte) (x : Pair) : List Byte × Nat :=
  let us := x.grads.map (gradUnits (tdLsb ws))
  let clamps := (us.filter (·.2)).length
  let n := if bit (leAt bs 0 4) 31 then leAt bs 0 2 else 0
  let sat := bit (leAt bs 0 4) 30 || clamps != 0
  let vals := (upto (tdDim ws)).map fun e =>
    let old := if bit (leAt bs 0 4) 31 then stagedAt bs e else 0
    if e < x.first then old else old + (us.getD (e - x.first) (0, false)).1
  (toLE 4 (2 ^ 31 + b2n sat * 2 ^ 30 + (n + 1)) ++ toLE 4 x.row ++ List.replicate 24 0 ++
    vals.flatMap (fun v => toLE 8 (ofSigned 64 v)) ++
    List.replicate (stageSize ws - 32 - 8 * tdDim ws) 0, clamps)

/-- A pair staged in HBM. -/
def stageOne (ws : List Word) (taken : List Taken) (a : State × Nat) (x : Pair) : State × Nat :=
  match taken.find? fun t => t.row == x.row with
  | none => a
  | some t =>
    match poolRead a.1 (tdHome ws) (tdTenant ws) (stageAt ws t.entry) (stageSize ws) 1 with
    | (s, .inl _) => (s, a.2)
    | (s, .inr bs) =>
      let (out, n) := stagePair ws bs x
      ((poolWrite s (tdHome ws) (tdTenant ws) (stageAt ws t.entry) out 1).1, a.2 + n)

/-- Every entry that an ADD takes is read whole, each once, in the order of the pairs: the code and the pair of the first
that fails. -/
def readable (s : State) (ws : List Word) (taken : List Taken) (ps : List Pair) : State × Option (Nat × Nat) :=
  ((upto ps.length).zip ps).foldl (fun (a : State × Option (Nat × Nat)) x =>
    match taken.find? fun t => t.row == x.2.row with
    | none => a
    | some t =>
      if (ps.take x.1).any fun y => y.row == x.2.row then a
      else match poolRead a.1 (tdHome ws) (tdTenant ws) (stageAt ws t.entry) (stageSize ws) 1 with
        | (s, .inl c) => (s, a.2.or (some (c, x.1)))
        | (s, .inr _) => (s, a.2)) (s, none)

/-- EMB_ADD: checked, then staged whole or refused; it waits while P1 is paused where it stages. -/
def embAdd (s : State) (lp : Nat) (p : Pkt) : State :=
  let s0 := s
  let t := pTable p
  let (d, resv) := s.dev.take lp p
  let ws := d.embDesc t
  let home := tdHome ws
  let s := { s with dev := d.embParity home t }
  let nak := fun (s : State) (n : EmbNak) => s.on fun d => d.embNak lp p n home resv
  let ps := (addPairs p).getD []
  match s.dev.updCheck p with
  | some n => nak s n
  | none =>
    match ps.findIdx? fun x => decide (tdRows ws ≤ x.row) with
    | some i => nak s { code := nMalformed, sub := eIndex, pos := i }
    | none =>
      let sub := s.dev.embAdmit home p.tenant (pPairs p) true
      if sub ≠ 0 then nak s { code := nBusy, sub := sub, hint := s.dev.busyHint home }
      else
        match ((upto ps.length).zip ps).foldl (placePair ws) (s, {}) with
        | (s, pl) =>
          if pl.waits then s0
          else match pl.refused, pl.failed with
          | some n, _ => nak s n
          | none, some n => nak s n
          | none, none =>
            match readable s ws pl.taken ps with
            | (s, some (c, i)) => if c = cWait then s0 else nak s (stageNak c i)
            | (s, none) =>
              match ps.foldl (stageOne ws pl.taken) (s, 0) with
              | (s, clamps) => s.on fun d =>
                let d := (d.bump64 .embPairsLo .embPairsHi home ps.length).bumpN .embUpdSat home clamps
                let d := (d.setBatch t bOpen).setEmbState t 23 8 (pBatch p)
                d.embAck lp p (clamps != 0) ps.length resv

/-- EMB_ADD. -/
def execEmbAdd (lp : Fin 2048) (p : Pkt) (s : State) : Host.Outcome State Fault Refusal :=
  .next (vc0Order lp p (fun s => embAdd s lp p) s)

/-! Commits (R275, R276). -/

/-- EMB_UPDATE_COMMIT: accepted while the batch is open; while IDLE it is answered at once. -/
def embCommit (s : State) (lp : Nat) (p : Pkt) : State :=
  let t := pTable p
  let (d, resv) := s.dev.take lp p
  let ws := d.embDesc t
  let home := tdHome ws
  let s := { s with dev := d.embParity home t }
  match s.dev.updCheck p with
  | some n => s.on fun d => d.embNak lp p n home resv
  | none =>
    if s.dev.batchState t = bIdle then s.on fun d => d.embAck lp p false 0 resv
    else if stageMissing s ws then
      s.on fun d => d.embNak lp p { code := nFault, sub := ePage, pos := (usedEntries s ws).length } home resv
    else s.on fun d =>
      let c : EmbCommit := ⟨lp, p, resv, none, leAt p.payload 0 4, bit (leAt p.payload 4 1) 0⟩
      { d.setBatch t bCommitting with emb := { d.emb with commits := SMap.insert t c d.emb.commits } }

/-- EMB_UPDATE_COMMIT. -/
def execEmbUpdateCommit (lp : Fin 2048) (p : Pkt) (s : State) : Host.Outcome State Fault Refusal :=
  .next (vc0Order lp p (fun s => embCommit s lp p) s)

/-- EMB_DISCARD: every entry of the batch is cleared; it waits while P1 is paused there. -/
def embDiscard (s : State) (lp : Nat) (p : Pkt) : State :=
  let s0 := s
  let t := pTable p
  let (d, resv) := s.dev.take lp p
  let ws := d.embDesc t
  let home := tdHome ws
  let s := { s with dev := d.embParity home t }
  match s.dev.updCheck p with
  | some n => s.on fun d => d.embNak lp p n home resv
  | none =>
    if s.dev.batchState t = bIdle then s.on fun d => d.embAck lp p false 0 resv
    else if stageMissing s ws then s.on fun d => d.embNak lp p { code := nFault, sub := ePage } home resv
    else if stagePaused s ws then s0
    else (clearStage s ws).on fun d => (d.setBatch t bIdle).embAck lp p false 0 resv

/-- EMB_DISCARD. -/
def execEmbDiscard (lp : Fin 2048) (p : Pkt) (s : State) : Host.Outcome State Fault Refusal :=
  .next (vc0Order lp p (fun s => embDiscard s lp p) s)

/-- What a commit writes for an element, with its saturations; none keeps its bits. The value is num / den in units of
2^-152. -/
def commitElem (f : Nat) (num : Int) (den : Nat) (draw : Option Nat) : Nat × Nat :=
  match floatFmt f with
  | some l =>
    let (x, t) := encodeFloat f l false (.val num den) draw
    if t.inf ≠ 0 then (x - 1, 1) else (x, t.sat)
  | none =>
    let i := roundAt num den 152 draw
    if 127 < i then (127, 1) else if i < -127 then (ofSigned 8 (-127), 1) else (ofSigned 8 i, 0)

/-- v = x × s + c × t × 2^upd_lsb in units of 2^-304. -/
def commitValue (x s c : Int) (lsb t : Int) : Int := x * s + c * t * (2 ^ (152 + lsb).toNat : Nat)

/-- An element of a non-MX row after a commit; a free value where its scale is 0 or not finite (assumption 1). -/
def commitScalar (d : Dev) (ws : List Word) (s : Elem) (c lsb t : Int) (old : Nat) (draw : Option Nat) : Dev × Nat × Nat :=
  let f := tdElem ws
  let w := elemBits f
  match decodeScalar f old, s with
  | .nan, _ => (d, old, 0)
  | .inf neg, _ =>
    match floatFmt f with
    | some l => (d, b2n neg * 2 ^ (w - 1) + (2 ^ l.e - 1) * 2 ^ l.m - 1, 1)
    | none => (d, old, 0)
  | .fin x, .fin sc =>
    if tdScaled ws then
      if sc = 0 then
        let (v, d) := d.free
        (d, v % 2 ^ w, 0)
      else
        let v := commitValue x sc c lsb t
        (d, commitElem f (if sc < 0 then -v else v) sc.natAbs draw)
    else (d, commitElem f (commitValue x (2 ^ 152 : Nat) c lsb t) (2 ^ 152) draw)
  | .fin _, _ =>
    let (v, d) := d.free
    (d, v % 2 ^ w, 0)

/-- The elements of a non-MX row, with the saturations. -/
def commitRow (d : Dev) (ws : List Word) (cm : EmbCommit) (c : Int) (row : List Byte) (r : Nat) (ts : List Int) : Dev × List Byte × Nat :=
  let f := tdElem ws
  let n := elemBits f / 8
  let off := if tdScaled ws then 32 else 0
  let s := rowScale ws row
  let out := (upto (tdDim ws)).foldl (fun (a : Dev × List Byte × Nat) e =>
    let old := leAt row (off + n * e) n
    let t := ts.getD e 0
    if t = 0 then (a.1, a.2.1 ++ toLE n old, a.2.2)
    else
      let draw := if cm.sr then some (srDraw (tdSeed ws) (pBatch cm.p) ((r * tdDim ws + e) % 2 ^ 32)) else none
      let (d, x, sat) := commitScalar a.1 ws s c (tdLsb ws) t old draw
      (d, a.2.1 ++ toLE n x, a.2.2 + sat)) (d, [], 0)
  (out.1, row.take off ++ out.2.1 ++ row.drop (off + n * tdDim ws), out.2.2)

/-- The blocks of an MXFP8 row: those with a changed element are encoded again (R222). -/
def commitBlocks (ws : List Word) (c : Int) (row : List Byte) (ts : List Int) : List Byte × Nat :=
  let f := tdElem ws
  let out := (upto (tdDim ws / 32)).foldl (fun (a : List Byte × Nat) b =>
    let old := slice row (33 * b) 33
    let tb := (ts.drop (32 * b)).take 32
    if tb.all (· == 0) then (a.1 ++ old, a.2)
    else
      let rs := ((decodeBlock f old).zip tb).map fun (x, t) => match x with
        | .fin v => Res.val (commitValue v (2 ^ 152 : Nat) c (tdLsb ws) t) (2 ^ 152)
        | .inf neg => .inf neg
        | .nan => .nan
      let (bs, tl) := encodeBlock f rs
      (a.1 ++ bs, a.2 + tl.sat)) ([], 0)
  (out.1 ++ row.drop (33 * (tdDim ws / 32)), out.2)

/-! Snapshot granules (R279). -/

/-- The pool address of a granule's bit, and the bit. -/
def bitmapAt (ws : List Word) (g : Nat) : Nat := tdSnap ws + tdGranules ws * 65536 + g / 8

/-- Bytes of granule g of a table. -/
def granLen (ws : List Word) (g : Nat) : Nat := min 65536 (tdBytes ws - 65536 * g)

/-- A granule copied to the snapshot if its bit is clear: 0, or the code of a failure. -/
def copyGranule (s : State) (ws : List Word) (g : Nat) : State × Nat :=
  let home := tdHome ws
  let tn := tdTenant ws
  match poolRead s home tn (bitmapAt ws g) 1 3 with
  | (s, .inl c) => (s, c)
  | (s, .inr b) =>
    let old := leAt b 0 1
    if bit old (g % 8) then (s, 0)
    else match poolRead s home tn (tdBase ws + 65536 * g) (granLen ws g) 3 with
      | (s, .inl c) => (s, c)
      | (s, .inr bs) =>
        match poolWrite s home tn (tdSnap ws + 65536 * g) bs 3 with
        | (s, 0) =>
          match poolWrite s home tn (bitmapAt ws g) (toLE 1 (old + 2 ^ (g % 8))) 3 with
          | (s, 0) => (s.on fun d => d.bump .embSnapGran home, 0)
          | (s, c) => (s, c)
        | (s, c) => (s, c)

/-- The granules that hold a row are copied before a commit writes it. -/
def copyBefore (s : State) (t : Nat) (ws : List Word) (r : Nat) : State × Nat :=
  if s.dev.snapState t ≠ snCopying then (s, 0)
  else
    let a := r * tdRowBytes ws
    let gs := dedup [a / 65536, (a + tdRowBytes ws - 1) / 65536]
    gs.foldl (fun (x : State × Nat) g => if x.2 = 0 then copyGranule x.1 ws g else x) (s, 0)

/-- What a commit has done so far. -/
structure Applied where
  rows : Nat := 0
  left : Nat := 0
  sat : Bool := false
  /-- The first failure: whether it was a page. -/
  fail : Option Bool := none
  /-- An access waits for its class. -/
  waits : Bool := false

/-- One entry of a commit: its row is written and the entry cleared, or it is left. -/
def applyEntry (t : Nat) (ws : List Word) (cm : EmbCommit) (a : State × Applied) (e : Nat) : State × Applied :=
  let home := tdHome ws
  let tn := tdTenant ws
  let leave := fun (s : State) (c : Nat) =>
    (s, { a.2 with left := a.2.left + 1, fail := a.2.fail.or (some (c == cPage || c == cAccess)), waits := a.2.waits || c == cWait })
  match poolRead a.1 home tn (stageAt ws e) (stageSize ws) 1 with
  | (s, .inl c) => leave s c
  | (s, .inr bs) =>
    let r := leAt bs 4 4
    let ts := (upto (tdDim ws)).map (stagedAt bs)
    match rowRead s home ws r 1 with
    | (s, .inl c) => leave s c
    | (s, .inr row) =>
      match copyBefore s t ws r with
      | (s, 0) =>
        let c : Int := match fp32Elem cm.scale with
          | .fin v => v
          | _ => 0
        let (d, out, sat) := if tdFmt ws = 5 ∨ tdFmt ws = 6 then
            let x := commitBlocks ws c row ts
            (s.dev, x.1, x.2)
          else commitRow s.dev ws cm c row r ts
        match poolWrite { s with dev := d } home tn (tdBase ws + r * tdRowBytes ws) out 1 with
        | (s, 0) =>
          let s := clearEntry (s.on fun d => d.bumpN .embCommitSat home sat) ws e
          (s, { a.2 with rows := a.2.rows + 1, sat := a.2.sat || sat != 0 || bit (leAt bs 0 4) 30 })
        | (s, c) => leave s c
      | (s, c) => leave s c

/-- The answer of a commit: to its packet or to its ring (R276, R277). -/
def commitAnswer (s : State) (t home : Nat) (cm : EmbCommit) (x : Applied) : State :=
  let s := s.on fun d => { d with emb := { d.emb with commits := SMap.erase d.emb.commits t } }
  match cm.ring with
  | none =>
    s.on fun d => match x.fail with
      | none => d.embAck cm.lp cm.p x.sat x.rows cm.resv
      | some page => d.embNak cm.lp cm.p { code := if page then nFault else nUncorr, sub := if page then ePage else eMemory, pos := x.left }
          home cm.resv
  | some r =>
    match (s.dev.ring r).run with
    | none => s
    | some run =>
      if s.dev.rState r = rCancelling then cancelEnd s r run.idx run.desc 0 (s.dev.ring r).cancelAll false
      else match x.fail with
        | none => finish s r run.idx run.desc sOk 0 0 x.rows
        | some true => unitFault s r cPage
        | some false => unitFail s r cMemory

/-- A snapshot that waited for the end of a commit begins to copy. -/
def Dev.snapBegins (d : Dev) (t : Nat) : Dev :=
  match SMap.find? d.emb.snaps t with
  | some x => if x.waits then
      { d.setSnap t snCopying with emb := { d.emb with snaps := SMap.insert t { x with waits := false } d.emb.snaps } }
    else d
  | none => d

/-- COMMIT_DONE: every used entry has been visited; it waits while the class of an access is paused. -/
def commitDone (s : State) (t : Nat) : State :=
  match SMap.find? s.dev.emb.commits t with
  | none => s
  | some cm =>
    let ws := s.dev.embDesc t
    let home := tdHome ws
    if s.dev.frozen home || cm.ring.any fun r => !((s.dev.ring r).run.any fun x => x.live) then s
    else if s.dev.batchState t ≠ bCommitting then commitAnswer s t home cm {}
    else
      match (usedEntries s ws).foldl (applyEntry t ws cm) (s, {}) with
      | (s', x) =>
        if x.waits then s else
        let s := s'.on fun d => if x.left = 0 then (d.setBatch t bIdle).bump .embCommits home else d.setBatch t bOpen
        commitAnswer (s.on fun d => d.snapBegins t) t home cm x

/-- COMMIT_DONE. -/
def execCommitDone (table : Fin 4096) (s : State) : Host.Outcome State Fault Refusal :=
  .next (serve (commitDone s table) (((SMap.find? s.dev.emb.commits table).bind (·.ring)).getD 0))

/-- EMB_COMMIT: a ring command that acts as a COMMIT packet (R277). What a packet would be refused for ends it INVALID, a
reclaim PREEMPTED, a missing staging page FAULTED. -/
def ringCommit (s : State) (r idx : Nat) (desc : List Byte) : State :=
  let t := bits (dw desc 1) 11 0
  let ws := s.dev.embDesc t
  let batch := bits (dw desc 1) 31 16
  let p : Pkt := { op := 0x52, tenant := s.dev.rTenant r, opf := t * 2 ^ 52 + 2 ^ 50 + batch * 2 ^ 32,
                   payload := toLE 4 (dw desc 2) ++ toLE 4 (bits (dw desc 3) 0 0) }
  match s.dev.updCheck p with
  | some n =>
    if n.code = nPreempted then finish s r idx desc sPreempted 0 0 0
    else invalid s r idx desc (if n.code = nMalformed ∧ n.sub = eFormat then cField else cState)
  | none =>
    if s.dev.batchState t = bIdle then finish s r idx desc sOk 0 0 0
    else if stageMissing s ws then ringFault s r idx desc cPage 0 0
    else (startRun s r idx desc 0).on fun d =>
      let c : EmbCommit := ⟨0, p, {}, some r, dw desc 2, bit (dw desc 3) 0⟩
      { d.setBatch t bCommitting with emb := { d.emb with commits := SMap.insert t c d.emb.commits } }

/-- EMB_COMMIT. -/
def execEmbCommit (ring : Fin 16384) (host : HostData) (s : State) : Host.Outcome State Fault Refusal :=
  .next (startDesc s ring host (· == 0x12) fun s idx desc => checked s ring idx desc fun s => ringCommit s ring idx desc)

/-! Snapshots, mirrors and restores (R279 to R281). -/

/-- Bytes of a pool range cleared at P3, in pieces that lie in one page: 0, or the code of a failure. -/
def poolClear (s : State) (die tenant a : Nat) : Nat → Nat → State × Nat
  | _, 0 => (s, 0)
  | 0, _ => (s, 0)
  | fuel + 1, n =>
    let k := min n (2 ^ 21 - a % 2 ^ 21)
    match poolWrite s die tenant a (List.replicate k 0) 3 with
    | (s, 0) => poolClear s die tenant (a + k) fuel (n - k)
    | (s, c) => (s, c)

/-- SNAPSHOT: accepted or INVALID; the copied bitmap is cleared, and copying begins or waits for a commit's end. -/
def startSnapshot (s : State) (r idx : Nat) (desc : List Byte) : State :=
  let t := bits (dw desc 1) 11 0
  let ws := s.dev.embDesc t
  let st := s.dev.snapState t
  let b := s.dev.batchState t
  if !(tdValid ws && tdSnapEn ws) || st == snCopying || st == snMirroring || b == bRestoring ||
      (SMap.find? s.dev.emb.snaps t).isSome then invalid s r idx desc cState
  else
    let n := (tdGranules ws + 7) / 8
    match poolClear s (tdHome ws) (tdTenant ws) (bitmapAt ws 0) (n / 2 ^ 21 + 2) n with
    | (s, 0) => (startRun s r idx desc 0).on fun d =>
      let waits := b == bCommitting
      let d := if waits then d else d.setSnap t snCopying
      { d with emb := { d.emb with snaps := SMap.insert t ⟨some r, waits, 0⟩ d.emb.snaps } }
    | (s', c) =>
      if c = cWait then s else if c = cMemory then finish s' r idx desc sUncorr cMemory 0 0 else ringFault s' r idx desc c 0 0

/-- SNAPSHOT. -/
def execSnapshot (ring : Fin 16384) (host : HostData) (s : State) : Host.Outcome State Fault Refusal :=
  .next (startDesc s ring host (· == 0x10) fun s idx desc => checked s ring idx desc fun s => startSnapshot s ring idx desc)

/-- A ring runs a descriptor: ACTIVE, SUSPENDING or CANCELLING. -/
def Dev.runs (d : Dev) (r : Nat) : Bool := d.rState r == rActive || d.rState r == rSuspending || d.rState r == rCancelling

/-- The snapshot of a table is complete: it goes on to the mirror, or is VALID. -/
def Dev.snapValid (d : Dev) (t : Nat) (ws : List Word) : Dev :=
  if tdMirrorEn ws then
    { d.setSnap t snMirroring with emb := { d.emb with snaps := SMap.insert t ⟨none, false, 0⟩ d.emb.snaps } }
  else { d.setSnap t snValid with emb := { d.emb with snaps := SMap.erase d.emb.snaps t } }

/-- The snapshot of a table ends early: its ring's descriptor does not go on. -/
def Dev.snapEnds (d : Dev) (t : Nat) : Dev :=
  { d.setSnap t snNone with emb := { d.emb with snaps := SMap.erase d.emb.snaps t } }

/-- SNAPSHOT_GRANULE: the next granule in the background, once the ring's unit is in flight; the last one completes the
command. It waits while P3 is paused. -/
def snapGranule (s : State) (t : Nat) : State :=
  match SMap.find? s.dev.emb.snaps t with
  | none => s
  | some x =>
    match x.ring with
    | none => s
    | some r =>
      match (s.dev.ring r).run with
      | none => s
      | some run =>
        if x.waits || !run.live || !s.dev.runs r || s.dev.frozen (r / 2048) then s
        else
          let ws := s.dev.embDesc t
          match copyGranule s ws run.prog with
          | (s, 0) =>
            let n := run.prog + 1
            let s := s.on fun d =>
              (d.setRing r { d.ring r with run := some { run with prog := n, live := false } }).unitCount r
            if s.dev.rState r = rCancelling then
              cancelEnd s r run.idx run.desc n (s.dev.ring r).cancelAll false
            else if tdGranules ws ≤ n then finish (s.on fun d => d.snapValid t ws) r run.idx run.desc sOk 0 n 0
            else if s.dev.rState r = rSuspending then ringSuspend s r run.idx run.desc n 0
            else s.on fun d => d.beginUnit r
          | (s', c) =>
            if c = cWait then s
            else unitFail (if c = cMemory then s'.on fun d => d.snapEnds t else s') r c

/-- The ring whose unit a table's granule is. -/
def Dev.snapRing (d : Dev) (t : Nat) : Nat := ((SMap.find? d.emb.snaps t).bind (·.ring)).getD 0

/-- SNAPSHOT_GRANULE. -/
def execSnapshotGranule (table : Fin 4096) (s : State) : Host.Outcome State Fault Refusal :=
  .next (serve (snapGranule s table) (s.dev.snapRing table))

/-- The puts of a granule, 4,096 bytes each. -/
def Dev.mirrorPuts (d : Dev) (ws : List Word) (g : Nat) (bs : List Byte) : Dev :=
  let home := tdHome ws
  (upto ((bs.length + 4095) / 4096)).foldl (fun d i =>
    let (flow, d) := d.freeFlow home
    d.originate home { op := 0x11, vc := 2, tclass := tdMirrorClass ws, did := tdMirrorDid ws, sid := d.selfDid home,
                       tenant := tdTenant ws, flow := flow, opf := (tdMirrorAddr ws + 65536 * g + 4096 * i) % 2 ^ 64,
                       payload := (bs.drop (4096 * i)).take 4096 } none false false {}) d

/-- A put of a table's mirror waits for the Keep. -/
def Dev.mirrorWaits (d : Dev) (ws : List Word) : Bool :=
  d.keep.unsent.any fun u => u.die == tdHome ws && u.pkt.op == 0x11 && u.pkt.did == tdMirrorDid ws && u.pkt.tenant == tdTenant ws &&
    decide ((u.pkt.opf + 2 ^ 64 - tdMirrorAddr ws) % 2 ^ 64 < 65536 * tdGranules ws)

/-- MIRRORED: every granule's puts have been sent (R280), which is when the Keep has admitted them (assumption 158). -/
def Dev.mirrored (d : Dev) (t : Nat) : Dev :=
  let ws := d.embDesc t
  match SMap.find? d.emb.snaps t with
  | some x =>
    if x.ring.isNone && d.snapState t == snMirroring && decide (tdGranules ws ≤ x.next) && !d.mirrorWaits ws then
      { d.setSnap t snMirrored with emb := { d.emb with snaps := SMap.erase d.emb.snaps t } }
    else d
  | none => d

/-- MIRROR_GRANULE: the next granule of the snapshot copy is sent; the table is MIRRORED when every put has been sent. A
granule that cannot be read ends the mirror with the snapshot VALID. -/
def mirrorGranule (s : State) (t : Nat) : State :=
  match SMap.find? s.dev.emb.snaps t with
  | none => s
  | some x =>
    let ws := s.dev.embDesc t
    if x.ring.isSome || s.dev.snapState t != snMirroring || s.dev.frozen (tdHome ws) then s
    else if tdGranules ws ≤ x.next then s.on fun d => d.mirrored t
    else match poolRead s (tdHome ws) (tdTenant ws) (tdSnap ws + 65536 * x.next) (granLen ws x.next) 3 with
      | (s', .inl c) =>
        if c = cWait then s else s'.on fun d => { d.setSnap t snValid with emb := { d.emb with snaps := SMap.erase d.emb.snaps t } }
      | (s, .inr bs) => s.on fun d =>
        let d := (d.mirrorPuts ws x.next bs).bump .embMirrorGran (tdHome ws)
        ({ d with emb := { d.emb with snaps := SMap.insert t { x with next := x.next + 1 } d.emb.snaps } }).mirrored t

/-- MIRROR_GRANULE. -/
def execMirrorGranule (table : Fin 4096) (s : State) : Host.Outcome State Fault Refusal := .next (mirrorGranule s table)

/-- RESTORE: accepted or INVALID. -/
def startRestore (s : State) (r idx : Nat) (desc : List Byte) : State :=
  let t := bits (dw desc 1) 11 0
  let st := s.dev.snapState t
  if !tdValid (s.dev.embDesc t) || s.dev.batchState t != bIdle || !(st == snValid || st == snMirroring || st == snMirrored) then
    invalid s r idx desc cState
  else startRun (s.on fun d => d.setBatch t bRestoring) r idx desc 0

/-- RESTORE. -/
def execRestore (ring : Fin 16384) (host : HostData) (s : State) : Host.Outcome State Fault Refusal :=
  .next (startDesc s ring host (· == 0x11) fun s idx desc => checked s ring idx desc fun s => startRestore s ring idx desc)

/-- A SNAPSHOT or RESTORE that a landing has abandoned ends INVALID, code STATE (R262; DEDUCED, assumption 163). -/
def unitDropped (s : State) (r : Nat) (x : Run) : State :=
  if s.dev.rState r = rCancelling then cancelEnd s r x.idx x.desc x.prog (s.dev.ring r).cancelAll false
  else finish s r x.idx x.desc sInvalid cState x.prog 0

/-- A unit of a SNAPSHOT whose copying a reclaim has ended (R282): the ring rests at its whole granules. -/
def unitSnapshot (s : State) (r : Nat) (x : Run) : State :=
  if (SMap.find? s.dev.emb.snaps (bits (dw x.desc 1) 11 0)).any fun y => y.ring == some r then s
  else if s.dev.rState r = rCancelling then cancelEnd s r x.idx x.desc x.prog (s.dev.ring r).cancelAll false
  else if s.dev.rState r = rSuspending then ringSuspend s r x.idx x.desc x.prog 0
  else s

/-- The table of a RESTORE that ends is IDLE. -/
def restoreIdle (s : State) (x : Run) : State :=
  let t := bits (dw x.desc 1) 11 0
  s.on fun d => if d.batchState t = bRestoring then d.setBatch t bIdle else d

/-- A unit of a RESTORE: 4 KiB of the snapshot copy written back. A reclaim that has set the table IDLE (R282) lets the unit
end; the ring then suspends at it. -/
def unitRestore (s : State) (r : Nat) (x : Run) : State :=
  let t := bits (dw x.desc 1) 11 0
  let ws := s.dev.embDesc t
  let n := min 4096 (tdBytes ws - x.prog)
  let idle := fun (s : State) => restoreIdle s x
  let home := tdHome ws
  match poolRead s home (tdTenant ws) (tdSnap ws + x.prog) n 3 with
    | (s', .inl c) => if c = cWait then s else unitFail (if c = cMemory then idle s' else s') r c
    | (s', .inr bs) =>
      match poolWrite s' home (tdTenant ws) (tdBase ws + x.prog) bs 3 with
      | (s, 0) =>
        let s := s.on fun d => d.wroteBytes r n
        let p := x.prog + n
        let s := s.on fun d => (d.setRing r { d.ring r with run := some { x with prog := p, live := false } }).unitCount r
        if s.dev.rState r = rCancelling then cancelEnd s r x.idx x.desc p (s.dev.ring r).cancelAll false
        else if tdBytes ws ≤ p then finish (idle s) r x.idx x.desc sOk 0 p 0
        else if s.dev.rState r = rSuspending then ringSuspend s r x.idx x.desc p 0
        else s.on fun d => d.beginUnit r
      | (s', c) => if c = cWait then s else unitFail (if c = cMemory then idle s' else s') r c

/-- The ranges of HBM that a range of a space is: none in a host's memory, or where a page is missing. -/
def spaceHpas (s : State) (die tenant sp a n : Nat) : List (Nat × Nat) :=
  let ps := pageParts a n
  match sp with
  | 0 => ps
  | 1 => match (poolParts s die tenant false ps).2 with
    | .inr qs => qs
    | .inl _ => []
  | _ => []

/-- The ranges of HBM that the unit of a transfer reads or writes. -/
def unitHpas (s : State) (r : Nat) (x : Run) : List (Nat × Nat) :=
  let n := unitLen x.desc x.prog
  let at_ := spaceHpas s (r / 2048) (s.dev.rTenant r)
  let src := at_ (dSrcSp x.desc) (dSrc x.desc + x.prog) n
  let dst := at_ (dDstSp x.desc) (dDst x.desc + x.prog) n
  match dKind x.desc with
  | 0x01 => src ++ dst
  | 0x02 | 0x05 => dst
  | 0x03 => src
  | 0x04 => at_ (dSrcSp x.desc) (dSrc x.desc + 96 * x.prog) 96
  | 0x30 => src ++ at_ 0 (s.dev.rdBase .secStageBaseLo .secStageBaseHi 0 + x.prog) n
  | 0x11 =>
    let ws := s.dev.embDesc (bits (dw x.desc 1) 11 0)
    let m := min 4096 (tdBytes ws - x.prog)
    spaceHpas s (tdHome ws) (tdTenant ws) 1 (tdSnap ws + x.prog) m ++ spaceHpas s (tdHome ws) (tdTenant ws) 1 (tdBase ws + x.prog) m
  | _ => []

/-- The unit of a transfer waits for its class, or for a write that waits (12 R325, R330). -/
def unitPaused (s : State) (r : Nat) (x : Run) : Bool := s.dev.partsPaused (s.dev.ringCls r) (unitHpas s r x)

/-- The unit of a transfer was in flight in a stack when that left ACTIVE: its access is answered as uncorrectable (12 R331). -/
def unitGone (s : State) (r : Nat) (x : Run) : Bool := (unitHpas s r x).any fun y => x.gone.contains (y.1 / 2 ^ 36)

/-- PROGRESS_UNIT_DONE: the unit in flight of a ring's descriptor. -/
def progressUnit (s : State) (r : Nat) (host : HostData) : State :=
  match (s.dev.ring r).run with
  | none => s
  | some x =>
    if !x.live || !s.dev.runs r || s.dev.frozen (r / 2048) || unitPaused s r x then s
    else if x.dropped then unitDropped s r x
    else if unitGone s r x then unitFail (if dKind x.desc = 0x11 then restoreIdle s x else s) r cMemory
    else if dKind x.desc = 0x10 then unitSnapshot s r x
    else if dKind x.desc = 0x11 then unitRestore s r x
    else ringUnit s r x host

/-- PROGRESS_UNIT_DONE. -/
def execProgressUnitDone (ring : Fin 16384) (host : HostData) (s : State) : Host.Outcome State Fault Refusal :=
  .next (serve (progressUnit s ring host) ring)

/-! A reclaim (R282). -/

/-- Tables of a tenant. -/
def Dev.tablesOf (d : Dev) (tenant : Nat) : List Nat :=
  ((d.entries 10 0 0).filter fun e => tdValid e.2 && tdTenant e.2 == tenant).map (·.1)

/-- From bell b packets are refused, open batches are lost, and copying and mirroring end. -/
def embReclaim (s : State) (tenant : Nat) : State :=
  (s.dev.tablesOf tenant).foldl (fun s t =>
    let busy := s.dev.snapState t == snCopying || s.dev.snapState t == snMirroring
    let s := embDrop s t
    s.on fun d =>
      let d := if d.batchState t = bIdle then d else d.setBatch t bIdle
      let d := if busy then d.setSnap t snNone else d
      { d with rng := { d.rng with embClosed := t :: d.rng.embClosed.filter (· != t) } }) s

end Sys2Proof.Machine
end

