-- ==== Sys2Proof/Machine/Sentinel.lean ====
section
/-! DEFINITION. The Sentinel, pattern packs and tile fencing (15_faults_and_recovery.md R399 to R406). -/

namespace Sys2Proof.Machine

/-! The role (R399). -/

/-- A tile that can be the Sentinel: serving, not fenced, with no reserved slot. -/
def Dev.eligible (d : Dev) (ct : Nat) : Bool := d.rdB .cupCfg ct 0 && !d.fenced ct && d.slotsReserved ct == 0

/-- A tile becomes the Sentinel of its die. -/
def Dev.takeRole (d : Dev) (ct : Nat) : Dev :=
  let d := match d.sentinel (ct / 8) with
    | some old => d.wrB .cupStatus old 1 false
    | none => d
  { d.wrB .cupStatus ct 1 true with sen := { d.sen with next := SMap.erase d.sen.next (ct / 8) } }

/-- A lookup holds a slot of a tile. -/
def Dev.gathers (d : Dev) (ct : Nat) : Bool := d.emb.lookups.any fun e => e.2.ct == ct

/-- The tile named to take the role has it once its lookup slots are released. -/
def Dev.handOver (d : Dev) (die : Nat) : Dev :=
  match SMap.find? d.sen.next die with
  | some ct => if d.gathers ct then d else d.takeRole ct
  | none => d

/-- The tile after the Sentinel that is eligible, in ascending order of t and wrapping; the lowest-numbered one where the
die has none. -/
def Dev.nextRole (d : Dev) (die : Nat) : Option Nat :=
  let start := match d.sentinel die with
    | some ct => ct % 8 + 1
    | none => 0
  ((upto 8).map fun i => die * 8 + (start + i) % 8).find? fun ct => d.eligible ct && !d.isSentinel ct

/-- The role of a die rotates. -/
def Dev.rotate (d : Dev) (die : Nat) : Dev :=
  match d.nextRole die with
  | some ct => ({ d with sen := { d.sen with next := SMap.insert die ct d.sen.next } }).handOver die
  | none => d

/-- A Sentinel is fenced, or none is possible yet: the role moves at once. -/
def Dev.roleNow (d : Dev) (die : Nat) : Dev :=
  match d.nextRole die with
  | some ct => if d.gathers ct then { d with sen := { d.sen with next := SMap.insert die ct d.sen.next } } else d.takeRole ct
  | none => d

/-- SENTINEL_ROTATION: a bell whose bits [19:0] are 0. -/
def execSentinelRotation (s : State) : Host.Outcome State Fault Refusal :=
  .next (s.on fun d => (upto 8).foldl Dev.rotate d)

/-- The role of a die is to move at the next bell. -/
def Dev.rotateAsked (d : Dev) (die : Nat) : Dev :=
  { d with sen := { d.sen with rotate := die :: d.sen.rotate.filter (· != die) } }

/-- CUP_SEN_ROTATE: CUP_SEN_CTRL.rotate. -/
def execCupSenRotate (who : Partner) (die : Fin 8) (s : State) : Host.Outcome State Fault Refusal :=
  .next (s.on fun d => d.ctl who (regOffset .cupSenCtrl die) fun d => d.rotateAsked die)

/-- The rotations that software asked for, and hand-overs whose tile has come free, at a bell. -/
def Dev.roleBell (d : Dev) : Dev :=
  let asked := d.sen.rotate
  let d := asked.foldl Dev.rotate { d with sen := { d.sen with rotate := [] } }
  (upto 8).foldl Dev.handOver d

/-! Bins (R403). -/

/-- The bin of a temperature in °C and a load in percent. -/
def senBin (temp load : Nat) : Nat :=
  let t := if 100 ≤ temp then 5 else if 90 ≤ temp then 4 else if 80 ≤ temp then 3 else if 70 ≤ temp then 2
    else if 60 ≤ temp then 1 else 0
  4 * t + (if 75 ≤ load then 3 else if 50 ≤ load then 2 else if 25 ≤ load then 1 else 0)

/-- The index of CUP_SEN_BIN of a tile and bin. -/
def binIdx (ct b : Nat) : Nat := ct / 8 * 192 + ct % 8 * 24 + b

/-- A sample that a tile served in a bin. -/
def Dev.binSample (d : Dev) (ct b : Nat) : Dev :=
  let i := binIdx ct b
  d.wrF .cupSenBin i 31 8 (min (2 ^ 24 - 1) (d.rdF .cupSenBin i 31 8 + 1))

/-- A tile is decided for fencing at the next bell (R404). -/
def Dev.decideFence (d : Dev) (ct cause : Nat) : Dev :=
  if d.fenced ct || (SMap.find? d.sen.fences ct).isSome then d
  else { d with sen := { d.sen with fences := SMap.insert ct cause d.sen.fences } }

/-- A transient is blamed on a tile in a bin: at trans_limit the tile is decided for fencing. -/
def Dev.blame (d : Dev) (ct b cause : Nat) : Dev :=
  let i := binIdx ct b
  let n := min 255 (d.rdF .cupSenBin i 7 0 + 1)
  let d := d.wrF .cupSenBin i 7 0 n
  if d.rdF .cupSenCfg (ct / 8) 31 24 ≤ n then d.decideFence ct cause else d

/-! Comparing and replaying (R401, R402). -/

def causeSentinel : Nat := 7
def causePattern : Nat := 9
def causeFence : Nat := 6

/-- The Sentinel rounds what it was given, and its result is compared with the serving tile's bit for bit (08 R228). -/
def Dev.matched (d : Dev) (k : Nat) (x : Sample) (r : List Byte) (temp mv load : Nat) : Dev :=
  let b := senBin temp load
  let die := k / 8
  let d := (d.bump .cupSenSampled die).binSample x.ct b
  if r = x.o then d.sampleFree k
  else
    let d := (d.bump .cupSenMismatch die).raise die 0x0510 sevError
      [x.ct + x.sct * 2 ^ 8, b2n x.table * 2 ^ 31 + x.id, x.seq, x.chunk, x.cw, temp * 2 ^ 16 + mv, load * 2 ^ 8 + b]
    let d := d.freeSlot x.sct x.slot
    let y : Sample := { x with stage := .replaying, bin := b, s := r }
    { d with sen := { d.sen with samples := SMap.insert k y d.sen.samples } }

/-- SENTINEL_COMPARE: both tiles have rounded. `bad`: what the Sentinel does wrong; the temperature, the core rail and the
load of the serving tile are what the device measures. A poisoned Sentinel slot is never rounded, so nothing is compared
and the record is freed (08 R230; DEDUCED, assumption 161). -/
def Dev.compare (d : Dev) (k : Nat) (bad : SlotFault) (temp mv load : Nat) : Dev :=
  match SMap.find? d.sen.samples k with
  | none => d
  | some x =>
    if x.stage ≠ .rounded ∨ d.frozen (k / 8) = true then d
    else
      let d := d.corrected x.sct bad
      if bad.unc then (d.poison x.sct x.slot (if x.table then 0 else x.id)).sampleFree k
      else
        let (r, t) := x.result
        (if x.how.n = 0 then d else d.tallyCount x.sct x.how.n t).matched k x (tileOut bad r) temp mv load

/-- SENTINEL_COMPARE. -/
def execSentinelCompare (die k : Fin 8) (bad : SlotFault) (temp mv load : Nat) (s : State) : Host.Outcome State Fault Refusal :=
  .next (s.on fun d => d.compare (die * 8 + k) bad temp mv load)

/-- Classes of Table 15-8. -/
def clsTransient : Nat := 0
def clsPermanent : Nat := 1
def clsSentinel : Nat := 2
def clsUnresolved : Nat := 3

/-- The class of three replays; 0 equals O, 1 equals S, 2 neither. -/
def senClass (outs : List Nat) : Nat :=
  if outs = [1, 1, 1] then clsTransient
  else if outs = [0, 0, 1] then clsPermanent
  else if outs = [0, 0, 0] then clsSentinel
  else clsUnresolved

/-- The counter of a class. -/
def clsCounter (c : Nat) : Reg :=
  match c with
  | 0 => .cupSenTransient
  | 1 => .cupSenPermanent
  | 2 => .cupSenSentinel
  | _ => .cupSenUnresolved

/-- The record and the fault context of an outcome. -/
def Dev.outcome (d : Dev) (ct cls bin cause : Nat) (table : Bool) (id seq chunk : Nat) : Dev :=
  let d := d.faultCtx { die := ct / 8, cause := cause, ct := some ct, group := if table || cause == causePattern then none else some id }
  (d.bump (clsCounter cls) (ct / 8)).raise (ct / 8) 0x0511 (if cls = clsPermanent then sevError else sevWarning)
    [ct + cls * 2 ^ 8, b2n table * 2 ^ 31 + id, seq, chunk, bin]

/-- A mismatch is classified, its tile blamed and its retain record freed (Table 15-8, R404). -/
def Dev.classify (d : Dev) (k : Nat) (x : Sample) (cls : Nat) : Dev :=
  let ct := if cls = clsSentinel then x.sct else x.ct
  let d := d.outcome ct cls x.bin causeSentinel x.table x.id x.seq x.chunk
  let d := if cls = clsPermanent then d.decideFence ct causeSentinel
    else if cls = clsTransient ∨ cls = clsSentinel then d.blame ct x.bin causeSentinel else d
  { d with sen := { d.sen with samples := SMap.erase d.sen.samples k } }

/-- The third tile: the lowest-numbered other serving tile of the die. -/
def Dev.thirdTile (d : Dev) (ct : Nat) : Option Nat :=
  ((upto 8).map (ct / 8 * 8 + ·)).find? fun t => t != ct && d.serving t

/-- The tile of the next replay of a sample, if it has a slot that is neither reserved nor held. -/
def Dev.replayTile (d : Dev) (x : Sample) : Option Nat :=
  let t := if x.outs.length < 2 then some x.ct else d.thirdTile x.ct
  t.filter fun t => !(d.openSlots t).isEmpty

/-- What a replay on a tile counts: the inputs read back at P3, the adds and the rounding. -/
def Dev.replayWork (d : Dev) (k tile : Nat) (x : Sample) (t : Tally) : Dev :=
  let n := x.ins.foldl (fun n es => n + es.length) 0
  let d := d.hbmUse (d.retainAt k) (x.ins.length * 32) 3
  if x.how.n = 0 then d else (d.addsCount tile n).tallyCount tile x.how.n t

/-- SENTINEL_REPLAY: the next replay of a mismatch runs in an open slot, and its result is compared with O and S. `bad`: what
the tile does wrong; a poisoned slot leaves the replay not run (Table 15-8). Replays wait while P3 is paused. -/
def Dev.replayed (d : Dev) (k : Nat) (bad : SlotFault) : Dev :=
  match SMap.find? d.sen.samples k with
  | none => d
  | some x =>
    match d.replayTile x with
    | none => d
    | some tile =>
      if x.stage ≠ .replaying ∨ d.frozen (k / 8) = true ∨ d.classPaused (d.retainAt k / 2 ^ 36) 3 = true then d
      else
        let slot := (d.openSlots tile).headD 0
        let d := (d.armSlot tile slot).corrected tile bad
        if bad.unc then (d.poison tile slot (if x.table then 0 else x.id)).classify k x clsUnresolved
        else
          let (r, t) := x.result
          let out := tileOut bad r
          let res := if out = x.o then 0 else if out = x.s then 1 else 2
          let y : Sample := { x with outs := x.outs ++ [res] }
          let d := d.replayWork k tile x t
          if y.outs.length < 3 then { d with sen := { d.sen with samples := SMap.insert k y d.sen.samples } }
          else d.classify k y (senClass y.outs)

/-- SENTINEL_REPLAY. -/
def execSentinelReplay (die k : Fin 8) (bad : SlotFault) (s : State) : Host.Outcome State Fault Refusal :=
  .next (s.on fun d => d.replayed (die * 8 + k) bad)

/-- REPLAY_WAIT_TIMEOUT: no free slot within replay_wait bells. -/
def Dev.replayTimeout (d : Dev) (k : Nat) : Dev :=
  match SMap.find? d.sen.samples k with
  | none => d
  | some x => if x.stage ≠ .replaying ∨ (d.replayTile x).isSome then d else d.classify k x clsUnresolved

/-- REPLAY_WAIT_TIMEOUT. -/
def execReplayWaitTimeout (die k : Fin 8) (s : State) : Host.Outcome State Fault Refusal :=
  .next (s.on fun d => d.replayTimeout (die * 8 + k))

/-! Pattern packs (R406). -/

/-- A vector of a pack (Table 15-9): its control word, elements, seed, seq, the CRC of its expected result and its inputs. -/
structure PackVec where
  cw : Nat
  elems : Nat
  seed : Nat
  seq : Nat
  crc : Nat
  ins : List (List Elem)
deriving DecidableEq, Repr

/-- The length of a vector that stands at the front: a header of 24 bytes and its inputs, each padded to 4 bytes. -/
def vecInput (bs : List Byte) : Nat := (fmtBytes (cwFmt (leAt bs 0 4)) (bits (leAt bs 4 4) 11 0) + 3) / 4 * 4
def vecLen (bs : List Byte) : Nat := 24 + bits (leAt bs 4 4) 15 12 * vecInput bs

/-- The vector at the front. -/
def vecAt (bs : List Byte) : PackVec :=
  let n := bits (leAt bs 4 4) 11 0
  let cw := leAt bs 0 4
  { cw := cw, elems := n, seed := leAt bs 8 4 * 2 ^ 32 + leAt bs 12 4, seq := leAt bs 16 4, crc := leAt bs 20 4,
    ins := (pieces (vecInput bs) (bits (leAt bs 4 4) 15 12) (bs.drop 24)).map fun x => decodeElems (cwFmt cw) n x }

/-- The vectors of a pack, one after another; what does not hold a whole vector is none. -/
def packVecs : Nat → List Byte → List PackVec
  | 0, _ => []
  | k + 1, bs => if bs.length < 24 ∨ bs.length < vecLen bs then [] else vecAt bs :: packVecs k (bs.drop (vecLen bs))

/-- The result of a vector on a correct tile, rounded as a root rounds: to the down format, with its inputs as AVG's divisor. -/
def PackVec.result (v : PackVec) : List Byte × Tally :=
  let accs := v.ins.foldl (fun accs es => List.zipWith (fun a e => a.add (cwOp v.cw) (elemBits (cwFmt v.cw)) e) accs es)
    (List.replicate v.elems {})
  roundChunk ⟨cwOp v.cw, cwDown v.cw, v.ins.length, cwSr v.cw, cwE4m3Nan v.cw, cwIntSat v.cw⟩ accs fun i => srDraw v.seed v.seq i

/-- A vector runs on a tile in a slot: whether its result differs, or the slot is poisoned and gives none (08 R230). -/
def Dev.vecRun (d : Dev) (ct slot pack : Nat) (v : PackVec) (bad : SlotFault) : Bool × Dev :=
  let d := (d.armSlot ct slot).addsCount ct (v.ins.length * v.elems)
  let d := d.corrected ct bad
  if bad.unc then (true, d.poison ct slot pack)
  else
    let (r, t) := v.result
    (crc32c (tileOut bad r) != v.crc, d.tallyCount ct v.elems t)

/-- A vector on a tile, with two repeats where it differs: PERMANENT if both repeats differ, TRANSIENT otherwise; binned, and
acted on. -/
def Dev.vecTest (d : Dev) (ct slot pack : Nat) (v : PackVec) (bad : List SlotFault) (env : Nat × Nat) : Bool × Dev :=
  let (x, d) := d.vecRun ct slot pack v (bad.getD 0 {})
  if !x then (false, d)
  else
    let (y, d) := d.vecRun ct slot pack v (bad.getD 1 {})
    let (z, d) := d.vecRun ct slot pack v (bad.getD 2 {})
    let b := senBin env.1 env.2
    let d := d.outcome ct (if y && z then clsPermanent else clsTransient) b causePattern false pack 0 0
    (true, if y && z then d.decideFence ct causePattern else d.blame ct b causePattern)

/-- What a tile does wrong in the runs of a vector of a die's tile. -/
def runFaults (runs : List VectorRun) (die vec : Nat) : List SlotFault :=
  match runs.find? fun x => x.die == die && x.vec == vec with
  | some x => x.bad
  | none => []

/-- The vectors of a loaded pack. -/
def Dev.packOf (d : Dev) (pack : Nat) : List PackVec :=
  match SMap.find? d.sen.packs pack with
  | some bs => packVecs bs.length bs
  | none => []

/-- Every vector of a pack on a tile, and the number that differed. -/
def Dev.packTest (d : Dev) (ct pack : Nat) (runs : List VectorRun) (env : Nat × Nat) : Nat × Dev :=
  let vs := d.packOf pack
  let slot := (d.openSlots ct).headD 0
  ((upto vs.length).zip vs).foldl (fun x v =>
    let (differs, d) := x.2.vecTest ct slot pack v.2 (runFaults runs (ct / 8) v.1) env
    (x.1 + b2n differs, d)) (0, d)

/-- The pack on the Sentinels of the dies of a mask. -/
def Dev.packRun (d : Dev) (dies : List Nat) (pack : Nat) (runs : List VectorRun) (env : List (Nat × Nat)) : Nat × Dev :=
  dies.foldl (fun x n =>
    match x.2.sentinel n with
    | some ct =>
      let (k, d) := x.2.packTest ct pack runs (env.getD n (0, 0))
      (x.1 + k, d)
    | none => x) (0, d)

/-- A Sentinel has no slot for a vector yet, or its engines are frozen. -/
def Dev.packWaits (d : Dev) (n : Nat) : Bool :=
  match d.sentinel n with
  | some ct => (d.openSlots ct).isEmpty || d.frozen n
  | none => false

/-- PATTERN_RUN: INVALID unless its pack is loaded and every masked die has a Sentinel; it waits for a slot on each of them.
`runs`: what the tiles do wrong; `env`: temperature in °C and load in percent, by die. -/
def patternRun (s : State) (r : Nat) (host : HostData) (runs : List VectorRun) (env : List (Nat × Nat)) : State :=
  startDesc s r host (· == 0x31) fun t idx desc => checked t r idx desc fun t =>
    let dies := maskBits 8 (bits (dw desc 1) 23 16)
    let pack := bits (dw desc 1) 15 0
    if (SMap.find? t.dev.sen.packs pack).isNone || (dies.any fun n => (t.dev.sentinel n).isNone) then invalid t r idx desc cState
    else if dies.any fun n => t.dev.packWaits n then s
    else
      let (n, d) := t.dev.packRun dies pack runs env
      startRun { t with dev := { d with sen := { d.sen with pack := some pack } } } r idx desc n

/-- PATTERN_RUN. -/
def execPatternRun (ring : Fin 16384) (host : HostData) (run : PackRun) (s : State) : Host.Outcome State Fault Refusal :=
  .next (patternRun s ring host run.runs run.env)

/-- IDLE_PATTERN: with idle_en = 1 a serving tile that took no input runs the vectors of the last pack in a free slot. -/
def Dev.idlePattern (d : Dev) (ct : Nat) (runs : List VectorRun) (temp load : Nat) : Dev :=
  match d.sen.pack with
  | some pack =>
    if d.rdB .cupSenCfg (ct / 8) 10 && !d.frozen (ct / 8) && d.serving ct && !(d.openSlots ct).isEmpty then
      (d.packTest ct pack runs (temp, load)).2
    else d
  | none => d

/-- IDLE_PATTERN. -/
def execIdlePattern (ct : Fin 64) (run : IdleRun) (s : State) : Host.Outcome State Fault Refusal :=
  .next (s.on fun d => d.idlePattern ct run.runs run.temp run.load)

/-! Tile reset and fencing (R392, R404, R405). -/

/-- A retain record of a tile that is reset is freed with outcome UNRESOLVED (R402). -/
def Dev.samplesTileLost (d : Dev) (ct : Nat) : Dev :=
  (d.sen.samples.filter fun e => e.2.ct == ct || e.2.sct == ct).foldl (fun d e =>
    match SMap.find? d.sen.samples e.1 with
    | some x => if x.stage = .replaying then d.classify e.1 x clsUnresolved
      else (d.outcome x.ct clsUnresolved x.bin causeSentinel x.table x.id x.seq x.chunk).sampleFree e.1
    | none => d) d

/-- What a tile reset loses: its slots and what they held. -/
def tileLost (s : State) (ct : Nat) : State :=
  lookupsTileLost (groupsTileLost (s.on fun d => d.samplesTileLost ct) ct) ct

/-- HUB_RESET_STATUS after a reset has begun: its domain, its cause and the count. -/
def Dev.resetNoted (d : Dev) (dom cause : Nat) : Dev :=
  let d := (d.wrF .hubResetStatus 0 27 24 dom).wrF .hubResetStatus 0 23 16 cause
  d.wrF .hubResetStatus 0 15 0 (min 65535 (d.rdF .hubResetStatus 0 15 0 + 1))

/-- A tile's fenced bit and its bit of HUB_FENCE_MAP. -/
def Dev.markFenced (d : Dev) (ct : Nat) (v : Bool) : Dev :=
  let d := d.wrB .cupStatus ct 2 v
  if ct < 32 then d.wrB .hubFenceMapLo 0 ct v else d.wrB .hubFenceMapHi 0 (ct - 32) v

/-- An entry of the flash fence log is to be written or removed (R404, R405). -/
def Dev.logFence (d : Dev) (ct : Nat) (add : Bool) : Dev :=
  let q := d.sen.logQueue.filter (·.1 != ct) ++ [(ct, add)]
  { d.wrB .hubFenceStatus 0 31 true with sen := { d.sen with logQueue := q } }

/-- A tile is fenced: reset with cause FENCE, marked, and recorded; a fenced Sentinel gives its role away at once. -/
def fenceTile (s : State) (ct cause : Nat) : State :=
  let s := s.on fun d => (d.faultCtx { die := ct / 8, cause := causeFence, ct := some ct }).resetNoted 1 causeFence
  let s := tileLost s ct
  s.on fun d =>
    let was := d.isSentinel ct
    let d := (d.markFenced ct true).wrB .cupStatus ct 1 false
    let next := match SMap.find? d.sen.next (ct / 8) with
      | some t => if t = ct then SMap.erase d.sen.next (ct / 8) else d.sen.next
      | none => d.sen.next
    let d := { d with sen := { d.sen with next := next } }
    let d := ((d.raise (ct / 8) 0x0520 sevCritical [ct, cause]).logFence ct true)
    if was then d.roleNow (ct / 8) else d

/-- TILE_FENCE: step 8 of a bell (Table 2-2). -/
def fenceBell (s : State) : State :=
  let due := s.dev.sen.fences
  due.foldl (fun s e => fenceTile s e.1 e.2) (s.on fun d => { d with sen := { d.sen with fences := [] } })

/-- HUB_FENCE_CMD with op FENCE: at the next bell. -/
def execFenceCmd (who : Partner) (ct : Fin 64) (s : State) : Host.Outcome State Fault Refusal :=
  .next (s.on fun d => d.ctl who 0x500 fun d => d.decideFence ct 0)

/-- HUB_FENCE_CMD with op UNFENCE: the tile leaves the log; it stays fenced until the next warm or cold reset. -/
def execUnfenceCmd (who : Partner) (ct : Fin 64) (s : State) : Host.Outcome State Fault Refusal :=
  .next (s.on fun d => d.ctl who 0x500 fun d => d.logFence ct false)

/-- FENCE_LOG_WRITE: Belfry writes the queued entry of a tile; `ok`: the flash took it. While Belfry is in reset the hub
holds the entry. -/
def Dev.fenceLogWrite (d : Dev) (ct : Nat) (ok : Bool) : Dev :=
  match d.sen.logQueue.find? fun e => e.1 == ct with
  | none => d
  | some (_, add) =>
    if d.rdB .hubMbxBelfry 0 30 then d
    else if !ok then
      (d.wrB .hubFenceStatus 0 30 true).wrF .hubFlsErr 0 15 0 (min 65535 (d.rdF .hubFlsErr 0 15 0 + 1))
    else
      let rest := d.sen.log.filter (· != ct)
      let log := if add then ct :: rest else rest
      let q := d.sen.logQueue.filter (·.1 != ct)
      let d := { d with sen := { d.sen with log := log, logQueue := q } }
      ((d.wrB .hubFenceStatus 0 30 false).wrB .hubFenceStatus 0 31 (!q.isEmpty)).wrF .hubFenceStatus 0 6 0 log.length

/-- FENCE_LOG_WRITE. -/
def execFenceLogWrite (ct : Fin 64) (ok : Bool) (s : State) : Host.Outcome State Fault Refusal :=
  .next (s.on fun d => d.fenceLogWrite ct ok)

/-! Idle tiles. -/

/-- A tile has an open slot, a pending contribution or a pending rounding. -/
def Dev.tileBusy (d : Dev) (ct : Nat) : Bool :=
  d.gathers ct || (d.col.groups.any fun g => g.2.chunks.any fun c => c.ct == ct) ||
  d.sen.samples.any fun e => (e.2.ct == ct || e.2.sct == ct) && e.2.stage != .rounded

end Sys2Proof.Machine
end

