-- ==== Sys2Proof/Machine/Time.lean ====
section
/-! DEFINITION. Fabric time, commits and PPS (02_bell_and_time.md), but for the bell's own work and for validation's
checks. -/

namespace Sys2Proof.Machine

/-! Fabric time and holdover (R32 to R34). -/

/-- Entry to holdover, with its NOTICE record; none while in holdover already. -/
def Dev.enterHoldover (d : Dev) : Dev :=
  if d.rdB .timStatus 0 1 then d
  else (d.wrB .timStatus 0 1 true).raise hubOrigin 0x0101 sevNotice []

/-- Exit from holdover, with its NOTICE record. -/
def Dev.exitHoldover (d : Dev) : Dev :=
  if d.rdB .timStatus 0 1 then (d.wrB .timStatus 0 1 false).raise hubOrigin 0x0102 sevNotice []
  else d

/-- The write of TIM_INC_HI: the pair is the increment in force from the next switch cycle (R33, R5). -/
def Dev.setInc (d : Dev) (v : Word) : Dev :=
  let d := d.wr .timIncHi 0 (v &&& 0xFFFF#32)
  ({ d with time := { d.time with inc := d.rd64 .timIncLo .timIncHi 0 } }).exitHoldover

/-- Where the bell counter stands after a step: floor(T / P), never lower than before (R37). -/
def Dev.stepBell (d : Dev) : Dev :=
  let m := d.nowNs / d.period
  if d.time.bell < m then
    { d with time := { d.time with bell := m, skipped := d.time.skipped + (m - d.time.bell) } }
  else d

/-- A step: the signed nanoseconds of TIM_STEP are added to fabric time, the fraction unchanged, modulo the counter
(R33); time_valid is set; the bell counter jumps or bells are withheld (R37). -/
def Dev.applyStep (d : Dev) : Dev :=
  let ns := toSigned 64 (d.rd64 .timStepLo .timStepHi 0)
  let t := (((d.time.now : Int) + ns * (nsUnit : Int)) % (timeMod : Int)).toNat
  let d := { d with time := { d.time with now := t } }
  ((d.wrB .timStatus 0 0 true).stepBell).exitHoldover

/-- The BAR0 offset of TIM_CTRL. -/
def offTimCtrl : Nat := 0x10030

/-- TIM_INC_HI_WRITE. -/
def execTimIncHiWrite (who : Partner) (v : Word) (s : State) : Host.Outcome State Fault Refusal :=
  .next (s.on fun d => d.ctl who 0x10024 fun d => d.setInc v)

/-- STEP: a write of 1 to TIM_CTRL.step. -/
def execStep (who : Partner) (s : State) : Host.Outcome State Fault Refusal :=
  .next (s.on fun d => d.ctl who offTimCtrl fun d => d.applyStep)

/-- HOLDOVER_SET: a write of 1 to TIM_CTRL.holdover_set. -/
def execHoldoverSet (who : Partner) (s : State) : Host.Outcome State Fault Refusal :=
  .next (s.on fun d => d.ctl who offTimCtrl fun d => d.enterHoldover)

/-- HOLDOVER_TIMEOUT: timeout_ms has passed since the last write of TIM_INC_HI or step; 0 disables the timeout. -/
def execHoldoverTimeout (s : State) : Host.Outcome State Fault Refusal :=
  .next (s.on fun d => if d.rdF .timHoldCfg 0 15 0 = 0 then d else d.enterHoldover)

/-! Commits (R39 to R44). -/

/-- States and errors of TIM_CMT_STATUS. -/
def cmtValidating : Nat := 1
def cmtPending : Nat := 2
def cmtApplied : Nat := 3
def cmtFailed : Nat := 4
def errInvalid : Nat := 1
def errLate : Nat := 2
def errRenumbered : Nat := 3
def errCancelled : Nat := 4
def errPeerFail : Nat := 5

/-- TIM_CMT_STATUS[dom] takes a state and an error; busy stays. -/
def Dev.cmtStatus (d : Dev) (dom st err : Nat) : Dev :=
  (d.wrF .timCmtStatus dom 2 0 st).wrF .timCmtStatus dom 7 4 err

/-- TIM_CMT_ERR_ADDR[dom]. -/
def Dev.cmtErrAddr (d : Dev) (dom a : Nat) : Dev := d.wr .timCmtErrAddr dom (word a)

/-- TIM_CMT_BELL[dom]. -/
def Dev.cmtBell (d : Dev) (dom b : Nat) : Dev := d.wr64 .timCmtBellLo .timCmtBellHi dom b

/-- Every domain of a mask by a function. -/
def Dev.eachDom (d : Dev) (mask : Nat) (f : Dev → Nat → Dev) : Dev := (maskBits 9 mask).foldl f d

/-- A commit of some named domain is validating or pending. -/
def Dev.cmtBusy (d : Dev) (dom : Nat) : Bool := d.time.commits.any fun c => bit c.mask dom

/-- The COMMIT_FAIL record of a failed joint commit (R42, Table 17-3). -/
def Dev.cmtRecord (d : Dev) (mask err addr target : Nat) : Dev :=
  d.raise hubOrigin 0x0110 sevError [mask, err, addr, target % 2 ^ 32]

/-- A joint commit of a domain mask at a target bell (R40, R41, R44): refused as busy, failed LATE, or started; a mask of
0 starts nothing. -/
def Dev.startCommitAt (d : Dev) (mask target : Nat) : Dev :=
  let mask := mask % 512
  if mask = 0 then d
  else if (maskBits 9 mask).any d.cmtBusy then
    d.eachDom mask fun d dom => if d.cmtBusy dom then d.wrB .timCmtStatus dom 8 true else d
  else if target ≠ 0 ∧ target < d.time.bell + 2 then
    (d.eachDom mask fun d dom => ((d.cmtStatus dom cmtFailed errLate).cmtErrAddr dom 0).cmtBell dom d.time.bell).cmtRecord
      mask errLate 0 target
  else
    let mine := fun k => bit mask (keyDomain k)
    let c : Commit := ⟨mask, target, SMap.keep d.shadow mine, false, .none, 0⟩
    let d := { d with shadow := SMap.keep d.shadow (fun k => !mine k),
                      time := { d.time with commits := d.time.commits ++ [c] } }
    d.eachDom mask fun d dom => ((d.cmtStatus dom cmtValidating 0).cmtErrAddr dom 0).cmtBell dom target

/-- TIM_COMMIT with a domain mask: the target is TIM_CMT_TGT. -/
def Dev.startCommit (d : Dev) (mask : Nat) : Dev := d.startCommitAt mask (d.rd64 .timCmtTgtLo .timCmtTgtHi 0)

/-- TIM_CMT_CANCEL of one joint commit (R44): discarded if pending with its target not reached; a validating one is
discarded when validation ends. Domains the cancel named report CANCELLED, the others PEER_FAIL. -/
def Dev.cancelStatus (d : Dev) (mask named : Nat) : Dev :=
  d.eachDom mask fun d dom =>
    (d.cmtStatus dom cmtFailed (if bit named dom then errCancelled else errPeerFail)).cmtBell dom d.time.bell

/-- A commit survives a cancel of the domains `named`: it is none of theirs, it validates on under doom, or its target
bell has been reached. -/
def Dev.cancelOne (d : Dev) (named : Nat) (c : Commit) : Option Commit :=
  if andN c.mask named = 0 then some c
  else if !c.pending then
    some (match c.doom with
      | .none => { c with doom := .cancelled, named := named }
      | .cancelled => { c with named := orN c.named named }
      | .renumbered => c)
  else if c.target ≤ d.time.bell then some c
  else none

/-- TIM_CMT_CANCEL with a domain mask. -/
def Dev.cancelCommits (d : Dev) (named : Nat) : Dev :=
  let gone := d.time.commits.filter fun c => (d.cancelOne named c).isNone
  let d1 := { d with time := { d.time with commits := d.time.commits.filterMap (d.cancelOne named) } }
  gone.foldl (fun d c => d.cancelStatus c.mask named) d1

/-- TIM_CMT_DISCARD with a domain mask: the shadows of the domains reload from the values in force (R44). -/
def Dev.discardShadows (d : Dev) (mask : Nat) : Dev :=
  { d with shadow := SMap.keep d.shadow fun k => !bit mask (keyDomain k) }

/-- TIM_COMMIT. -/
def execTimCommit (who : Partner) (mask : Word) (s : State) : Host.Outcome State Fault Refusal :=
  .next (s.on fun d => d.ctl who 0x10068 fun d => d.startCommit mask.toNat)

/-- TIM_CMT_CANCEL. -/
def execTimCmtCancel (who : Partner) (mask : Word) (s : State) : Host.Outcome State Fault Refusal :=
  .next (s.on fun d => d.ctl who 0x1006C fun d => d.cancelCommits (mask.toNat % 512))

/-- TIM_CMT_DISCARD. -/
def execTimCmtDiscard (who : Partner) (mask : Word) (s : State) : Host.Outcome State Fault Refusal :=
  .next (s.on fun d => d.ctl who 0x10070 fun d => d.discardShadows (mask.toNat % 512))

/-! PPS (R52). -/

/-- A rising edge of PPS_IN: fabric time is latched, pps_valid set, and pps_overrun if it was set. -/
def Dev.ppsEdge (d : Dev) : Dev :=
  let t := d.time.now
  let d := ((d.wr .timPpsSecLo 0 (word (timeSec t))).wr .timPpsSecHi 0 (word (timeSec t / 2 ^ 32 % 2 ^ 16)))
  let d := (d.wr .timPpsNs 0 (word (timeNs t))).wr .timPpsFrac 0 (word (timeFrac t))
  let d := if d.rdB .timStatus 0 2 then d.wrB .timStatus 0 3 true else d
  d.wrB .timStatus 0 2 true

/-- PPS_IN_EDGE. -/
def execPpsInEdge (s : State) : Host.Outcome State Fault Refusal := .next (s.on Dev.ppsEdge)

/-- PPS_OUT driven to a level. -/
def Dev.drivePps (d : Dev) (high : Bool) : Dev :=
  { d with time := { d.time with ppsOut := high }, out := .pps high :: d.out }

/-- PPS_OUT goes low, if it is high. -/
def Dev.ppsLow (d : Dev) : Dev := if d.time.ppsOut then d.drivePps false else d

/-- PPS_OUT is held low while pps_out_en = 0 (R52). -/
def Dev.ppsHeld (d : Dev) : Dev := if d.rdB .timCtrl 0 3 then d else d.ppsLow

/-- PPS_OUT_PULSE: a whole second of fabric time; the pin goes high while pps_out_en = 1. -/
def execPpsOutPulse (s : State) : Host.Outcome State Fault Refusal :=
  .next (s.on fun d => if d.rdB .timCtrl 0 3 then d.drivePps true else d)

/-- PPS_OUT_END: TIM_PPS_CFG microseconds have passed; the pin goes low. -/
def execPpsOutEnd (s : State) : Host.Outcome State Fault Refusal :=
  .next (s.on Dev.ppsLow)

end Sys2Proof.Machine
end

