-- ==== Sys2Proof/Machine/Resets.lean ====
section
/-! DEFINITION. What each reset domain loses and keeps (15_faults_and_recovery.md R392, R393, Table 15-3; 00 R8). -/

namespace Sys2Proof.Machine

/-! Die compute (R393). -/

/-- Groups whose context is on the die take cause TILE. -/
def groupsDieLost (s : State) (die : Nat) : State :=
  (s.dev.residents.filter fun g => groupDie g == die).foldl (fun s g =>
    ownEnd s g kTile sTileReset 1 ((s.dev.gTiles g).headD 0) 0 [] none) s

/-- Gets of a die's engine end without an answer. -/
def Dev.getsLost (d : Dev) (die : Nat) : Dev := { d with rng := { d.rng with gets := SMap.keep d.rng.gets fun k => k / 8192 != die } }

/-- A ring that runs writes a FAULTED record with code NONE and goes to FAULTED at its whole units. -/
def ringLost (s : State) (r : Nat) : State :=
  if s.dev.rState r = rActive ∨ s.dev.rState r = rSuspending then
    match (s.dev.ring r).run with
    | some x => ringFault (s.on fun d => d.setRing r { d.ring r with run := some { x with get := none } }) r x.idx x.desc 0 x.prog x.acc
    | none => ringFault s r (s.dev.sqHead r) [] 0 0 0
  else s

/-- A COMMIT that runs on a table homed on the die: the batch is OPEN again, and the answer is RETRY, TILE with every used
entry left (10 R276). -/
def commitLost (s : State) (t : Nat) (cm : EmbCommit) : State :=
  let ws := s.dev.embDesc t
  let left := (usedEntries s ws).length
  let s := s.on fun d =>
    let d := if d.batchState t = bCommitting then d.setBatch t bOpen else d
    { d with emb := { d.emb with commits := SMap.erase d.emb.commits t } }
  match cm.ring with
  | none => s.on fun d => d.embNak cm.lp cm.p { code := nRetry, sub := eTile, pos := left } (tdHome ws) cm.resv
  | some r =>
    match (s.dev.ring r).run with
    | some x => if s.dev.rState r = rActive ∨ s.dev.rState r = rSuspending then ringFault s r x.idx x.desc 0 0 0 else s
    | none => s

/-- Snapshots that copy or mirror return to NONE. -/
def Dev.snapsLost (d : Dev) (die : Nat) : Dev :=
  (d.emb.snaps.filter fun e => tdHome (d.embDesc e.1) == die).foldl (fun d e => d.snapEnds e.1) d

/-- A die compute reset. -/
def dieComputeLost (s : State) (die : Nat) : State :=
  let s := groupsDieLost s die
  let s := ((upto 8).map (die * 8 + ·)).foldl tileLost s
  let s := (s.dev.emb.commits.filter fun e => tdHome (s.dev.embDesc e.1) == die).foldl (fun s e => commitLost s e.1 e.2) s
  let s := s.on fun d => (d.snapsLost die).getsLost die
  ((s.dev.rng.rings.map (·.1)).filter fun r => r / 2048 == die).foldl ringLost s

/-! Belfry. -/

/-- An exchange of a mailbox half ends with a result (16 R430). -/
def Dev.mbxEnd (d : Dev) (h result len : Nat) : Dev :=
  let d := ((d.wrB .hubMbxStatus h 31 false).wrB .hubMbxStatus h 30 true).wrF .hubMbxStatus h 26 24 result
  let d := d.wrF .hubMbxStatus h 12 0 len
  if d.rdB .hubMbxIrq h 31 then d.msix h (d.rdF .hubMbxIrq h 10 0) else d

/-- Result codes of a mailbox exchange. -/
def mbxOk : Nat := 0
def mbxNotReady : Nat := 1
def mbxBadLength : Nat := 2
def mbxNotOwner : Nat := 3
def mbxUnsupported : Nat := 4
def mbxTimeout : Nat := 5

/-- Update result codes that a reset gives (Table 16-14). -/
def resAborted : Nat := 12

/-- A running update is cut off (16 R423), and whether erasing had begun, which is a free value; if it had, the image region
holds no valid image. -/
def Dev.updCut (d : Dev) : Bool × Dev :=
  match d.boot.upd with
  | none => (false, d)
  | some u =>
    let (n, d) := d.free
    let begun := decide (2 ≤ u.op) && n % 2 == 1
    let fl := if begun then { d.boot.flash with image := [] } else d.boot.flash
    (begun, { d with boot := { d.boot with upd := none, flash := fl } })

/-- An update that a Belfry reset ends (16 R423). -/
def Dev.updAborted (d : Dev) : Dev :=
  if d.boot.upd.isNone then d
  else
    let (begun, d) := d.updCut
    let d := (d.wrB .secUpdStatus 0 31 false).wrF .secUpdStatus 0 19 16 resAborted
    if begun then (d.wrB .secStatus 0 6 false).raise hubOrigin 0x0B03 sevCritical [3, resAborted] else d

/-- The Belfry processor and its memory are reset: exchanges end with TIMEOUT, an update with ABORTED; connections, queued
packets and pattern packs are lost. -/
def Dev.belfryLost (d : Dev) : Dev :=
  let d := (d.wrB .hubMbxBelfry 0 31 false).wrB .hubMbxBelfry 0 30 true
  let d := d.wrF .hubMbxBelfry 0 15 0 (min 65535 (d.rdF .hubMbxBelfry 0 15 0 + 1))
  let d := [0, 1].foldl (fun d h => if d.rdB .hubMbxStatus h 31 then d.mbxEnd h mbxTimeout 0 else d) d
  let d := d.updAborted
  { d with mgt := { d.mgt with spdm := [], queue := [] }, sen := { d.sen with packs := [], pack := none } }

/-! Ports. -/

/-- A fibre port reset: its logical ports retrain and its rings relock by RETUNE. -/
def Dev.fibreReset (d : Dev) (fp : Nat) : Dev :=
  let d := ((upto 8).map (fp * 8 + ·)).foldl (fun d lp => if d.created lp then d.retrain lp else d) d
  let d := d.unfenceNow fp
  [0, 1].foldl (fun d dir => (upto 9).foldl (fun d lane =>
    let r := ringNo fp dir lane
    if d.ringSt r = stDark ∨ d.ringSt r = stFenced then d else d.tune fp dir lane) d) d

/-! Registers that resets keep. -/

/-- The registers whose entries a test on register and index accepts stay; the others take their reset values. -/
def Dev.keepRegs (d : Dev) (keep : Nat → Bool) : Dev := { d with regs := SMap.keep d.regs keep }

/-- A key of State's maps is of one of these registers. -/
def keyOf (rs : List Reg) (k : Nat) : Bool := rs.any fun r => r.ctorIdx == k % 512

/-- Registers of the switch dies and Lanterns that every reset but a cold one keeps: repairs and map-out of the stacks, and
the lock of rings, spares and sources (14 R388), which are then adjusted. -/
def dieKept : List Reg := [.hbmChOut, .hbmSpareLo, .hbmSpareHi, .hbmStackSize, .hbmStatus, .lanLaneStatus,
  .lanFibStatus, .lanElsStatus]

/-- Hub registers that a warm chip reset keeps (00 R8, 15 R407, 16 R428, R429, 18 R455, R465). -/
def hubKept : List Reg := [.hubCapStatus, .hubFaultCtx, .hubResetStatus, .grdWinBaseLo, .grdWinBaseHi, .grdWinCtl,
  .grdStatus, .hubClkStatus, .hubStraps, .pwrRail, .pwrThrEvt, .pwrTripCnt, .pwrSensor, .secPreloadErr, .secStageDrop,
  .hubFlsProgKb, .hubFlsStatus, .hubFlsRsId, .hubMbxBelfry, .hubFenceStatus]

/-- Rings go DARK unless FENCED, fibres go CLOSED with no migration and use no source; spares and sources stay. -/
def Dev.lanternsDark (d : Dev) : Dev :=
  let d := (upto 4608).foldl (fun d r => if d.ringSt r = stFenced then d else d.wr .lanLaneStatus r 0) d
  let d := (upto 256).foldl (fun d fp => ((d.setEye fp 0).setMig fp 0).wrF .lanFibStatus fp 25 25 0) d
  { d with lan := { stored := d.lan.stored, calibrated := d.lan.calibrated, absent := d.lan.absent, elsEn := d.lan.elsEn } }

/-- ACTIVE stacks go to self-refresh (Table 12-5); one that trains goes on training. -/
def Dev.stacksRest (d : Dev) : Dev :=
  (upto 32).foldl (fun d hs =>
    let d := if d.stackState hs = stActive then d.wrF .hbmStatus hs 2 0 stSelfRefresh else d
    d.wrF .hbmStatus hs 19 18 0) d

/-- The Sentinel of every die is its lowest-numbered eligible tile (15 R399). -/
def Dev.pickSentinels (d : Dev) : Dev := (upto 8).foldl (fun d die => d.roleNow die) d

/-! Data path. -/

/-- Tiles that are fenced now. -/
def Dev.fencedTiles (d : Dev) : List Nat := (upto 64).filter d.fenced

/-- Commits that name a die's domain are discarded, as its registers are. -/
def Dev.dieCommitsLost (d : Dev) : Dev :=
  let gone := d.time.commits.filter fun c => andN c.mask 0x1FE != 0
  let d := { d with time := { d.time with commits := d.time.commits.filter fun c => andN c.mask 0x1FE == 0 } }
  gone.foldl (fun d c => d.cancelStatus c.mask c.mask) d

/-- A data-path reset clears every switch-die and Lantern register, on-die table, queue, credit, pending table and slot. -/
def Dev.dataPathLost (d : Dev) : Dev :=
  let fenced := d.fencedTiles
  let d := d.dieCommitsLost
  let d := (d.keepRegs fun k => keyDomain k == 0 || keyOf dieKept k)
  let d := { d with
    shadow := SMap.keep d.shadow fun k => keyDomain k == 0
    latch := SMap.keep d.latch fun k => keyDomain (k / 3) == 0
    ocuFresh := [], bwFresh := [], bwOpen := [], pages := [], link := {}, keep := {}, fwd := {}, tab := {}, sch := {}, col := {}
    sen := { d.sen with samples := [], rotate := [], next := [] }
    rng := { reclaim := d.rng.reclaim, reclaimed := d.rng.reclaimed }
    mem := {}, emb := {}
    pwr := { d.pwr with states := [], idle := [], seen := [], exits := [], laneTol := [], svcTol := [] } }
  let d := fenced.foldl (fun d ct => d.wrB .cupStatus ct 2 true) d
  (d.lanternsDark.stacksRest).pickSentinels

/-! Warm and cold. -/

/-- The next sequence number after a cold or warm chip reset (17 R438). -/
def Dev.seqFromStore (d : Dev) : Dev :=
  let top := if d.rcd.present then d.rcd.journal.foldl (fun m e => max m e.2.seq) 0 else 0
  d.wr .evrSeqNext 0 (word (seqAfter top))

/-- What a warm chip reset leaves: everything at its reset value but what is kept. The recorder is flushed first. -/
def Dev.warmLost (d : Dev) : Dev :=
  let d := d.updAborted.flushTrigger.flushNow
  let k := d.keepRegs fun k => keyOf hubKept k || keyOf dieKept k
  let d' : Dev := { regs := k.regs, freeCtr := d.freeCtr, out := d.ppsLow.out, ue := d.ue, ce := d.ce, lan := d.lan }
  let d' := { d' with halves := SMap.keep d.halves (keyOf hubKept) }
  let d' := { d' with
    rcd := { present := d.rcd.present, fault := d.rcd.fault, journal := d.rcd.journal, hdrA := d.rcd.hdrA, hdrB := d.rcd.hdrB,
             storeErr := !d.rcd.present, warn := d.rcd.warn, refused := d.rcd.refused }
    sen := { logQueue := d.sen.logQueue, log := d.sen.log }
    boot := { flash := d.boot.flash, warm := true }
    flt := { running := d.flt.running } }
  ((d'.lanternsDark).stacksRest).seqFromStore

/-- What a cold reset leaves: flash, the fence log and the record store; what the device has driven and the free values it
has taken are no state of the device. -/
def Dev.coldLost (d : Dev) : Dev :=
  let d := d.updCut.2
  let d' : Dev := { freeCtr := d.freeCtr, out := (d.lan.elsEn.foldl (fun d m => d.driveEls m false) d.ppsLow).out }
  let d' := { d' with
    rcd := { present := d.rcd.present, fault := d.rcd.fault, journal := d.rcd.journal, hdrA := d.rcd.hdrA, hdrB := d.rcd.hdrB }
    sen := { logQueue := d.sen.logQueue, log := d.sen.log }
    boot := { flash := d.boot.flash } }
  let d' := (d'.wrB .hubFenceStatus 0 31 (!d.sen.logQueue.isEmpty)).wrF .hubFenceStatus 0 6 0 d.sen.log.length
  d'.seqFromStore

/-- A cold reset: the stacks are OFF and their contents lost. -/
def coldLost (s : State) : State := { s with dev := s.dev.coldLost, hbm := [] }

end Sys2Proof.Machine
end

