-- ==== Sys2Proof/Machine/Boot.lean ====
section
/-! DEFINITION. The Kamod image, the boot checks, start-up and the Recovery Service (16_belfry_boot_security.md R412 to
R424). -/

namespace Sys2Proof.Machine

/-! The image (Tables 16-3 to 16-5). -/

/-- A section entry. -/
structure Section where
  typ : Nat
  id : Nat
  off : Nat
  len : Nat
  hash : List Byte

def secFirmware : Nat := 1
def secConfig : Nat := 2
def secPreload : Nat := 3
def secPattern : Nat := 4
def secFence : Nat := 5

/-- Fields of the header. -/
def imgCount (img : List Byte) : Nat := leAt img 4 2
def imgBytes (img : List Byte) : Nat := leAt img 8 4
def imgSvn (img : List Byte) : Nat := leAt img 12 4
def imgFloor (img : List Byte) : Nat := leAt img 16 4
def imgSlot (img : List Byte) : Nat := leAt img 20 1 % 4
def imgBuild (img : List Byte) : Nat := leAt img 24 4 * 2 ^ 32 + leAt img 28 4

/-- The bytes of section entry i, and the entry. -/
def entryBytes (img : List Byte) (i : Nat) : List Byte := slice img (512 + 96 * i) 96
def entryOf (img : List Byte) (i : Nat) : Section :=
  let e := entryBytes img i
  ⟨leAt e 3 1, leAt e 4 2, leAt e 8 4, leAt e 12 4, slice e 32 64⟩

/-- The section table. -/
def imgSections (img : List Byte) : List Section := (upto (imgCount img)).map (entryOf img)

/-- The bytes of a section. -/
def sectionBytes (img : List Byte) (x : Section) : List Byte := slice img x.off x.len

/-- Sections signed by the vendor: FIRMWARE and PATTERN. -/
def byVendor (x : Section) : Bool := x.typ == secFirmware || x.typ == secPattern

/-- The message a signature covers: header bytes 0 to 511 and the entries of the sections it signs, in table order (R414). -/
def signedBytes (img : List Byte) (vendor : Bool) : List Byte :=
  slice img 0 512 ++
    ((upto (imgCount img)).filter fun i => byVendor (entryOf img i) == vendor).flatMap (entryBytes img)

/-- Two sections share no byte. -/
def apart (x y : Section) : Bool := decide (x.off + x.len ≤ y.off) || decide (y.off + y.len ≤ x.off)

/-- No two sections of a table overlap. -/
def allApart : List Section → Bool
  | [] => true
  | x :: t => t.all (apart x) && allApart t

/-- A section's size is within its type's limit, and its place is one a section may have. -/
def sectionFits (size : Nat) (x : Section) : Bool :=
  let limit := match x.typ with
    | 1 => 4 * 2 ^ 20
    | 2 => 2 ^ 20
    | 3 => size
    | 4 => 16 * 2 ^ 20
    | 5 => 4096
    | _ => 0
  decide (1 ≤ x.len) && decide (x.len ≤ limit) && decide (4096 ≤ x.off) && x.off % 4096 == 0 && decide (x.off + x.len ≤ size)

/-- The sections of a type. -/
def ofType (xs : List Section) (t : Nat) : List Section := xs.filter fun x => x.typ == t

/-- Check 2 of Table 16-6. -/
def headerOk (img : List Byte) : Bool :=
  let xs := imgSections img
  let size := imgBytes img
  let packs := ofType xs secPattern
  leAt img 0 4 == 0x4B414D44 && leAt img 6 2 == 1 && decide (1 ≤ imgCount img) && decide (imgCount img ≤ 32) &&
  decide (8192 ≤ size) && decide (size ≤ 2 ^ 27) && size % 4096 == 0 &&
  leAt img 22 2 == 0x9256 && bit (leAt img 21 1) 0 && decide (imgFloor img ≤ imgSvn img) &&
  xs.all (sectionFits size) && allApart xs &&
  (ofType xs secFirmware).length == 1 && (ofType xs secConfig).length == 1 && decide ((ofType xs secFence).length ≤ 1) &&
  decide (packs.length ≤ 64) && decide ((packs.map (·.len)).sum ≤ 16 * 2 ^ 20) && decide (packs.map (·.id)).Nodup

/-- The hash of a section's bytes is the one in its entry. -/
def hashOk (img : List Byte) (x : Section) : Bool := sha512 (sectionBytes img x) == x.hash

/-- The vendor public key of an image, and the ROM's hash of its slot with the slot not revoked (check 3). -/
def vendorKey (img : List Byte) : List Byte := slice img 3712 32
def vendorKeyOk (revoked slot : Nat) (key : List Byte) : Bool :=
  ofBE (sha512 key) == Config.vendorHash slot && !bit revoked slot

/-- Result codes (Table 16-14). -/
def resHeader : Nat := 1
def resVendorKey : Nat := 2
def resVendorSig : Nat := 3
def resSvn : Nat := 4
def resNoOperatorKey : Nat := 5
def resOperatorSig : Nat := 6
def resSectionHash : Nat := 7
def resFlashRead : Nat := 8
def resFlashWrite : Nat := 9
def resStageRead : Nat := 10
def resForced : Nat := 11
def resConfig : Nat := 13
def resToken : Nat := 14

/-- Checks 2 to 8 of Table 16-6 on an image, against the protected region with an operator key: 0, or the reason. `all`:
every section's hash is checked (Table 16-10). -/
def imageCheck (fl : Flash) (opKey img : List Byte) (all : Bool) : Nat :=
  if !headerOk img then resHeader
  else if !vendorKeyOk fl.revoked (imgSlot img) (vendorKey img) then resVendorKey
  else if !edVerify (vendorKey img) (signedBytes img true) (slice img 3584 64) then resVendorSig
  else if imgSvn img < fl.minSvn then resSvn
  else if opKey = [] then resNoOperatorKey
  else if !edVerify opKey (signedBytes img false) (slice img 3648 64) then resOperatorSig
  else if !((imgSections img).filter fun x => all || x.typ == secFirmware || x.typ == secConfig).all (hashOk img) then resSectionHash
  else 0

/-! Identity (R417). -/

/-- The public key that the PUF yields, as its 32 bytes, and the device identity. -/
def pufBytes : List Byte := toLE 32 Config.pufKey
def deviceId : Nat := beAt (sha512 pufBytes) 0 8

/-- The identity registers; a derived key that differs from the certificate's sets id_fault, with its record. -/
def Dev.bootIdentity (d : Dev) : Dev :=
  let d := d.wr64 .secDevIdLo .secDevIdHi 0 deviceId
  let bad := d.boot.flash.certKey != pufBytes
  let d := d.wrB .secStatus 0 7 bad
  if bad then d.raise hubOrigin 0x0B03 sevCritical [1, 0] else d

/-- The registers that show the protected region and the operator key in force. -/
def Dev.showFlash (d : Dev) : Dev :=
  let fl := d.boot.flash
  let d := (d.wr .secMinSvn 0 (word fl.minSvn)).wr .secRebind 0 (word fl.rebind)
  let key := d.boot.opKey
  let d := (d.wrF .secKeys 0 7 4 fl.revoked).wrB .secStatus 0 5 (key != [])
  let h := if key = [] then [] else sha512 key
  (upto 16).foldl (fun d i => d.wr .secOpkHash i (word (leAt h (4 * i) 4))) d

/-- The registers that show the running image. -/
def Dev.showImage (d : Dev) (img : List Byte) : Dev :=
  let d := (d.wr .secSvn 0 (word (imgSvn img))).wr64 .secBuildLo .secBuildHi 0 (imgBuild img)
  ((d.wrF .secKeys 0 1 0 (imgSlot img)).wrF .secStatus 0 1 0 (imgSlot img)).wrB .secStatus 0 6 true

/-! Recovery Service (R424). -/

def phHbm : Nat := 1
def phOptics : Nat := 2
def phPreload : Nat := 3
def phLinks : Nat := 4
def phForward : Nat := 5
def phReady : Nat := 6
def phRecovery : Nat := 7

/-- The phase of start-up (Table 16-8). -/
def Dev.phase (d : Dev) : Nat := d.rdF .secBootStatus 0 31 28
def Dev.setPhase (d : Dev) (p : Nat) : Dev := d.wrF .secBootStatus 0 31 28 p

/-- Only the lowest-numbered stack that trains ACTIVE is trained. -/
def Dev.recoveryStack (d : Dev) : Dev :=
  if (upto 32).any fun hs => d.stackState hs == stActive then d
  else match (upto 32).find? fun hs => decide (d.stackState hs ≤ stTraining) || d.stackState hs == stSelfRefresh with
    | none => d
    | some hs =>
      (upto 32).foldl (fun d i =>
        if i = hs then (if d.stackState i = 0 then d.wrF .hbmStatus i 2 0 stTraining else d)
        else if d.stackState i = stTraining then d.wrF .hbmStatus i 2 0 0 else d) d

/-- The device enters the Recovery Service with a reason: sources disabled, fibres closed, Belfry's firmware not running.
The time it took is a free value. -/
def Dev.recoveryEnter (d : Dev) (reason : Nat) : Dev :=
  let (ms, d) := d.free
  let d := ((d.setPhase phRecovery).wrF .secBootStatus 0 27 24 reason).wrF .secBootStatus 0 11 0 ms
  let d := (d.wrB .hubMbxBelfry 0 31 false).raise hubOrigin 0x0B03 sevCritical [2, reason]
  let d := { d with boot := { d.boot with commit := false }, time := { d.time with commits := [] }, shadow := [] }
  let d := d.sourcesOff
  let d := (upto 256).foldl (fun d fp => d.setEye fp 0) d
  d.recoveryStack

/-- The lowest ACTIVE stack. -/
def Dev.lowestActive (d : Dev) : Option Nat := (upto 32).find? fun hs => d.stackState hs == stActive

/-- The base HPA of the staging area (R422, R424), none while it is unallocated. -/
def Dev.stageBase (d : Dev) : Option Nat :=
  if d.recovery then d.lowestActive.map (· * 2 ^ 36)
  else if d.rdB .secStageBaseHi 0 31 then some (d.rdBase .secStageBaseLo .secStageBaseHi 0) else none

/-! CONFIG (R415). -/

/-- The records of a CONFIG section: word 0 and value. -/
def cfgRecords : List Byte → List (Nat × Word)
  | a :: b :: c :: e :: f :: g :: h :: i :: t => (ofLE [a, b, c, e], word (ofLE [f, g, h, i])) :: cfgRecords t
  | _ => []

/-- A record names a register that only has staged or plain bits. -/
def cfgTakes (e : RegDef) : Bool := e.w1c == 0 && e.rc == 0 && e.zero == 0 && (e.stg != 0 || e.rw != 0)

/-- Registers that only a host writes (R429, R430, 19 R485). -/
def hostOnly (r : Reg) : Bool :=
  match r with
  | .grdWinBaseLo | .grdWinBaseHi | .grdWinCtl | .hubMsixTable | .hubMbxReq => true
  | _ => false

/-- One record as Belfry writes it: enables are kept back until LINKS; other registers than STG and RW ones are skipped
with a record. -/
def Dev.cfgWrite (d : Dev) (off : Nat) (v : Word) : Dev :=
  match regAt off with
  | some (e, i) =>
    if !cfgTakes e then d.raise hubOrigin 0x0B01 sevError [off, 0]
    else if hostOnly e.reg then d
    else if e.reg = .plnLnkCfg then
      let rest := d.boot.enables.filter (· != i)
      let d := { d with boot := { d.boot with enables := if wbit v 0 then rest ++ [i] else rest } }
      d.plainWrite e i (putBit v 0 false)
    else if e.reg = .timIncHi then d.setInc v
    else d.plainWrite e i v
  | none => d.raise hubOrigin 0x0B01 sevError [off, 0]

/-- The CONFIG section of the running image. -/
def Dev.configBytes (d : Dev) : List Byte :=
  match ofType (imgSections d.boot.image) secConfig with
  | x :: _ => sectionBytes d.boot.flash.image x
  | [] => []

/-- The records of a phase are written in section order, and one joint commit of all nine domains starts. -/
def Dev.cfgPhase (d : Dev) (phase : Nat) : Dev :=
  let mine := (cfgRecords d.configBytes).filter fun r => bits r.1 31 30 == phase
  let d := mine.foldl (fun d r => d.cfgWrite (bits r.1 25 0) r.2) d
  let d := { d with boot := { d.boot with phases := phase + 1, commit := true } }
  d.startCommitAt 0x1FF 0

/-- No stack trains or leaves self-refresh. -/
def Dev.stacksSettled (d : Dev) : Bool :=
  (upto 32).all fun hs => d.stackState hs != stTraining && d.stackState hs != stSelfRefresh

/-- HBM ends when every stack has settled and the phase-0 commit is applied: OPTICS begins with the phase-1 commit. -/
def Dev.bootAdvance (d : Dev) : Dev :=
  if d.phase = phHbm ∧ d.boot.commit = false ∧ d.boot.stuck = false ∧ d.protect = false ∧ d.stacksSettled = true then
    (d.setPhase phOptics).cfgPhase 1
  else d

/-! ROM (R416, Table 16-6). -/

/-- Check 1 and the rest of Table 16-6, after RECOVER_NEXT. -/
def Dev.bootCheck (d : Dev) : Nat :=
  if d.boot.flash.forced then resForced
  else if !d.rdB .hubFlsStatus 0 31 then resFlashRead
  else imageCheck d.boot.flash d.boot.flash.opKey d.boot.flash.image false

/-- Tiles of the device fence log are fenced from reset, and the Sentinels are picked (15 R399, R405). -/
def Dev.bootTiles (d : Dev) : Dev := (d.sen.log.foldl (fun d ct => d.markFenced ct true) d).pickSentinels

/-- The ROM's work: identity, checks, and start-up or the Recovery Service. -/
def Dev.bootRom (d : Dev) : Dev :=
  let reason := d.bootCheck
  let fl : Flash := { d.boot.flash with forced := false }
  let d := (({ d with boot := { d.boot with flash := fl, opKey := fl.opKey } }).bootIdentity.showFlash).bootTiles
  if reason ≠ 0 then (d.wrB .secStatus 0 6 (reason == resForced && imageCheck fl fl.opKey fl.image false == 0)).recoveryEnter reason
  else
    let d := { d with boot := { d.boot with image := fl.image.take 4096 } }
    let d := ((d.showImage fl.image).wrB .hubMbxBelfry 0 31 true).wrB .hubMbxBelfry 0 30 false
    ((d.setPhase phHbm).cfgPhase 0)

/-- POWER_GOOD: the straps are sampled, the board's memories are found, every stack trains, and the ROM runs. -/
def powerGood (s : State) (p : PowerUp) : State :=
  let s := coldLost s
  s.on fun d =>
    let d := d.wr .hubStraps 0 (word (b2n p.provision * 2 ^ 16 + p.slot * 2 ^ 8 + p.cls))
    let d := ((d.wrF .grdStatus 0 2 0 p.cls).wrB .hubClkStatus 0 0 true).wrB .secStatus 0 4 p.provision
    let d := d.wr .hubFlsStatus 0 (word (b2n p.flash * 2 ^ 31 + b2n p.store * 2 ^ 30 + (if p.flash then p.flashId % 2 ^ 24 else 0)))
    let d := d.wr .hubFlsRsId 0 (word (if p.store then p.storeId % 2 ^ 24 else 0))
    let d := ({ d with rcd := { d.rcd with present := p.store, storeErr := !p.store, fault := p.fault } }).seqFromStore
    let d := (upto 32).foldl (fun d hs => d.wrF .hbmStatus hs 2 0 stTraining) d
    d.bootRom

/-- POWER_GOOD. -/
def execPowerGood (p : PowerUp) (s : State) : Host.Outcome State Fault Refusal := .next (powerGood s p)

/-- PWR_GOOD_DEASSERT: the device stops at once, as at a cold reset (18 R454). -/
def execPwrGoodDeassert (s : State) : Host.Outcome State Fault Refusal := .next (coldLost s)

/-- A warm chip reset boots again: stacks leave self-refresh with their repairs, HBM is not zeroed. -/
def Dev.bootWarm (d : Dev) : Dev :=
  let prov := d.rdB .hubStraps 0 16
  ((d.warmLost).wrB .secStatus 0 4 prov).bootRom

/-- CONFIG and PRELOAD of the flash are those that the running image was verified with. -/
def Dev.reloadOk (d : Dev) : Bool :=
  ((imgSections d.boot.image).filter fun x => x.typ == secConfig || x.typ == secPreload).all (hashOk d.boot.flash.image)

/-- After a data-path reset phases 1 to 6 run again (R419); on a mismatch nothing is applied. -/
def Dev.bootDataPath (d : Dev) : Dev :=
  let d := { d with boot := { d.boot with
    phases := 0, commit := false, streamed := 0, record := 0, enables := [], dataPath := true, warm := false, stuck := !d.reloadOk } }
  let d := d.setPhase phHbm
  if d.boot.stuck then d.raise hubOrigin 0x0B03 sevCritical [4, 0] else d.cfgPhase 0

/-! PRELOAD (R415, Table 16-8). -/

/-- The valid bit of every LET entry and page-map entry in HBM is cleared before the first port is enabled (05 R123). -/
def tablesCleared (s : State) : State :=
  let s := ((upto 64).filter fun pl => s.dev.letOn pl && !s.dev.letDead pl).foldl letCleared s
  let s := ((upto 8).filter fun n => s.dev.pmapOn n && s.dev.stackUp (s.dev.pmapStack n)).foldl pmapCleared s
  s.on fun d => (upto 8).foldl (fun d n => d.pmapForget n) ((upto 64).foldl (fun d pl => d.letForget pl) d)

/-- The PRELOAD records of a section's bytes, 104 bytes each. -/
def preRecords : Nat → List Byte → List (List Byte)
  | 0, _ => []
  | n + 1, bs => if bs.length < 104 then [] else bs.take 104 :: preRecords n (bs.drop 104)

/-- The command of a PRELOAD record. -/
def preCmd (b : List Byte) : TapCmd :=
  let w := leAt b 0 4
  let t := bits w 27 24
  { op := bits w 31 28, table := t, gen := if t ≤ 2 then bits w 23 23 else 0, pipe := bits w 18 16
    key := (upto 8).map fun i => word (leAt b (8 + 4 * i) 4)
    data := (upto 16).map fun i => word (leAt b (40 + 4 * i) 4) }

/-- A refused record is counted and recorded, and preload goes on. -/
def Dev.preRefused (d : Dev) (sec idx err : Nat) : Dev :=
  (d.bump .secPreloadErr 0).raise hubOrigin 0x0B02 sevError [sec, idx, err]

/-- One PRELOAD record: through the broadcast TAP where that accepts the operation, else through the TAPs of the die mask. -/
def preRecord (s : State) (sec idx : Nat) (b : List Byte) : State :=
  let c := preCmd b
  if bcListed c.table c.op then
    let e := s.dev.bcForm c
    if e ≠ 0 then s.on fun d => d.preRefused sec idx e
    else if c.op = 6 ∧ c.k 1 = 0 then s
    else s.on fun d => d.bcEnqueue ⟨0, c.op, c.table, c.gen, c.key, c.data, 0⟩
  else
    (maskBits 8 (leAt b 4 1)).foldl (fun s die =>
      match dieTap s die c with
      | (s, r) => if r.err = 0 then s else s.on fun d => d.preRefused sec idx r.err) s

/-- The tiles of the image's fence mask are fenced. -/
def Dev.fenceMask (d : Dev) (m : Nat) : Dev :=
  let d := { d with boot := { d.boot with fences := m } }
  (maskBits 64 m).foldl (fun d ct =>
    if d.fenced ct then d
    else
      let was := d.isSentinel ct
      let d := (d.markFenced ct true).wrB .cupStatus ct 1 false
      if was then d.roleNow (ct / 8) else d) d

/-- Records of a PRELOAD section from number k on, until one finds the landing queue full (05 R135): the answer is that one's
number, none where all are done. -/
def preFrom (sec k : Nat) : List (List Byte) → State → State × Option Nat
  | [], s => (s, none)
  | b :: bs, s =>
    if bcListed (preCmd b).table (preCmd b).op && decide (4096 ≤ s.dev.tab.bcQueue.length) then (s, some k)
    else preFrom sec (k + 1) bs (preRecord s sec k b)

/-- A streamed section is applied; `i`: its place in the table. The answer is the record it waits at, if it is not done. -/
def applySection (s : State) (i : Nat) (x : Section) : State × Option Nat :=
  let bs := sectionBytes s.dev.boot.flash.image x
  match x.typ with
  | 3 =>
    let k := s.dev.boot.record
    preFrom i k ((preRecords (bs.length / 104) bs).drop k) s
  | 4 => (s.on fun d => { d with sen := { d.sen with packs := SMap.insert x.id bs d.sen.packs } }, none)
  | 5 => (s.on fun d => d.fenceMask (leAt bs 0 8), none)
  | _ => (s, none)

/-- The next section to stream, from entry i of the table on: after a data-path reset only PRELOAD. -/
def Dev.nextSection (d : Dev) : Option (Nat × Section) :=
  let xs := imgSections d.boot.image
  ((upto xs.length).zip xs).find? fun e => decide (d.boot.streamed ≤ e.1) &&
    (e.2.typ == secPreload || (!d.boot.dataPath && (e.2.typ == secPattern || e.2.typ == secFence)))

/-- LINKS begins with the phase-2 commit. -/
def Dev.linksEnter (d : Dev) : Dev := (d.setPhase phLinks).cfgPhase 2

/-- SECTION_STREAM: Belfry streams the next section, hashes it and applies it; a PRELOAD section that finds the landing queue full
goes on with the next SECTION_STREAM; after the last one LINKS begins. -/
def sectionStream (s : State) : State :=
  let d := s.dev
  if !(d.phase == phOptics || d.phase == phPreload) || d.boot.commit || d.protect || d.boot.stuck then s
  else
    let s := if d.phase = phOptics then (tablesCleared s).on fun d => d.setPhase phPreload else s
    let s := match s.dev.nextSection with
      | none => s
      | some (i, x) =>
        if !hashOk s.dev.boot.flash.image x then s.on fun d => d.recoveryEnter resSectionHash
        else match applySection s i x with
          | (s, none) => s.on fun d => { d with boot := { d.boot with streamed := i + 1, record := 0 } }
          | (s, some k) => s.on fun d => { d with boot := { d.boot with record := k } }
    if s.dev.phase = phPreload ∧ s.dev.nextSection.isNone then s.on fun d => d.linksEnter else s

/-- SECTION_STREAM. -/
def execSectionStream (s : State) : Host.Outcome State Fault Refusal := .next (sectionStream s)

/-! LINKS, FORWARD and READY (R419, R420). -/

/-- LINKS_DIE_ENABLE: the ports of a die that CONFIG enables are enabled in one commit. -/
def Dev.dieEnable (d : Dev) (die : Nat) : Dev :=
  if d.phase ≠ phLinks ∨ d.boot.commit = true then d
  else
    let mine := d.boot.enables.filter fun lp => lpDie lp == die
    let d := mine.foldl (fun d lp =>
      { d with shadow := SMap.insert (rk .plnLnkCfg lp) (putBit (d.shadowOf .plnLnkCfg lp) 0 true) d.shadow }) d
    let d := { d with boot := { d.boot with enables := d.boot.enables.filter fun lp => lpDie lp != die } }
    if mine.isEmpty then d else d.startCommitAt (2 ^ (1 + die)) 0

/-- LINKS_DIE_ENABLE. -/
def execLinksDieEnable (die : Fin 8) (s : State) : Host.Outcome State Fault Refusal := .next (s.on fun d => d.dieEnable die)

/-- A fibre that may leave CLOSED: a port of it is enabled and its source is READY (Table 14-8). -/
def Dev.canOpen (d : Dev) (fp : Nat) : Bool :=
  d.eye fp == 0 && ((upto 8).any fun p => d.posNeeded fp p) && d.srcReady (d.srcUsed fp)

/-- FIBRE_OPEN_STEP: the next fibre of a die, in ascending order, leaves CLOSED. -/
def Dev.openStep (d : Dev) (die : Nat) : Dev :=
  if d.phase ≠ phLinks then d
  else match ((upto 32).map (die * 32 + ·)).find? d.canOpen with
    | some fp => (d.lightFibre fp).eyeProbe fp
    | none => d

/-- FIBRE_OPEN_STEP. -/
def execFibreOpenStep (die : Fin 8) (s : State) : Host.Outcome State Fault Refusal := .next (s.on fun d => d.openStep die)

/-- FORWARD_ENTRY: forwarding is in service, and fibres open as their sources allow. -/
def Dev.forwardEntry (d : Dev) : Dev :=
  if d.phase ≠ phLinks then d
  else
    let d := (upto 2048).foldl (fun d lp => d.creditsReturned lp) (d.setPhase phForward)
    (upto 256).foldl (fun d fp => d.eyeEval fp) d

/-- FORWARD_ENTRY. -/
def execForwardEntry (s : State) : Host.Outcome State Fault Refusal := .next (s.on fun d => d.forwardEntry)

/-- The protected region at entry to READY: min SVN and the revocation mask only rise (R413, R416). -/
def Dev.ratchet (d : Dev) : Dev :=
  let fl := d.boot.flash
  let img := d.boot.image
  let fl := { fl with minSvn := max fl.minSvn (imgFloor img), revoked := orN fl.revoked (2 ^ imgSlot img - 1) }
  ({ d with boot := { d.boot with flash := fl } }).showFlash

/-- READY_ENTRY: every engine has opened, so many ms after power-good or the request of the reset. -/
def Dev.readyEntry (d : Dev) (ms : Nat) : Dev :=
  if d.phase ≠ phForward then d
  else
    let sub := d.rdN .hubSubsys 0
    let d := (d.setHost 0 { d.hostA with subsys := sub }).setHost 1 { d.hostB with subsys := sub }
    ((d.setPhase phReady).wrF .secBootStatus 0 11 0 (min 4095 ms)).ratchet

/-- READY_ENTRY. -/
def execReadyEntry (ms : Nat) (s : State) : Host.Outcome State Fault Refusal := .next (s.on fun d => d.readyEntry ms)

/-- STACK_TRAINING_DONE: the stack serves or is fenced, and start-up goes on. -/
def execStackTrainingDone (hs : Fin 32) (bad : List Nat) (spares : Nat) (s : State) : Host.Outcome State Fault Refusal :=
  .next ((stackTrained s hs bad spares).on fun d => if d.recovery then d.recoveryStack else d.bootAdvance)

end Sys2Proof.Machine
end

