-- ==== Sys2Proof/Machine/Units.lean ====
section
/-! DEFINITION. Power states of units and latency tolerances (18_power_thermal.md R456 to R460). -/

namespace Sys2Proof.Machine

/-! Tolerances (R458). -/

/-- The least of some tolerances, limited above by PWR_TOL_CAP. -/
def Dev.tolMin (d : Dev) (ts : List Nat) : Nat := ts.foldl min (d.rdN .pwrTolCap 0)

/-- A native logical port that is ACTIVE. -/
def Dev.nativeActive (d : Dev) (lp : Nat) : Bool := !d.isEth lp && d.lnkState lp == lnkActive && d.created lp

/-- The tolerance for the lane group of a logical port. -/
def Dev.laneTol (d : Dev) (lp : Nat) : Nat :=
  d.tolMin (if d.nativeActive lp then [SMap.getD d.pwr.laneTol lp (d.rdN .pwrTolDflt 0)] else [])

/-- A host's tolerance: its LTR latency while its link is up and LTR is enabled. -/
def Dev.hostTol (d : Dev) (h : Nat) : Option Nat :=
  let x := d.host h
  if x.up && x.ltrEnable then x.ltr else none

/-- The ports with a status that is not at reset: every ACTIVE port is one. -/
def Dev.portsSeen (d : Dev) : List Nat := (d.regs.filter fun e => e.1 % 512 == Reg.plnLnkStatus.ctorIdx).map fun e => e.1 / 512

/-- The tolerance for service units. -/
def Dev.svcTol (d : Dev) : Nat :=
  d.tolMin (([0, 1].filterMap d.hostTol) ++
    ((d.portsSeen.filter d.nativeActive).map fun lp => SMap.getD d.pwr.svcTol lp (d.rdN .pwrTolDflt 0)))

/-! States (Table 18-4). Exit latencies in ns by unit number and state. -/

def exitNs (u st : Nat) : Nat :=
  if st = 0 then 0
  else if u < 2048 then (if st = 1 then 1000 else 0)
  else if u < 2112 then (if st = 1 then 100 else 2000)
  else if u < 2120 then 10000
  else if st = 1 then 100 else 15000

/-- The tolerance in force for a unit. -/
def Dev.unitTol (d : Dev) (u : Nat) : Nat := if u < 2048 then d.laneTol u else d.svcTol

/-- PWR_UNIT_CFG. -/
def Dev.idleBells (d : Dev) : Nat := d.rdF .pwrUnitCfg 0 15 8

/-- The lanes of a port are PARKED: it is not created, not enabled, or DOWN or in HOLDOFF with auto_retrain = 0. -/
def Dev.parked (d : Dev) (lp : Nat) : Bool :=
  !d.lpEnabled lp ||
  (!d.isEth lp && (d.lnkState lp == lnkDown || d.lnkState lp == lnkHoldoff) && !d.rdB .plnLnkCfg lp 2)

/-- The port carries traffic: ACTIVE, or PCS-aligned. -/
def Dev.carries (d : Dev) (lp : Nat) : Bool :=
  d.created lp && (if d.isEth lp then (d.port lp).pcs else d.lnkState lp == lnkActive)

/-- A tile has nothing that keeps it from being power-gated. -/
def Dev.tileEmpty (d : Dev) (ct : Nat) : Bool :=
  !d.tileBusy ct && ((upto 32).all fun i => (d.slot ct i).isNone) &&
  !d.sen.samples.any fun e => e.2.ct == ct || e.2.sct == ct

/-- Nothing keeps a die's compute domain from RETENTION but its tiles. -/
def Dev.dieEmpty (d : Dev) (n : Nat) : Bool :=
  !((d.entries 9 0 n).any fun e => d.runs (n * 2048 + e.1)) &&
  !((d.entries 8 0 n).any fun e => d.gState (n * 1024 + e.1) == gResident || d.gState (n * 1024 + e.1) == gBroken) &&
  !(d.emb.lookups.any fun e => e.1 / 65536 == n) &&
  !(d.emb.commits.any fun e => tdHome (d.embDesc e.1) == n) &&
  !(d.keep.handed.any fun x => lpDie x.lp == n && wakesDie x.pkt.op)

/-- A stack that the power manager manages: ACTIVE, or in self-refresh by it. -/
def Dev.stackManaged (d : Dev) (hs : Nat) : Bool := d.stackUp hs

/-- A unit is idle now: what its deepest state asks for, but for enables, counts and other units. -/
def Dev.unitIdle (d : Dev) (u : Nat) : Bool :=
  if u < 2048 then d.carries u
  else if u < 2112 then !d.tileBusy (u - 2048)
  else if u < 2120 then d.dieEmpty (u - 2112)
  else d.stackManaged (u - 2120)

/-- The entry condition of a state holds, given the whole bells a unit has been idle for. -/
def Dev.mayEnter (d : Dev) (u st idle : Nat) : Bool :=
  if st = 0 then true
  else if u < 2048 then d.carries u && decide (d.idleBells ≤ idle) && d.rdB .pwrUnitCfg 0 0
  else if u < 2112 then
    let ct := u - 2048
    !d.tileBusy ct && decide (1 ≤ idle) &&
      (st == 1 || (d.tileEmpty ct && decide (d.idleBells ≤ idle) && d.rdB .pwrUnitCfg 0 1))
  else if u < 2120 then
    let n := u - 2112
    d.dieEmpty n && decide (d.idleBells ≤ idle) && d.rdB .pwrUnitCfg 0 2 &&
      (upto 8).all fun t => d.pwrState (2048 + n * 8 + t) == 2 && (SMap.find? d.pwr.exits (2048 + n * 8 + t)).isNone
  else d.stackManaged (u - 2120) && decide (1 ≤ idle) && (st == 1 || (decide (d.idleBells ≤ idle) && d.rdB .pwrUnitCfg 0 3))

/-- The deepest state of a unit from `top` down that it may be in. -/
def Dev.deepest (d : Dev) (u top idle : Nat) : Nat :=
  let ok := fun st => decide (exitNs u st ≤ d.unitTol u) && d.mayEnter u st idle
  if 2 ≤ top ∧ ok 2 = true then 2 else if 1 ≤ top ∧ ok 1 = true then 1 else 0

/-- The deepest state that each unit has. -/
def deepState (u : Nat) : Nat := if u < 2048 then 1 else if u < 2112 then 2 else if u < 2120 then 1 else 2

/-- A unit takes a power state; a stack's self-refresh shows in its status. -/
def Dev.setPwrState (d : Dev) (u st : Nat) : Dev :=
  let d := { d with pwr := { d.pwr with states := SMap.put d.pwr.states u 0 st, exits := SMap.erase d.pwr.exits u } }
  if 2120 ≤ u then d.wrF .hbmStatus (u - 2120) 2 0 (if st = 2 then stSelfRefresh else stActive) else d

/-- A unit's exit begins, to a state. -/
def Dev.beginExit (d : Dev) (u st : Nat) : Dev := { d with pwr := { d.pwr with exits := SMap.insert u st d.pwr.exits } }

/-- A unit at step 7 of a bell (R460): its idle count, then its state. A fenced tile is POWER_GATED always. -/
def Dev.unitBell (d : Dev) (u : Nat) : Dev :=
  if 2048 ≤ u ∧ u < 2112 ∧ d.fenced (u - 2048) = true then d.setPwrState u 2
  else
    let used := (SMap.find? d.pwr.seen u).isSome || !d.unitIdle u
    let n := if used then 0 else min 256 (SMap.getD d.pwr.idle u 0 + 1)
    let d := { d with pwr := { d.pwr with seen := SMap.erase d.pwr.seen u, idle := SMap.put d.pwr.idle u 0 n } }
    if 2120 ≤ u ∧ d.stackManaged (u - 2120) = false then
      { d with pwr := { d.pwr with states := SMap.erase d.pwr.states u, exits := SMap.erase d.pwr.exits u } }
    else if (SMap.find? d.pwr.exits u).isSome then d
    else
      let st := d.deepest u (deepState u) n
      if st < d.pwrState u then (if u < 2048 then d.setPwrState u 0 else d.beginExit u st)
      else d.setPwrState u st

/-- Every unit at step 7: lanes, tiles, then the dies that rest on them, and stacks. -/
def Dev.unitsBell (d : Dev) : Dev :=
  let ports := (d.portsSeen.filter d.created) ++ (d.link.ports.map (·.1)).filter fun lp => d.isEth lp && d.created lp
  let d := { d with pwr := { d.pwr with states := SMap.keep d.pwr.states fun u => decide (2048 ≤ u) || ports.contains u } }
  ((ports ++ (upto 64).map (2048 + ·)) ++ ((upto 8).map (2112 + ·) ++ (upto 32).map (2120 + ·))).foldl Dev.unitBell d

/-- A tolerance has changed: units whose exit latency it no longer allows begin their exit (R460). -/
def Dev.tolChanged (d : Dev) : Dev :=
  d.pwr.states.foldl (fun d e =>
    let u := e.1
    let goal := (SMap.find? d.pwr.exits u).getD e.2
    if (2048 ≤ u ∧ u < 2112 ∧ d.fenced (u - 2048) = true) ∨ exitNs u goal ≤ d.unitTol u then d
    else d.beginExit u (d.deepest u goal (SMap.getD d.pwr.idle u 0))) d

/-- UNIT_WAKE: a demand for a unit starts its exit at once; its idle count starts afresh. Fenced tiles and stacks that are
not managed stay. -/
def Dev.unitWake (d : Dev) (u : Nat) : Dev :=
  if d.pwrState u = 0 ∨ (2048 ≤ u ∧ u < 2112 ∧ d.fenced (u - 2048) = true) ∨
      (2120 ≤ u ∧ d.stackManaged (u - 2120) = false) then d
  else
    let d := { d with pwr := { d.pwr with idle := SMap.erase d.pwr.idle u, seen := SMap.insert u 1 d.pwr.seen } }
    d.beginExit u 0

/-- UNIT_WAKE. -/
def execUnitWake (unit : PwrUnit) (s : State) : Host.Outcome State Fault Refusal :=
  .next (s.on fun d => d.unitWake (unitNo unit))

/-! What registers show (Table 18-8). -/

/-- Bit i of the units u + i, of n, in a state. -/
def Dev.unitMask (d : Dev) (u n st : Nat) : Nat := maskOf ((upto n).filter fun i => d.pwrState (u + i) == st)

/-- PWR_DIE[n]. -/
def Dev.pwrDieView (d : Dev) (n : Nat) : Nat :=
  d.pwrState (2112 + n) * 2 ^ 30 + d.unitMask (2048 + n * 8) 8 2 * 2 ^ 20 + d.unitMask (2048 + n * 8) 8 1 * 2 ^ 12 +
    d.unitMask (2120 + n * 4) 4 2 * 2 ^ 8 + d.unitMask (2120 + n * 4) 4 1 * 2 ^ 4

/-- PWR_LIGHT_CNT. -/
def Dev.lightCount (d : Dev) : Nat := (d.pwr.states.filter fun e => decide (e.1 < 2048) && e.2 == 1).length

/-- PWR_HOST_TOL[h]. -/
def Dev.hostTolView (d : Dev) (h : Nat) : Nat := (d.hostTol h).getD 0xFFFFFFFF

end Sys2Proof.Machine
end

