-- ==== Sys2Proof/Machine/Views.lean ====
section
/-! DEFINITION. What each register shows to a read: what it holds, or what it shows of the rest of the state
(00_scope.md R3; the registers' tables). -/

namespace Sys2Proof.Machine

/-- The state of rings that run (13 Table 13-14). -/
def Dev.ringsRunning (d : Dev) (die : Nat) : List Nat :=
  ((d.entries 9 0 die).map fun e => die * 2048 + e.1).filter fun r =>
    d.rState r == rActive || d.rState r == rSuspending || d.rState r == rCancelling

/-- COL_STATUS: groups RESIDENT or BROKEN of a die, and free slots on its serving tiles. -/
def Dev.colStatus (d : Dev) (die : Nat) : Nat :=
  let gs := (d.col.groups.filter fun g => groupDie g.1 == die && (d.gState g.1 == gResident || d.gState g.1 == gBroken)).length
  let free := ((upto 8).map fun t =>
    let ct := die * 8 + t
    if d.serving ct then ((upto 32).filter fun i => (d.slot ct i).isNone).length else 0).sum
  gs * 2 ^ 16 + free

/-- CUP_STATUS (Table 8-7): the tile's slots, its throttle (18 Table 18-6), its marks and whether it serves. -/
def Dev.cupStatusView (d : Dev) (ct : Nat) : Nat :=
  d.slotsReserved ct * 2 ^ 16 + b2n (decide (3 ≤ d.rdF .pwrStatus 0 31 29)) * 8 + b2n (d.fenced ct) * 4 +
    b2n (d.isSentinel ct) * 2 + b2n (d.serving ct)

/-- EMB_STATUS: slots held by lookups and rows in flight of a die. -/
def Dev.embStatus (d : Dev) (die : Nat) : Nat :=
  let held := (d.emb.lookups.filter fun e => e.1 / 65536 == die).length
  min 255 held * 2 ^ 16 + min 32767 (d.embRows die none)

/-- CUP_SEN_STATUS: the Sentinel of a die and its retain records in use. -/
def Dev.senStatus (d : Dev) (die : Nat) : Nat :=
  let used := (d.sen.samples.filter fun e => e.1 / 8 == die).length
  match d.sentinel die with
  | some ct => ct % 8 * 2 ^ 16 + used
  | none => 2 ^ 31 + used

/-- A word of the selected page of the record store (17 Table 17-2). -/
def Dev.storeWord (d : Dev) (o : Nat) : Nat :=
  let hdr := fun (h : StoreHdr) (w : Nat) =>
    if h.gen = 0 then 0
    else if w = 15 then crc32c ((upto 15).flatMap fun i => toLE 4 (hdrWord h i))
    else hdrWord h w
  if o < 64 then hdr d.rcd.hdrA (o / 4)
  else if 0x8000 ≤ o ∧ o < 0x8040 then hdr d.rcd.hdrB ((o - 0x8000) / 4)
  else if 0x10000 ≤ o then
    match SMap.find? d.rcd.journal ((o - 0x10000) / 64) with
    | some x => recWord x (o % 64 / 4)
    | none => 0
  else 0

/-- The value that a read of a register finds: what it holds, or what it shows of the rest of the state. -/
def Dev.view (d : Dev) (who : Partner) (r : Reg) (i : Nat) : Word :=
  match r with
  | .timStepLo | .timCmtTgtLo | .grdWinBaseLo | .hubBar4BaseLo => d.written r i
  | .timBellLo => word d.time.bell
  | .timBellHi => word (d.time.bell / 2 ^ 32)
  | .timNowSecLo => word (timeSec d.time.now)
  | .timNowSecHi => word (timeSec d.time.now / 2 ^ 32 % 2 ^ 16)
  | .timNowNs => word (timeNs d.time.now)
  | .timNowFrac => word (timeFrac d.time.now)
  | .tapBcPend => word d.tab.bcQueue.length
  | .kepSharedFree => word (d.sharedFree i)
  | .kepSpillUsed => word (SMap.getD d.keep.spilled i 0)
  | .kepLimActive => word (SMap.getD d.keep.limiters i []).length
  | .cupStatus => word (d.cupStatusView i)
  | .colStatus => word (d.colStatus i)
  | .embStatus => word (d.embStatus i)
  | .embAdmUse => word (d.embRows (i / 64) (some (d.rdF .embAdm i 15 0)))
  | .memStatus => word ((d.mem.hot.filter fun x => x.1 == i).length * 2 ^ 16 + (d.mem.ents.filter fun e => e.1 / 32768 == i).length)
  | .memTenUse => word ((d.memLive (i / 64)).filter fun e => e.2.p.tenant == d.rdF .memTen i 15 0).length
  | .rngStatus =>
    word (min 4095 (d.ringsRunning i).length * 2 ^ 16 + min 511 (d.unitsLive i))
  | .cupSenStatus => word (d.senStatus i)
  | .hubResetStatus => putBit (d.rd r i) 31 (!d.flt.running.isEmpty)
  | .evrStatus => word d.evrStatus
  | .evrUnflushed => word d.rcd.unflushed
  | .evrWin => word (d.evrWin i)
  | .evrStWin => word (d.storeWord (d.rdF .evrStSel 0 11 0 * 4096 + i * 4))
  | .hubFlsStatus => putBit (d.rd r i) 29 (d.boot.upd.any fun u => u.op == 2 || u.op == 3)
  | .pwrTolNow => word d.svcTol
  | .pwrLightCnt => word d.lightCount
  | .pwrDie => word (d.pwrDieView i)
  | .pwrHostTol => word (d.hostTolView i)
  | .lanStatus => putFld (d.rd r i) 31 24 (d.rdF .pwrSensor (64 + i) 7 0)
  | .hubOwn =>
    let mine := match who.host with
      | some h => d.owns h
      | none => false
    if mine then d.rd r i else putFld (d.rd r i) 15 0 0
  | _ => d.rd r i

/-- The registers whose reads show more than they hold. -/
def viewed : List Reg := [.timStepLo, .timCmtTgtLo, .grdWinBaseLo, .hubBar4BaseLo, .timBellLo, .timBellHi, .timNowSecLo, .timNowSecHi,
  .timNowNs, .timNowFrac, .tapBcPend, .kepSharedFree, .kepSpillUsed, .kepLimActive, .cupStatus, .colStatus, .embStatus, .embAdmUse,
  .memStatus, .memTenUse, .rngStatus, .cupSenStatus, .hubResetStatus, .hubFlsStatus, .evrStatus, .evrUnflushed, .evrWin, .evrStWin, .pwrTolNow,
  .pwrLightCnt, .pwrDie, .pwrHostTol, .lanStatus, .hubOwn]

end Sys2Proof.Machine
end

