-- ==== Sys2Proof/Machine/ResetCtl.lean ====
section
/-! DEFINITION. Requests for resets, captures, escalation and the watchdogs (15_faults_and_recovery.md R389 to R397). -/

namespace Sys2Proof.Machine

/-- Causes (Table 15-4); SENTINEL, PATTERN and FENCE stand with the Sentinel. -/
def causeSoftware : Nat := 0
def causeTileWdt : Nat := 1
def causeRingWdt : Nat := 2
def causeHeadStall : Nat := 3
def causeBelfryWdt : Nat := 4
def causeEscalation : Nat := 5
def causePin : Nat := 8

/-- Domain a with its target lies inside domain b (R394); a domain lies inside itself. -/
def domInside (a ta b tb : Nat) : Bool :=
  (a == b && (ta == tb || decide (domData ≤ a) || a == domBelfry)) ||
  (match b with
   | 2 => a == domTile && ta / 8 == tb
   | 5 => a == domLp && ta / 8 == tb
   | 7 => a == domTile || a == domDie || a == domLp || a == domFp
   | 8 => decide (a < domWarm)
   | 9 => decide (a < domCold)
   | _ => false)

/-- The number of targets of a domain. -/
def domTargets (dom : Nat) : Nat :=
  match dom with
  | 1 => 64
  | 2 => 8
  | 4 => 2048
  | 5 => 256
  | 6 => 32
  | _ => 1

/-- The context of a reset: the die and the unit that its target names (R391). -/
def domContext (dom target cause : Nat) : Context :=
  match dom with
  | 1 => { die := target / 8, cause := cause, ct := some target }
  | 2 => { die := target, cause := cause }
  | 4 => { die := target / 256, cause := cause, lp := some target }
  | 5 => { die := target / 32, cause := cause }
  | 6 => { die := target / 4, cause := cause }
  | _ => { cause := cause }

/-- What a reset does once its capture, if any, is over. -/
def resetEffect (s : State) (dom target : Nat) : State :=
  match dom with
  | 1 => tileLost s target
  | 2 => dieComputeLost s target
  | 3 => s.on Dev.belfryLost
  | 4 => tellLost (s.on fun d => if d.created target then d.retrain target else d)
  | 5 => tellLost (s.on fun d => d.fibreReset target)
  | 6 => tellLost (s.on fun d => d.hbmRetrain target)
  | 7 => s.on fun d => d.dataPathLost.bootDataPath
  | 8 => s.on Dev.bootWarm
  | 9 => coldLost s
  | _ => s

/-! Captures (R396, R397). -/

/-- The HPA of the capture area, and whether a capture can be taken there now. -/
def Dev.capBase (d : Dev) : Nat := d.rdBase .hubCapBaseLo .hubCapBaseHi 0
def Dev.canCapture (d : Dev) : Bool :=
  d.rdB .hubCapBaseHi 0 31 && d.stackState (d.capBase / 2 ^ 36) == stActive &&
  !(d.rdB .hubCapCtrl 0 0 && d.rdB .hubCapStatus 0 31) && !d.flt.running.any fun r => r.capture

/-- The summary record of a capture: its sequence number, domain and cause, sections, and the fault context. -/
def Dev.capRecord (d : Dev) (seq dom cause sections : Nat) (skipped : Bool) : Dev :=
  d.raise hubOrigin 0x0A02 sevError ([seq, dom * 2 ^ 4 + cause, b2n skipped * 2 ^ 31 + sections] ++
    [0, 2, 3, 4, 5].map fun i => d.rdN .hubFaultCtx i)

/-- A capture that is skipped is counted, and the summary record states it. -/
def Dev.capSkip (d : Dev) (dom cause : Nat) : Dev :=
  (d.wrF .hubCapStatus 0 23 16 (min 255 (d.rdF .hubCapStatus 0 23 16 + 1))).capRecord 0 dom cause 0 true

/-- Words written from an HPA up, each in little-endian order. -/
def putWords (m : List Host.Cell) (a : Nat) (ws : List Nat) : List Host.Cell := hbmPutWords m a ws

/-- The registers listed in an image from BAR0 offset `lo` on, `n` bytes: values in force; W1P and WO bits read 0. -/
def Dev.capImage (d : Dev) (lo n : Nat) : List (Nat × Nat) :=
  (d.regs.filterMap fun e =>
    let off := keyOffset e.1
    if lo ≤ off ∧ off < lo + n then
      (keyRow e.1).map fun r => (off - lo, (e.2 &&& ~~~word r.1.zero).toNat)
    else none)

/-- Registers whose reset value is not 0 stand at it where they are not listed. -/
def Dev.capDefaults (d : Dev) (lo n : Nat) : List (Nat × Nat) :=
  catalogue.flatMap fun e =>
    let w := (e.dims.map (·.1)).foldl (· * ·) 1
    if regReset e.reg 0 = 0 then []
    else (upto w).filterMap fun i =>
      let off := regOffset e.reg i
      if lo ≤ off ∧ off < lo + n ∧ (SMap.find? d.regs (rk e.reg i)).isNone then some (off - lo, (regReset e.reg i).toNat) else none

/-- Registers that show other state, as a read shows them; what a read would change stays. -/
def Dev.capViews (d : Dev) (lo n : Nat) : List (Nat × Nat) :=
  (catalogue.filter fun e => viewed.contains e.reg).flatMap fun e =>
    (upto ((e.dims.map (·.1)).foldl (· * ·) 1)).filterMap fun i =>
      let off := regOffset e.reg i
      if lo ≤ off ∧ off < lo + n then some (off - lo, (d.view .belfry e.reg i &&& ~~~word e.zero).toNat) else none

/-- The image of registers from BAR0 offset `lo` on, written at an HPA. -/
def Dev.capRegs (d : Dev) (m : List Host.Cell) (a lo n : Nat) : List Host.Cell :=
  (d.capDefaults lo n ++ d.capImage lo n ++ d.capViews lo n).foldl (fun m e => hbmPutBytes m (a + e.1) (toLE 4 e.2)) m

/-- The header of Table 15-5. -/
def Dev.capHeader (d : Dev) (seq dom cause sections : Nat) : List Byte :=
  let t := d.time.now
  toLE 4 0x43415031 ++ toLE 4 seq ++ toLE 8 d.time.bell ++
    toLE 4 (timeSec t) ++ toLE 4 (timeSec t / 2 ^ 32 % 2 ^ 16) ++ toLE 4 (timeNs t) ++
    toLE 4 (dom * 2 ^ 4 + cause) ++ (upto 8).flatMap (fun i => toLE 4 (d.rdN .hubFaultCtx i)) ++ toLE 4 sections

/-- The ring and group contexts and queue entries of a die (Table 15-6). -/
def capTables (s : State) (die base : Nat) : List Host.Cell :=
  let put := fun (m : List Host.Cell) (t n size off : Nat) =>
    (upto n).foldl (fun m i => hbmPutWords m (base + off + i * size) ((s.dev.readEnt die t 0 die i).map (·.toNat))) m
  put (put (put s.hbm 9 2048 64 0x400000) 8 1024 64 0x420000) 6 8192 32 0x430000

/-- The default queue of node s of a die in a leaf's layout (Table 7-3): weight, start tag and depth; its other words, which a
default queue has none of, are the device's. -/
def Dev.capDflt (d : Dev) (die s : Nat) : Dev × List Byte :=
  let w1 := d.entW 7 0 die s 1
  let weight := if bit (d.entW 7 0 die s 0) 31 then bits w1 25 16 else 1
  let tag := SMap.getD d.sch.dfltS (die * 2048 + s) 0
  let (d, w0) := d.freeBytes 4
  let (d, rest) := d.freeBytes 12
  (d, w0 ++ toLE 4 weight ++ rest ++ toLE 4 (tag % 2 ^ 32) ++ toLE 4 (bits tag 47 32 * 2 ^ 16) ++
    toLE 4 (SMap.getD d.keep.depth (die * 10240 + 8192 + s) 0 % 2 ^ 24))

/-- The default queues of a die from number n on. -/
def Dev.capDflts (d : Dev) (die : Nat) : Nat → Dev × List Byte
  | 0 => (d, [])
  | n + 1 =>
    let (d, bs) := d.capDflts die n
    let (d, q) := d.capDflt die n
    (d, bs ++ q)

/-- The slots of a die (Table 15-6): RESERVED, OPEN while a chunk or a lookup gathers, CLOSED while its result waits for the
Keep, POISONED (08 R230). -/
def Dev.capSlot (d : Dev) (ct i : Nat) : List Byte :=
  let chunk : Option (Nat × Chunk) := d.col.groups.findSome? fun g =>
    (g.2.chunks.find? fun c => c.ct == ct && c.slot == i).map fun c => (g.1, c)
  let st := fun (n : Nat) => (if d.isPoisoned ct i then 4 else n) * 2 ^ 28
  match chunk with
  | some (g, c) =>
    toLE 4 (st 2 + g * 2 ^ 15) ++ toLE 4 c.seq ++ toLE 4 c.chunk ++ toLE 4 c.kids.length ++
      ((upto 64).flatMap fun w => toLE 4 (maskOf ((c.kids.filter fun lp => lp / 32 == w).map fun lp => lp % 32)))
  | none =>
    match d.slot ct i with
    | some (.group g ref) =>
      match (d.grp g).sending.find? fun x => ref != 0 && x.ref == ref with
      | some x => toLE 4 (st 3 + g * 2 ^ 15) ++ toLE 4 x.seq ++ toLE 4 x.chunk ++ toLE 4 x.total
      | none => toLE 4 (st 1 + g * 2 ^ 15)
    | some _ => toLE 4 (st 2)
    | none => toLE 4 (if d.lookupIn ct i then st 2 else 0)

/-- An area whose bytes the spec does not lay out: the device's. -/
def capFree (s : State) (a n : Nat) : State :=
  let (d, bs) := s.dev.freeBytes n
  { s with dev := d, hbm := hbmPutBytes s.hbm a bs }

/-- The parts of a die's section that Table 15-6 lays out. -/
def capDie (s : State) (a die : Nat) : List Host.Cell :=
  let d := s.dev
  let m := d.capRegs s.hbm a (0x1000000 + die * 0x400000) 0x400000
  let m := capTables { s with hbm := m } die a
  ((upto 8).flatMap fun t => (upto 32).map fun i => (t, i)).foldl (fun m e =>
    hbmPutBytes m (a + 0x480000 + (e.1 * 32 + e.2) * 1024) (d.capSlot (die * 8 + e.1) e.2)) m

/-- How many nodes of the second level a die has, one default queue each (07 R187). -/
def capNodes : Nat := 2048

/-- The default queues of a die, in its section. -/
def capQueues (s : State) (a die : Nat) : State :=
  let q := s.dev.capDflts die capNodes
  { s with dev := q.1, hbm := hbmPutBytes s.hbm a q.2 }

/-- A die's section: 0 beside what stands in it; the default queues; and the pending table, the embedding engine's part and the
synchronisation objects, of which the table gives the contents and no layout. -/
def capSection (s : State) (base die : Nat) : State :=
  let a := base + 0x100000 + die * 0x7E0000
  let s := { s with hbm := hbmClear s.hbm a 0x7E0000 }
  let s := { s with hbm := capDie s a die }
  capFree (capQueues s (a + 0x470000) die) (a + 0x4C0000) 0x320000

/-- A capture is written: the header and the sections named (bit 0 the hub, bit 1 + n die n). -/
def capWrite (s : State) (seq dom cause sections : Nat) : State :=
  let base := s.dev.capBase
  let d := s.dev
  let m := hbmClear s.hbm base (if bit sections 0 then 0x100000 else 0x1000)
  let m := if bit sections 0 then d.capRegs m (base + 0x1000) 0 0xFF000 else m
  let m := hbmPutBytes m base (d.capHeader seq dom cause sections)
  let s := { s with hbm := m }
  let s := (upto 8).foldl (fun s n => if bit sections (1 + n) then capSection s base n else s) s
  let wrote := fun (d : Dev) (a n : Nat) => (d.hbmUse a n 1).mend a n
  s.on fun d => (upto 8).foldl (fun d n => if bit sections (1 + n) then wrote d (base + 0x100000 + n * 0x7E0000) 0x7E0000 else d)
    (wrote d base (if bit sections 0 then 0x100000 else 0x1000))

/-- The stack of the capture area takes its writes: it is ACTIVE (Table 12-6) and serves P1 (Table 12-4). -/
def Dev.capServed (d : Dev) : Bool := d.stackState (d.capBase / 2 ^ 36) == stActive && !d.classPaused (d.capBase / 2 ^ 36) 1

/-- CAPTURE_DONE: the capture has ended or hit its bound; nothing of it stands where its stack has meanwhile left ACTIVE or paused
P1, and it is skipped; `sections` are those fully written. The summary record follows,
and the reset. -/
def captureDone (s : State) (dom target sections : Nat) : State :=
  match s.dev.flt.running.find? fun r => r.dom == dom && r.target == target && r.capture with
  | none => s
  | some r =>
    let f := fun (x : Running) => if x = r then { x with capture := false, taken := true } else x
    let ended := fun (d : Dev) => { d with flt := { d.flt with running := d.flt.running.map f } }
    if s.dev.capServed = false then resetEffect (s.on fun d => ended (d.capSkip r.dom r.cause)) r.dom r.target
    else
      let seq := (s.dev.rdF .hubCapStatus 0 15 0 + 1) % 2 ^ 16
      let s := capWrite s seq r.dom r.cause sections
      let s := s.on fun d =>
        let d := (d.wrF .hubCapStatus 0 15 0 seq).wrB .hubCapStatus 0 31 true
        ended ((d.wrB .hubCapStatus 0 30 (d.rdB .hubCapCtrl 0 0)).capRecord seq r.dom r.cause sections false)
      resetEffect s r.dom r.target

/-- CAPTURE_DONE. -/
def execCaptureDone (dom : Fin 10) (target : Nat) (sections : Fin 512) (s : State) : Host.Outcome State Fault Refusal :=
  .next (captureDone s dom target sections)

/-- CAPTURE_RELEASE: HUB_CAP_CTRL.release frees a held capture. -/
def Dev.capRelease (d : Dev) : Dev := (d.wrB .hubCapStatus 0 30 false).wrB .hubCapStatus 0 31 false

/-- CAPTURE_RELEASE. -/
def execCaptureRelease (who : Partner) (s : State) : Host.Outcome State Fault Refusal :=
  .next (s.on fun d => d.ctl who 0x328 fun d => d.capRelease)

/-! Requests (R392, R394). -/

/-- A reset's domain captures, or its request asks for it; RESET_N takes none, and after a cold reset nothing is left to
write to. -/
def wantsCapture (dom cause : Nat) (capture : Bool) : Bool :=
  (capture || dom == domDie || dom == domData || dom == domWarm) && cause != causePin && dom != domCold

/-- A reset begins: what it contains ends as part of it; it captures first, or skips the capture, or acts at once. -/
def resetBegin (s : State) (dom target cause : Nat) (capture latched : Bool) : State :=
  let old := s.dev.flt.running.filter fun r => domInside r.dom r.target dom target
  let s := s.on fun d => { d with flt := { d.flt with running := d.flt.running.filter fun r => !domInside r.dom r.target dom target } }
  let s := s.on fun d =>
    let d := if latched || dom == domCold then d else d.faultCtx (domContext dom target cause)
    d.resetNoted dom cause
  let taken := old.any fun r => r.taken
  let going := old.any fun r => r.capture
  let add := fun (s : State) (cap tk : Bool) =>
    s.on fun d => { d with flt := { d.flt with running := d.flt.running ++ [⟨dom, target, cause, cap, tk⟩] } }
  if dom = domCold then resetEffect s dom target
  else if !wantsCapture dom cause capture || taken then
    resetEffect (add s false taken) dom target
  else if going then add s true false
  else if s.dev.canCapture then add (s.on fun d => d.flushTrigger) true false
  else resetEffect (add (s.on fun d => d.capSkip dom cause) false true) dom target

/-- A domain lies inside one that is in reset: of a sequence that runs, or the data path that PROTECT holds (R394, 18 R463,
R464). -/
def Dev.inReset (d : Dev) (dom target : Nat) : Bool :=
  (d.flt.running.any fun r => domInside dom target r.dom r.target) || (d.protect && domInside dom target domData 0)

/-- A request: dropped inside a reset that runs; a warm chip reset waits while a thermal trip is active (18 R464). -/
def requestReset (s : State) (dom target cause : Nat) (capture latched : Bool) : State :=
  if s.dev.inReset dom target then s.on fun d => d.bump .hubResetDrop 0
  else if dom = domWarm ∧ s.dev.rdB .grdStatus 0 31 = true then
    s.on fun d => { d with flt := { d.flt with waiting := some cause } }
  else resetBegin s dom target cause capture latched

/-- A write of HUB_RESET_CMD with go; in the Recovery Service only warm and cold resets exist (16 R424). -/
def resetCmd (who : Partner) (dom target : Nat) (capture : Bool) (s : State) : State :=
  if !s.dev.granted who 0x310 then s.on fun d => d.ctl who 0x310 id
  else if dom = 0 ∨ domCold < dom ∨ domTargets dom ≤ target ∨ (s.dev.recovery = true ∧ dom < domWarm) then s
  else requestReset s dom target causeSoftware capture false

/-- TILE_RESET. -/
def execTileReset (who : Partner) (ct : Fin 64) (capture : Bool) (s : State) : Host.Outcome State Fault Refusal :=
  .next (resetCmd who domTile ct capture s)

/-- DIE_COMPUTE_RESET. -/
def execDieComputeReset (who : Partner) (die : Fin 8) (capture : Bool) (s : State) : Host.Outcome State Fault Refusal :=
  .next (resetCmd who domDie die capture s)

/-- BELFRY_RESET. -/
def execBelfryReset (who : Partner) (capture : Bool) (s : State) : Host.Outcome State Fault Refusal :=
  .next (resetCmd who domBelfry 0 capture s)

/-- LOGICAL_PORT_RESET. -/
def execLogicalPortReset (who : Partner) (lp : Fin 2048) (capture : Bool) (s : State) : Host.Outcome State Fault Refusal :=
  .next (resetCmd who domLp lp capture s)

/-- FIBRE_PORT_RESET. -/
def execFibrePortReset (who : Partner) (fp : Fin 256) (capture : Bool) (s : State) : Host.Outcome State Fault Refusal :=
  .next (resetCmd who domFp fp capture s)

/-- HBM_STACK_RESET. -/
def execHbmStackReset (who : Partner) (hs : Fin 32) (capture : Bool) (s : State) : Host.Outcome State Fault Refusal :=
  .next (resetCmd who domStack hs capture s)

/-- DATA_PATH_RESET. -/
def execDataPathReset (who : Partner) (capture : Bool) (s : State) : Host.Outcome State Fault Refusal :=
  .next (resetCmd who domData 0 capture s)

/-- WARM_CHIP_RESET. -/
def execWarmChipReset (who : Partner) (capture : Bool) (s : State) : Host.Outcome State Fault Refusal :=
  .next (resetCmd who domWarm 0 capture s)

/-- COLD_RESET. -/
def execColdReset (who : Partner) (capture : Bool) (s : State) : Host.Outcome State Fault Refusal :=
  .next (resetCmd who domCold 0 capture s)

/-- RESET_N asserted for 1 µs: a warm chip reset with cause PIN and no capture (19 R479). -/
def execResetN (s : State) : Host.Outcome State Fault Refusal := .next (requestReset s domWarm 0 causePin false false)

/-- The domain of a reset serves again: after a data-path or warm chip reset at READY or in the Recovery Service, after a
stack's reset once it has trained. -/
def Dev.servesAgain (d : Dev) (dom target : Nat) : Bool :=
  if dom = domStack then d.stackState target != stTraining
  else if domData ≤ dom then d.phase == phReady || d.phase == phRecovery
  else true

/-- RESET_DONE: a reset sequence completes. -/
def Dev.resetDone (d : Dev) (dom target : Nat) : Dev :=
  if (d.flt.running.any fun r => r.dom == dom && r.target == target && !r.capture) && d.servesAgain dom target then
    let d := { d with flt := { d.flt with running := d.flt.running.filter fun r => !(r.dom == dom && r.target == target) } }
    if dom = domBelfry ∧ d.recovery = false then (d.wrB .hubMbxBelfry 0 31 true).wrB .hubMbxBelfry 0 30 false else d
  else d

/-- RESET_DONE. -/
def execResetDone (dom : Fin 10) (target : Nat) (s : State) : Host.Outcome State Fault Refusal :=
  .next (s.on fun d => d.resetDone dom target)

/-- ESCALATION (R395): a tile escalates to its die's compute, a die's compute to the data path. The record of the reset
that follows is its capture's; the fault context names the domain that failed. -/
def escalate (s : State) (dom target : Nat) : State :=
  if !(s.dev.flt.running.any fun r => r.dom == dom && r.target == target) then s
  else
    let s := s.on fun d => d.faultCtx (domContext dom target causeEscalation)
    if dom = domTile then requestReset s domDie (target / 8) causeEscalation false true
    else if dom = domDie then requestReset s domData 0 causeEscalation false true
    else s

/-- ESCALATION. -/
def execEscalation (dom : Fin 10) (target : Nat) (s : State) : Host.Outcome State Fault Refusal := .next (escalate s dom target)

/-! Watchdogs (R389, R390). -/

/-- TILE_WDT: no add and no rounding for the limit. -/
def tileWdt (s : State) (ct : Nat) : State :=
  let d := s.dev
  if d.rdF .cupWdtCfg (ct / 8) 15 0 = 0 ∨ d.tileBusy ct = false ∨ d.inReset domTile ct then s
  else
    let s := s.on fun d => d.trip 0 (ct / 8) ct sevError (some (.cupWdtTrip, ct / 8)) { die := ct / 8, cause := causeTileWdt, ct := some ct }
    requestReset s domTile ct causeTileWdt false true

/-- TILE_WDT. -/
def execTileWdt (ct : Fin 64) (s : State) : Host.Outcome State Fault Refusal := .next (tileWdt s ct)

/-- The context of a ring's current descriptor. -/
def Dev.ringContext (d : Dev) (r idx : Nat) : Context :=
  { die := r / 2048, cause := causeRingWdt, tenant := some (d.rTenant r), ring := some (r, idx)
    group := if d.rGrpEn r then some (d.rGroup r) else none }

/-- The index of the descriptor that the ring watchdog times, if it has not tripped for it: the one that runs, or the
oldest armed collective. -/
def Dev.timed (d : Dev) (r : Nat) : Option Nat :=
  match (d.ring r).run with
  | some x => if x.tripped then none else some x.idx
  | none => match d.ringOps r with
    | o :: _ => if o.tripped then none else some o.idx
    | [] => none

/-- The trip of a ring's descriptor is noted: it trips once. -/
def Dev.noteTrip (d : Dev) (r : Nat) : Dev :=
  match (d.ring r).run with
  | some x => d.setRing r { d.ring r with run := some { x with tripped := true } }
  | none =>
    let g := d.rGroup r
    match (d.grp g).armed with
    | o :: t => d.setGrp g { d.grp g with armed := { o with tripped := true } :: t }
    | [] => d

/-- RING_WDT: the current descriptor has been ACTIVE or SUSPENDING for longer than age_ms. -/
def ringWdt (s : State) (r : Nat) : State :=
  let d := s.dev
  let die := r / 2048
  if d.rdF .rngWdtCfg die 15 0 = 0 ∨ ¬(d.rState r = rActive ∨ d.rState r = rSuspending) then s
  else match d.timed r with
    | none => s
    | some idx =>
      let s := s.on fun d => (d.trip 1 die r sevWarning (some (.rngWdtTrip, die)) (d.ringContext r idx)).noteTrip r
      if d.rdB .rngWdtCfg die 31 then ringCancel s r false else s

/-- RING_WDT. -/
def execRingWdt (ring : Fin 16384) (s : State) : Host.Outcome State Fault Refusal := .next (ringWdt s ring)

/-- The lossless head that waits in the staging of a port and VC and has not tripped. -/
def Dev.stalledHead (d : Dev) (lp vc : Nat) : Option (Nat × Held) :=
  d.keep.pkts.find? fun e => e.2.lp == some lp && e.2.pkt.vc == vc && (e.2.phase == Phase.wait || e.2.phase == Phase.waitEngine) &&
    !e.2.tripped

/-- The memory request that the staging of a port holds, and has not tripped. -/
def Dev.stalledReq (d : Dev) (lp vc : Nat) : Option Handed :=
  if vc = 0 then (d.mem.waiting.find? fun h => h.lp == lp).filter fun h => !h.tripped else none

/-- The watchdog has tripped for a request that is held. -/
def Dev.reqTripped (d : Dev) (h : Handed) : Dev :=
  let f := fun (x : Handed) => if x = h then { x with tripped := true } else x
  { d with mem := { d.mem with waiting := d.mem.waiting.map f } }

/-- HEAD_STALL: a lossless head has waited for longer than stall_us. -/
def headStall (s : State) (lp vc : Nat) : State :=
  let pl := lpPl lp
  let held := s.dev.stalledReq lp vc
  let trips := fun (p : Pkt) (f : Dev → Dev) =>
    if s.dev.rdF .plnWdtCfg pl 15 0 = 0 then s
    else
      let c : Context := { die := lpDie lp, cause := causeHeadStall, op := p.op, tenant := some p.tenant, lp := some lp }
      let t := s.on fun d => f (d.trip 3 (lpDie lp) lp sevWarning (some (.plnWdtTrip, pl)) c)
      if s.dev.rdB .plnWdtCfg pl 31 then tellLost (t.on fun d => d.retrain lp) else t
  match held, s.dev.stalledHead lp vc with
  | some h, _ => trips h.pkt fun d => d.reqTripped h
  | none, some (pid, h) => trips h.pkt fun d =>
    { d with keep := { d.keep with pkts := SMap.insert pid { h with tripped := true } d.keep.pkts } }
  | none, none => s

/-- HEAD_STALL. -/
def execHeadStall (lp : Fin 2048) (vc : Fin 8) (s : State) : Host.Outcome State Fault Refusal := .next (headStall s lp vc)

/-- BELFRY_WDT: Belfry has not written HUB_BWDT_PET within the limit; the third trip within 2^31 bells escalates to a warm
chip reset (R395). -/
def belfryWdt (s : State) : State :=
  let d := s.dev
  if d.rdF .hubBwdtCfg 0 15 0 = 0 ∨ d.rdB .hubMbxBelfry 0 31 = false then s
  else
    let s := s.on fun d => d.trip 4 hubOrigin 0 sevError none { cause := causeBelfryWdt }
    let near := d.flt.trips.filter fun b => decide (d.time.bell < b + 2 ^ 31)
    if 2 ≤ near.length then
      let s := s.on fun d => ({ d with flt := { d.flt with trips := [] } }).faultCtx { cause := causeEscalation }
      requestReset s domWarm 0 causeEscalation false true
    else
      requestReset (s.on fun d => { d with flt := { d.flt with trips := d.time.bell :: near } }) domBelfry 0 causeBelfryWdt false true

/-- BELFRY_WDT. -/
def execBelfryWdt (s : State) : Host.Outcome State Fault Refusal := .next (belfryWdt s)

/-- HUB_BWDT_PET: it restarts the watchdog's time; writes of hosts are ignored (R390). Only a host that is not the owner is
noted as for any control write. -/
def execHubBwdtPet (who : Partner) (s : State) : Host.Outcome State Fault Refusal :=
  .next (s.on fun d => d.ctl who 0x304 id)

end Sys2Proof.Machine
end

