-- ==== Sys2Proof/Machine/Power.lean ====
section
/-! DEFINITION. Power management: exits, tolerances received, throttling, thermal limits and the PROTECT hold
(18_power_thermal.md R455 to R464; 19_host_pins_map.md R480). -/

namespace Sys2Proof.Machine

/-! Exits and tolerances (R456 to R460). -/

/-- UNIT_EXIT_DONE: the unit serves, or is in the shallower state its exit was for. A stack whose interface does not
retrain is fenced with reason TRAIN_FAIL. Stacks that a reset put into self-refresh leave it at its end, and start-up goes
on. -/
def Dev.unitExitDone (d : Dev) (u : Nat) (ok : Bool) : Dev :=
  let hs := u - 2120
  match SMap.find? d.pwr.exits u with
  | some st =>
    if 2120 ≤ u ∧ d.stackState hs = stSelfRefresh ∧ ok = false then
      ({ d with pwr := { d.pwr with states := SMap.erase d.pwr.states u, exits := SMap.erase d.pwr.exits u } }).stackFence
        hs 1 0 sevError
    else d.setPwrState u st
  | none =>
    if 2120 ≤ u ∧ d.stackState hs = stSelfRefresh ∧ d.pwrState u = 0 ∧ d.protect = false then
      let d := if ok then d.wrF .hbmStatus hs 2 0 stActive else d.stackFence hs 1 0 sevError
      if d.recovery then d.recoveryStack else d.bootAdvance
    else d

/-- UNIT_EXIT_DONE. -/
def execUnitExitDone (unit : PwrUnit) (ok : Bool) (s : State) : Host.Outcome State Fault Refusal :=
  .next (s.on fun d => d.unitExitDone (unitNo unit) ok)

/-- LAT_TOL (R459): consumed link-local or for the device; it applies to the port it arrived on while that is ACTIVE. -/
def Dev.latTol (d : Dev) (lp : Nat) (p : Pkt) : Dev :=
  let d := (d.take lp p).1
  if !(p.did == linkLocal || p.did == d.selfDid (lpDie lp)) || !d.nativeActive lp then d
  else
    let t := p.opf % 2 ^ 32
    let d := if bit p.opf 63 then { d with pwr := { d.pwr with laneTol := SMap.insert lp t d.pwr.laneTol } } else d
    let d := if bit p.opf 62 then { d with pwr := { d.pwr with svcTol := SMap.insert lp t d.pwr.svcTol } } else d
    d.tolChanged

/-- LAT_TOL. -/
def execLatTol (lp : Fin 2048) (p : Pkt) (s : State) : Host.Outcome State Fault Refusal := .next (s.on fun d => d.latTol lp p)

/-- HOST_LTR: the Max No-Snoop Latency of a host's LTR capability, as value × scale in ns. -/
def execHostLtr (h : Fin 2) (ns : Nat) (s : State) : Host.Outcome State Fault Refusal :=
  .next (s.on fun d => (d.setHost h { d.host h with ltr := some (min 0xFFFFFFFF ns) }).tolChanged)

/-! Throttling (R461, R462). -/

/-- Table 18-5. -/
def classCap : Nat → Nat
  | 0 => 3600
  | 1 => 3200
  | 2 => 2800
  | 3 => 2400
  | 4 => 2000
  | _ => 1800

/-- The package cap in W. -/
def Dev.cap (d : Dev) : Nat :=
  let c := classCap (d.rdF .hubStraps 0 2 0)
  let b := d.rdF .pwrCfg 0 11 0
  if b = 0 then c else min c b

/-- One throttle step at a bell: it rises above its limit once up_bells bells have passed since the last change, and falls
after down_bells bells in a row below its lower limit. Its state: the step, bells since the last change, bells below. -/
def throttleStep (d : Dev) (x : Nat × Nat × Nat) (above below : Bool) : Nat × Nat × Nat :=
  let (s, since, low) := x
  let up := d.rdF .pwrThrCfg 0 15 8
  let down := d.rdF .pwrThrCfg 0 23 16
  let low := if below then low + 1 else 0
  let later := if since = 0 then 0 else min 256 (since + 1)
  if above ∧ s < 7 ∧ (since = 0 ∨ up ≤ since) then (s + 1, 1, 0)
  else if below ∧ down ≤ low ∧ 0 < s then (s - 1, 1, 0)
  else (s, later, min 256 low)

/-- A reading of a switch-die sensor, signed. -/
def Dev.sensorNow (d : Dev) (k : Nat) : Int := toSigned 8 (d.rdF .pwrSensor k 7 0)

/-- The throttle steps at step 7 of a bell, with the input power averaged over it. -/
def Dev.throttleBell (d : Dev) (watts : Nat) : Dev :=
  let w := min 65535 watts
  let cap := d.cap
  let hyst := d.rdF .pwrThrCfg 0 4 0
  let lim : Int := d.rdF .pwrThermCfg 0 7 0
  let old := d.rdF .pwrStatus 0 31 29
  let dies := (upto 64).map d.sensorNow
  let b := throttleStep d d.pwr.budget (decide (cap < w)) (decide (w * 100 < cap * (100 - hyst)))
  let t := throttleStep d d.pwr.thermal (dies.any fun x => decide (lim < x)) (dies.all fun x => decide (x < lim))
  let s := max b.1 t.1
  let d := { d with pwr := { d.pwr with budget := b, thermal := t } }
  let d := ((d.wrF .pwrStatus 0 31 29 s).wrF .pwrStatus 0 11 0 cap).wrB .pwrStatus 0 28 (s == 7 && decide (cap < w))
  let d := (d.wr .pwrInW 0 (word w)).wr .pwrPeakW 0 (word (max w (d.rdN .pwrPeakW 0)))
  if old < s then (d.bump .pwrThrEvt 0).raise hubOrigin 0x0C02 sevWarning [s, 0, w] else d

/-- Step 7 of a bell: throttling, tolerances and the units' states. -/
def Dev.powerBell (d : Dev) (watts : Nat) : Dev := ((d.throttleBell watts).tolChanged).unitsBell

/-! Thermal limits and PROTECT (R455, R463, R464). -/

/-- Table 18-7: trip and clear level of a sensor. -/
def tripLevel (k : Nat) : Int := if k < 64 then 110 else if k < 80 then 100 else if k < 84 then 110 else 125
def clearLevel (k : Nat) : Int := if k < 64 then 95 else if k < 80 then 85 else if k < 84 then 95 else 110

/-- The hub's events are recorded now. -/
def Dev.hubRecords (d : Dev) : Dev := (SMap.getD d.rcd.queues hubOrigin []).foldl (fun d _ => d.recordWrite hubOrigin) d

/-- The PROTECT hold: sources disabled, shutters closed, the data path in reset, HBM in self-refresh; the trip is counted,
recorded and flushed at once. -/
def Dev.protectEnter (d : Dev) (sensor temp : Nat) : Dev :=
  let d := d.wrB .grdStatus 0 31 true
  if d.protect then d
  else
    let d := d.dataPathLost.sourcesOff
    let d := { d with boot := { d.boot with commit := false } }
    let d := if d.recovery then d else d.setPhase phHbm
    let d := ((d.wrB .pwrStatus 0 27 true).wrB .grdStatus 0 30 true).bump .pwrTripCnt 0
    ((d.raise hubOrigin 0x0C01 sevCritical [sensor, 0, temp]).hubRecords.flushTrigger).flush

/-- Some sensor is at or above its clear level, a rail fault is latched or SYSCLK was lost: only a cold reset ends those. -/
def Dev.tripHeld (d : Dev) : Bool :=
  ((upto 96).any fun k => decide (clearLevel k ≤ d.sensorNow k)) ||
  ((upto 32).any fun hs => decide (90 ≤ d.rdF .hbmStatus hs 31 24)) ||
  ((upto 42).any fun r => d.rdB .pwrRail r 31) || d.rdB .hubClkStatus 0 1

/-- A trip that has cleared: a warm chip reset that waits for it begins. -/
def tripSettle (s : State) : State :=
  if s.dev.rdB .grdStatus 0 31 = false ∨ s.dev.tripHeld = true then s
  else
    let s := s.on fun d => d.wrB .grdStatus 0 31 false
    match s.dev.flt.waiting with
    | some cause => requestReset (s.on fun d => { d with flt := { d.flt with waiting := none } }) domWarm 0 cause false false
    | none => s

/-- A temperature as a register field of 8 bits, from -128 to 127 °C. -/
def tempCode (t : Int) : Nat := ((max (-128) (min 127 t)) % 256).toNat

/-- THERMAL_SENSOR_READ. -/
def sensorRead (s : State) (k : Nat) (temp : Int) : State :=
  let s := s.on fun d =>
    let high := max (toSigned 8 (d.rdF .pwrSensor k 15 8)) temp
    let d := d.wr .pwrSensor k (word (tempCode high * 2 ^ 8 + tempCode temp))
    if tripLevel k ≤ temp then d.protectEnter k (tempCode temp) else d
  tripSettle s

/-- THERMAL_SENSOR_READ. -/
def execThermalSensorRead (k : Fin 96) (temp : Int) (s : State) : Host.Outcome State Fault Refusal :=
  .next (sensorRead s k temp)

/-- HBM_TEMP_READ: the stack's thermal level, and its trip at 105 °C; sensor 96 + hs stands for the stack in the record. -/
def execHbmTempRead (hs : Fin 32) (temp : Fin 256) (s : State) : Host.Outcome State Fault Refusal :=
  .next (tripSettle ((laterGo (s.on fun d => d.hbmTemp hs temp) hs).on fun d =>
    if 105 ≤ temp.val then d.protectEnter (96 + hs.val) temp else d))

/-- A fault that no sensor reports enters PROTECT: what its record names is a free value. -/
def Dev.protectFault (d : Dev) : Dev :=
  let (a, d) := d.free
  let (b, d) := d.free
  d.protectEnter a b

/-- The nominal voltage of an internal rail in mV (Table 18-2); a Cupola rail's follows the clock of the throttle step. -/
def Dev.railNominal (d : Dev) (r : Nat) : Nat :=
  if r < 8 then 750
  else if r < 16 then (if 3 ≤ d.rdF .pwrStatus 0 31 29 then 650 else 750)
  else if r < 17 then 750
  else if r < 25 then 1050
  else if r < 41 then 1000
  else 3300

/-- A reading below 90 % or above 110 % of nominal. -/
def Dev.railBad (d : Dev) (r mv : Nat) : Bool :=
  decide (mv * 10 < d.railNominal r * 9) || decide (d.railNominal r * 11 < mv * 10)

/-- RAIL_FAULT: a rail's monitor reads for 1 µs; outside 90 % to 110 % of nominal that is a fault. -/
def execRailFault (r : Fin 42) (mv : Fin 65536) (s : State) : Host.Outcome State Fault Refusal :=
  .next (s.on fun d =>
    if d.railBad r mv then (d.wr .pwrRail r (word (2 ^ 31 + mv))).protectFault else d.wrF .pwrRail r 15 0 mv)

/-- SYSCLK_LOST (19 R480). -/
def execSysclkLost (s : State) : Host.Outcome State Fault Refusal :=
  .next (s.on fun d => ((d.wrB .hubClkStatus 0 1 true).wrB .hubClkStatus 0 0 false).protectFault)

end Sys2Proof.Machine
end

