-- ==== Sys2Proof/Machine/Update.lean ====
section
/-! DEFINITION. Update operations on the staging area (16_belfry_boot_security.md R418, R422, R423). -/

namespace Sys2Proof.Machine

/-- A write of SEC_UPD_CMD with go: ignored with overrun set while an operation runs. RECOVER_NEXT acts at once; the others
run until UPDATE_DONE. A length outside its range starts nothing. -/
def Dev.updStart (d : Dev) (op len : Nat) : Dev :=
  if d.boot.upd.isSome then d.wrB .secUpdStatus 0 30 true
  else if op = 4 then
    let d := { d with boot := { d.boot with flash := { d.boot.flash with forced := true } } }
    d.wrF .secUpdStatus 0 19 16 0
  else if len = 0 ∨ 2 ^ 27 < len then d
  else
    let d := { d with boot := { d.boot with upd := some ⟨op, len⟩ } }
    ((d.wrB .secUpdStatus 0 31 true).wrF .secUpdStatus 0 19 16 0).wrF .secUpdStatus 0 15 0 0

/-- An update operation that a partner asks for. -/
def Dev.updCmd (d : Dev) (who : Partner) (op len : Nat) : Dev := d.ctl who 0x90028 fun d => d.updStart op len

/-- VERIFY. -/
def execVerify (who : Partner) (len : Nat) (s : State) : Host.Outcome State Fault Refusal :=
  .next (s.on fun d => d.updCmd who 1 len)

/-- VERIFY_WRITE. -/
def execVerifyWrite (who : Partner) (len : Nat) (s : State) : Host.Outcome State Fault Refusal :=
  .next (s.on fun d => d.updCmd who 2 len)

/-- PROVISION. -/
def execProvision (who : Partner) (len : Nat) (s : State) : Host.Outcome State Fault Refusal :=
  .next (s.on fun d => d.updCmd who 3 len)

/-- RECOVER_NEXT. -/
def execRecoverNext (who : Partner) (s : State) : Host.Outcome State Fault Refusal :=
  .next (s.on fun d => d.updCmd who 4 0)

/-- The staged bytes of an operation, read as Belfry writes them there (assumption 164); none where they cannot be read. -/
def stagedBytes (s : State) (len : Nat) : State × Option (List Byte) :=
  match s.dev.stageBase with
  | none => (s, none)
  | some a => if s.dev.usable a len then hbmRead s a len 1 else (s, none)

/-- The staging area is paused, or a write to it waits. -/
def Dev.stageWaits (d : Dev) (len : Nat) : Bool :=
  match d.stageBase with
  | none => false
  | some a => d.usable a len && d.hbmWaits a len 1

/-- The checks of an image that is staged with `len` bytes, under an operator key (Table 16-10). -/
def Dev.stagedCheck (d : Dev) (key img : List Byte) : Nat :=
  if img.length < imgBytes img then resHeader else imageCheck d.boot.flash key img true

/-- The fields of a provisioning record (Table 16-7). -/
def provKey (r : List Byte) : List Byte := slice r 16 32

/-- A provisioning record is accepted: PROVISION_EN, or a token for this device and the next rebinding counter, signed by a
vendor key whose slot is not revoked (R418). -/
def Dev.tokenOk (d : Dev) (r img : List Byte) : Bool :=
  leAt r 0 4 == 0x50524F56 &&
  (d.rdB .secStatus 0 4 ||
    (beAt r 4 8 == deviceId && leAt r 12 4 == d.boot.flash.rebind + 1 &&
     vendorKeyOk d.boot.flash.revoked (imgSlot img) (vendorKey img) && edVerify (vendorKey img) (slice r 0 48) (slice r 48 64)))

/-- An operation ends with a result and its progress in units of 64 KiB. -/
def Dev.updEnd (d : Dev) (result progress : Nat) : Dev :=
  let d := { d with boot := { d.boot with upd := none } }
  ((d.wrB .secUpdStatus 0 31 false).wrF .secUpdStatus 0 19 16 result).wrF .secUpdStatus 0 15 0 progress

/-- The image region is written (R422), or the flash fails on the way, after a free number of units, and holds no valid image. -/
def Dev.flashImage (d : Dev) (img : List Byte) (fail : Bool) : Dev :=
  let units := (imgBytes img + 65535) / 65536
  if fail then
    let (n, d) := d.free
    let d := { d with boot := { d.boot with flash := { d.boot.flash with image := [] } } }
    let d := d.wrF .hubFlsErr 0 15 0 (min 65535 (d.rdF .hubFlsErr 0 15 0 + 1))
    (((d.wrB .secStatus 0 6 false).raise hubOrigin 0x0B03 sevCritical [3, resFlashWrite])).updEnd resFlashWrite (n % (units + 1))
  else
    let n := imgBytes img
    let d := { d with boot := { d.boot with flash := { d.boot.flash with image := img.take n } } }
    ((d.bumpN .hubFlsProgKb 0 (n / 1024)).wrB .secStatus 0 6 true).updEnd 0 units

/-- What a PROVISION comes to with the record and image that are staged (R418). -/
def Dev.provisionEnd (d : Dev) (bs : List Byte) (fail : Bool) : Dev :=
  let img := bs.drop 4096
  if !d.tokenOk bs img then d.updEnd resToken 0
  else
    let e := d.stagedCheck (provKey bs) img
    if e ≠ 0 then d.updEnd e 0
    else
      let used := !d.rdB .secStatus 0 4
      let d := d.flashImage img fail
      if fail then d
      else
        let fl := d.boot.flash
        let fl := { fl with opKey := provKey bs, rebind := fl.rebind + b2n used }
        let d := { d with boot := { d.boot with flash := fl } }
        d.wr .secRebind 0 (word fl.rebind)

/-- What a VERIFY or a VERIFY_WRITE comes to with the image that is staged (R422). -/
def Dev.verifyEnd (d : Dev) (write : Bool) (img : List Byte) (fail : Bool) : Dev :=
  let e := d.stagedCheck d.boot.opKey img
  if e ≠ 0 then d.updEnd e 0 else if write then d.flashImage img fail else d.updEnd 0 0

/-- UPDATE_DONE: the running operation ends, once the staging area can be read; `fail`: the flash could not be erased or
programmed, or did not read back. -/
def updateDone (s : State) (fail : Bool) : State :=
  match s.dev.boot.upd with
  | none => s
  | some u =>
    if s.dev.stageWaits u.len then s
    else match stagedBytes s u.len with
      | (s, none) => s.on fun d => d.updEnd resStageRead 0
      | (s, some bs) => s.on fun d => if u.op = 3 then d.provisionEnd bs fail else d.verifyEnd (u.op == 2) bs fail

/-- UPDATE_DONE. -/
def execUpdateDone (fail : Bool) (s : State) : Host.Outcome State Fault Refusal := .next (updateDone s fail)

end Sys2Proof.Machine
end

