-- ==== Sys2Proof/Machine/HostPorts.lean ====
section
/-! DEFINITION. The PCIe host ports: ownership, port resets, configuration requests, BAR4 and MSI-X
(19_host_pins_map.md R466 to R473), and I3C addresses (16 R431). -/

namespace Sys2Proof.Machine

/-! Ownership (R472, Table 19-3). -/

/-- Ownership is free. -/
def Dev.ownFree (d : Dev) : Dev := d.wr .hubOwn 0 0

/-- CLAIM by host h: taken when free, renewed by its holder; the other host's claim fails. -/
def Dev.claim (d : Dev) (h token : Nat) : Dev :=
  if d.rdB .hubOwn 0 31 && !d.owns h then d.wrB .hubOwnStatus 0 (2 + h) true
  else d.wr .hubOwn 0 (word (2 ^ 31 + h * 2 ^ 30 + token % 2 ^ 16))

/-- RELEASE by host h with its token. -/
def Dev.release (d : Dev) (h token : Nat) : Dev :=
  if d.owns h && d.rdF .hubOwn 0 15 0 == token % 2 ^ 16 then d.ownFree else d

/-- A write of HUB_OWN by its cmd field; CLAIM and RELEASE are the hosts', FORCE_RELEASE is Belfry's. -/
def Dev.ownCmd (d : Dev) (who : Partner) (cmd token : Nat) : Dev :=
  match who.host, cmd with
  | some h, 1 => d.claim h token
  | some h, 2 => d.release h token
  | none, 3 => d.ownFree
  | _, _ => d

/-- CLAIM. -/
def execClaim (who : Partner) (token : Fin 65536) (s : State) : Host.Outcome State Fault Refusal :=
  .next (s.on fun d => d.ownCmd who 1 token)

/-- RELEASE. -/
def execRelease (who : Partner) (token : Fin 65536) (s : State) : Host.Outcome State Fault Refusal :=
  .next (s.on fun d => d.ownCmd who 2 token)

/-- FORCE_RELEASE. -/
def execForceRelease (who : Partner) (s : State) : Host.Outcome State Fault Refusal :=
  .next (s.on fun d => d.ownCmd who 3 0)

/-! Port resets (R470). -/

/-- The unit under way of a descriptor transfers to or from a space. A COPY to REMOTE whose put waits has read its
source. -/
def usesSpace (x : Run) (sp : Nat) : Bool :=
  match dKind x.desc with
  | 0x01 => (dSrcSp x.desc == sp && !(dDstSp x.desc == 4 && x.acc == 1)) || dDstSp x.desc == sp
  | 0x02 | 0x05 => dDstSp x.desc == sp
  | 0x03 | 0x04 | 0x30 => dSrcSp x.desc == sp
  | _ => false

/-- Transfers in flight to or from a host's space fault with HOST. -/
def hostTransfersFault (s : State) (h : Nat) : State :=
  (s.dev.rng.rings.map (·.1)).foldl (fun s r =>
    match (s.dev.ring r).run with
    | some x =>
      if usesSpace x (2 + h) && s.dev.runs r then
        let s := match x.get with
          | some k => s.on fun d => d.endGet (r / 2048 * 8192 + k)
          | none => s
        unitFault s r cHost
      else s
    | none => s) s

/-- The registers of a host port block (Table 19-10); its link status stands unless the link is down. -/
def Dev.hostBlockReset (d : Dev) (h : Nat) (down : Bool) : Dev :=
  let d := d.clear [.hubHpCeCnt, .hubHpUeCnt, .hubHpCtoCnt] h
  let d := (d.clearRange .hubMsixPba (h * 64) 64).clearRange .hubMsixTable (h * 8192) 8192
  if down then d.wr .hubHpStatus h 0 else d

/-- A reset of host h's function; `down`: its link is down, as by PERST or Data Link Down. -/
def hostReset (s : State) (h : Nat) (down : Bool) : State :=
  let s := s.on fun d =>
    let x := d.host h
    let d := (d.setHost h { up := x.up && !down, subsys := x.subsys }).hostBlockReset h down
    let d := d.wr .hubHostCfg h 0
    let d := ((d.clearRange .grdWinBaseLo (h * 8) 8).clearRange .grdWinBaseHi (h * 8) 8).clearRange .grdWinCtl (h * 8) 8
    let d := { d with halves := SMap.keep d.halves fun k => !(k % 512 == Reg.grdWinBaseLo.ctorIdx && k / 512 / 8 == h) }
    if d.owns h then d.ownFree else d
  hostTransfersFault s h

/-- HOST_PORT_RESET. -/
def execHostPortReset (h : Fin 2) (down : Bool) (s : State) : Host.Outcome State Fault Refusal := .next (hostReset s h down)

/-- HOST_LINK_UP (R466): training begins at the end of the ROM phase; `rate` and the width are as negotiated, FLIT mode
runs at 64 GT/s. -/
def Dev.hostLinkUp (d : Dev) (h rate width : Nat) : Dev :=
  if d.phase = 0 ∨ rate = 0 ∨ [1, 2, 4, 8].contains width = false then d
  else
    let d := d.setHost h { d.host h with up := true }
    d.wr .hubHpStatus h (word (2 ^ 31 + b2n (rate == 6) * 2 ^ 30 + rate * 2 ^ 24 + width * 2 ^ 16 + width * 2 ^ 8))

/-- HOST_LINK_UP. -/
def execHostLinkUp (h : Fin 2) (rate : Fin 7) (width : Fin 17) (s : State) : Host.Outcome State Fault Refusal :=
  .next (s.on fun d => d.hostLinkUp h rate width)

/-! MSI-X (R469). -/

/-- A pending vector whose mask is gone is sent. -/
def Dev.msixDeliver (d : Dev) (h vec : Nat) : Dev :=
  if (d.host h).msixEnable && !(d.host h).msixMaskAll && !d.rdB .hubMsixTable (h * 8192 + vec * 4 + 3) 0 &&
      d.rdB .hubMsixPba (h * 64 + vec / 32) (vec % 32) then
    (d.wrB .hubMsixPba (h * 64 + vec / 32) (vec % 32) false).emit (d.msixMsg h vec)
  else d

/-- The pending vectors of a host, ascending. -/
def Dev.msixPending (d : Dev) (h : Nat) : List Nat :=
  (d.regs.filter fun e => e.1 % 512 == Reg.hubMsixPba.ctorIdx && e.1 / 512 / 64 == h).flatMap fun e =>
    (maskBits 32 e.2.toNat).map fun b => e.1 / 512 % 64 * 32 + b

/-- MSIX_UNMASK: the host clears the mask bit of a vector. -/
def Dev.msixUnmask (d : Dev) (h vec : Nat) : Dev := (d.wrB .hubMsixTable (h * 8192 + vec * 4 + 3) 0 false).msixDeliver h vec

/-- MSIX_UNMASK. -/
def execMsixUnmask (h : Fin 2) (vec : Fin 2048) (s : State) : Host.Outcome State Fault Refusal :=
  .next (s.on fun d => d.msixUnmask h vec)

/-! Configuration requests (R466, R467, 16 Table 16-9). -/

/-- The identity of Table 19-1: IDs, class and revision, subsystem, and the serial number. -/
def Dev.identity (d : Dev) (h : Nat) : List Nat :=
  [0x92561F6B, 0x12000001, (d.host h).subsys, d.rdN .secDevIdLo 0, d.rdN .secDevIdHi 0]

/-- A configuration request that is served. -/
def Dev.cfgServe (d : Dev) (h : Nat) (r : CfgReq) : Dev :=
  let x := d.host h
  match r with
  | .identity => d.emit (.config h (some (d.identity h)))
  | .msix en mask =>
    let d := (d.setHost h { x with msixEnable := en, msixMaskAll := mask }).emit (.config h (some []))
    (d.msixPending h).foldl (fun d v => d.msixDeliver h v) d
  | .ltrEnable on => (((d.setHost h { x with ltrEnable := on }).emit (.config h (some []))).tolChanged)
  | .bar4Size log =>
    (d.setHost h { x with bar4Log := if 30 ≤ log ∧ log ≤ 36 then log else x.bar4Log }).emit (.config h (some []))

/-- CONFIGURATION_REQUEST: Configuration Request Retry Status before READY, but not in the Recovery Service. -/
def Dev.configReq (d : Dev) (h : Nat) (r : CfgReq) : Dev :=
  if !(d.host h).up then d
  else if d.isReady || d.recovery then d.cfgServe h r
  else d.emit (.config h none)

/-- CONFIGURATION_REQUEST. -/
def execConfigurationRequest (h : Fin 2) (r : CfgReq) (s : State) : Host.Outcome State Fault Refusal :=
  .next (s.on fun d => d.configReq h r)

/-! BAR4 (R468, 16 R423, R424). -/

/-- What BAR4 maps an offset to: nothing, as while the window is disabled or beyond it, or an HPA; none inside where the
staging area of the Recovery Service does not exist. -/
def Dev.bar4Map (d : Dev) (h off n : Nat) : Option (Option Nat) :=
  if d.recovery then (if off + n ≤ 2 ^ 27 then some (d.stageBase.map (· + off)) else none)
  else if !d.rdB .hubHostCfg h 31 || decide (2 ^ (d.host h).bar4Log < off + n) then none
  else
    let size := 2 ^ (d.host h).bar4Log
    some (some (d.rdBase .hubBar4BaseLo .hubBar4BaseHi h / size * size + off))

/-- BAR4_READ: Unsupported Request while disabled; all ones outside usable memory, counted at the stack (12 Table 12-6);
what an uncorrectable block returns is free. -/
def bar4Read (s : State) (h off n : Nat) : State :=
  match s.dev.bar4Map h off n with
  | none => s.on fun d => (d.bump .hubHpUeCnt h).emit (.bar4 h off none)
  | some none => s.on fun d => d.emit (.bar4 h off (some (List.replicate n 0xFF)))
  | some (some a) =>
    if !s.dev.usable a n then
      s.on fun d => (d.bump .hbmUeCnt (a / 2 ^ 36 % 32)).emit (.bar4 h off (some (List.replicate n 0xFF)))
    else hostRead s h off a n

/-- BAR4_READ. -/
def execBar4Read (h : Fin 2) (off n : Nat) (s : State) : Host.Outcome State Fault Refusal := .next (bar4Read s h off n)

/-- A range shares a byte with the staging area of a running update. -/
def Dev.stageLocked (d : Dev) (a n : Nat) : Bool :=
  d.boot.upd.isSome && (match d.stageBase with
    | some b => decide (a < b + 2 ^ 27) && decide (b < a + n)
    | none => false)

/-- BAR4_WRITE: dropped while disabled, when poisoned, outside usable memory, or within the staging area during an
update. -/
def bar4Write (s : State) (h off : Nat) (bs : List Byte) (poisoned : Bool) : State :=
  match s.dev.bar4Map h off bs.length with
  | none => s.on fun d => d.bump .hubHpUeCnt h
  | some none => s
  | some (some a) =>
    if poisoned then s
    else if !s.dev.usable a bs.length then s.on fun d => d.bump .hbmUeCnt (a / 2 ^ 36 % 32)
    else if s.dev.stageLocked a bs.length then s.on fun d => d.bump .secStageDrop 0
    else hbmPost s a bs 1

/-- BAR4_WRITE. -/
def execBar4Write (h : Fin 2) (off : Nat) (data : List Byte) (poisoned : Bool) (s : State) :
    Host.Outcome State Fault Refusal := .next (bar4Write s h off data poisoned)

/-! I3C (16 R431). -/

/-- DYNAMIC_ADDRESS_ASSIGNMENT: HUB_I3C_STATUS shows the address. -/
def execDynamicAddressAssignment (b : Fin 2) (addr : Fin 128) (s : State) : Host.Outcome State Fault Refusal :=
  .next (s.on fun d => (d.wrB .hubI3cStatus b 31 true).wrF .hubI3cStatus b 22 16 addr)

end Sys2Proof.Machine
end

