-- ==== Sys2Proof/Machine/Validate.lean ====
section
/-! DEFINITION. The checks of commit validation (02_bell_and_time.md R41, R42): the limits that each chapter sets for its
staged registers. Each check answers the keys of the registers that offend; a check that joins several registers answers
every one that takes part. -/

namespace Sys2Proof.Machine

/-- The register at fault, if the condition holds. -/
def offends (r : Reg) (i : Nat) (c : Bool) : List Nat := if c then [rk r i] else []

/-- n lies outside lo to hi. -/
def outside (n lo hi : Nat) : Bool := decide (n < lo) || decide (hi < n)

/-- The filter of an enabled counter names the tenant 0xFFFF, a logical port that is not created, or no unit of its event
(00 R9, 17 Table 17-4). The fibre configuration of a port of another die takes part in the check (R42). -/
def Dev.ocuFltBad (d : Dev) (k : Nat) : List Nat :=
  let ev := d.rdF .ocuSel k 23 18
  let x := d.rdF .ocuFlt k 10 0
  let lps := (decide (2 ≤ ev) && decide (ev ≤ 17)) || (decide (19 ≤ ev) && decide (ev ≤ 27))
  let port := d.rdB .ocuFlt k 14 && lps && !d.created x
  let unit := d.rdB .ocuFlt k 14 && ((ev == 18 && decide (3 < x)) || ((ev == 28 || ev == 31) && decide (7 < x)))
  let tenant := d.rdB .ocuFlt k 15 && d.rdF .ocuFlt k 31 16 == 0xFFFF
  if !d.rdB .ocuSel k 31 || d.ocuSlave k then []
  else offends .ocuFlt k (port || unit || tenant) ++ offends .plnFibCfg (lpFp x) (port && lpDie x != k / 512)

/-- A gate list that rule 07 R201 refuses. -/
def Dev.gateBad (d : Dev) (lp : Nat) : Bool :=
  let n := d.rdF .schGateCfg lp 28 16
  d.rdB .schGateCfg lp 31 && (n == 0 || decide (4096 < d.rdF .schGateCfg lp 11 0 + n) || gateCycle (d.gateList lp) == 0)

/-- Another tenant slot of a die names the tenant of an enabled one, or it names 0xFFFF. -/
def Dev.tenantSlotBad (d : Dev) (r : Reg) (i : Nat) : Bool :=
  let t := d.rdF r i 15 0
  d.rdB r i 31 && (t == 0xFFFF || (upto 64).any fun j =>
    let k := i / 64 * 64 + j
    k != i && d.rdB r k 31 && d.rdF r k 15 0 == t)

/-- Two lanes 0 to 7 of an addressed fibre share a line; or its fibre configuration is not 8 native ports (14 R371). -/
def Dev.circBad (d : Dev) (fp : Nat) : List Nat :=
  let share := fun (hi lo : Nat) => (upto 8).filter fun l => (upto 8).any fun m =>
    m != l && d.rdF .lanCirc (fp * 8 + l) hi lo == d.rdF .lanCirc (fp * 8 + m) hi lo
  if !d.addressed fp then []
  else offends .plnFibCfg fp (d.rdF .plnFibCfg fp 1 0 != 3 || d.rdB .plnFibCfg fp 2) ++
    ((share 3 0 ++ share 7 4).map fun l => rk .lanCirc (fp * 8 + l))

/-- A commit enables a logical port that its fibre does not create (03 R93). -/
def enableBad (d d' : Dev) : List Nat :=
  (d'.regs.filter fun e => e.1 % 512 == Reg.plnLnkCfg.ctorIdx && wbit e.2 0).flatMap fun e =>
    offends .plnLnkCfg (e.1 / 512) (!d.rdB .plnLnkCfg (e.1 / 512) 0 && !d'.created (e.1 / 512))

/-- What the limits of one register's values refuse. The registers of a logical port that is not created are ignored (03 R93;
DEDUCED for the registers of other chapters, assumption 151). -/
def Dev.regBad (d : Dev) (r : Reg) (i : Nat) : List Nat :=
  let f := fun (hi lo : Nat) => d.rdF r i hi lo
  let b := fun (n : Nat) => d.rdB r i n
  match r with
  | .timBellCfg => offends r i (f 2 0 == 7)
  | .plnFibCfg => offends r i (b 3 && b 2)
  | .plnLnkCfg => offends r i (d.created i && f 15 8 == 0)
  | .plnLnkEthCfg => offends r i (d.created i && outside (f 13 0) 64 9216)
  | .plnFwdGenDrain | .plnFwdFlowlet | .tapScrub | .memPeerCfg | .rngCfg => offends r i (f 15 0 == 0)
  | .plnFwdLpCfg => offends r i (d.created i && f 1 0 == 3)
  | .plnLetLpCfg =>
    let g := f 31 16
    offends r i (d.created i && (((b 15 || b 14) && !d.letOn (lpPl i)) ||
      (b 15 && !((d.group 0 g).mcast && (d.group 1 g).mcast))))
  | .kepRsvVc1 | .kepRsvVc5 => offends r i (decide (f 19 0 < 1024))
  | .kepRsvVc6 => offends r i (decide (f 19 0 < 256))
  | .kepRsvVc7 => offends r i (decide (f 19 0 < 64))
  | .kepSpillSize => offends r i (decide (128 < f 7 0) || (f 7 0 != 0 && !d.rdB .kepSpillBaseHi i 31))
  | .kepSpillRate => offends r i (outside (f 11 0) 1 2000)
  | .kepLimCfg => offends r i (outside (f 31 28) 1 8 || f 27 20 == 0 || f 19 12 == 0 || outside (f 11 0) 1 1600)
  | .kepProfCfg => offends r i (decide (12 < f 15 12) || decide (11 < f 3 0))
  | .kepProfGreen | .kepProfYellow => offends r i (decide (f 31 16 < f 15 0))
  | .kepVcwLo => offends r i (f 31 24 == 0 || f 23 16 == 0 || f 15 8 == 0 || f 7 0 == 0)
  | .kepVcwHi => offends r i (f 15 8 == 0 || f 7 0 == 0)
  | .schPortShape => offends r i (d.created i && decide (1600000 < f 21 0))
  | .schPortBurst => offends r i (d.created i && f 23 0 == 0 && d.rdB .schPortShape i 31)
  | .schGateCfg => offends r i (d.created i && d.gateBad i)
  | .plnPolLpCfg => offends r i (d.created i && b 31 && decide (4095 < f 11 0 + 7))
  | .cupCfg => offends r i (!b 0 && d.slotsReserved i != 0)
  | .embRate => offends r i (outside (f 31 16) 1 4000 || outside (f 15 0) 1 4000)
  | .embAdmDflt => offends r i (decide (16384 < f 14 0))
  | .embAdm => offends r i (decide (16384 < f 30 16) || d.tenantSlotBad r i)
  | .memHotCfg => offends r i (decide (f 7 0 < 2))
  | .memTenDflt => offends r i (decide (32768 < f 15 0))
  | .memTen => offends r i (d.tenantSlotBad r i)
  | .hbmCfg => offends r i (f 23 16 == 0 || outside (f 6 0) 10 100)
  | .hbmWeight => offends r i (f 23 16 == 0 || f 15 8 == 0 || f 7 0 == 0)
  | .lanCircCfg => offends r i (f 7 0 == 0)
  | .lanMigCfg => offends r i (f 15 8 == 0 || decide (f 7 0 < 2))
  | .lanMonCfg => offends r i (f 15 8 == 0 || decide (4 < f 2 0))
  | .lanFibCfg => d.circBad i
  | .hubBwdtCfg => offends r i (outside (f 15 0) 10 65535 && f 15 0 != 0)
  | .cupSenCfg => offends r i (f 31 24 == 0 || f 23 16 == 0 || decide (20 < f 4 0))
  | .evrCfg => offends r i (f 15 8 == 0 || decide (6 < f 6 4) || decide (6 < f 2 0))
  | .ocuSel => offends r i (decide (20 < f 28 24) || (b 31 && decide (31 < f 23 18) && !d.ocuSlave i))
  | .ocuFlt => d.ocuFltBad i
  | .ocuBwCfg => offends r i (decide (20 < f 4 0))
  | .ocuTpg => offends r i (b 31 && f 15 0 == 0xFFFF)
  | .pwrCfg => offends r i (f 11 0 != 0 && outside (f 11 0) 1000 3600)
  | .pwrThrCfg => offends r i (f 23 16 == 0 || f 15 8 == 0 || outside (f 4 0) 1 20)
  | .pwrThermCfg => offends r i (outside (f 7 0) 60 105)
  | .pwrUnitCfg => offends r i (f 15 8 == 0)
  | _ => []

/-- What the registers that are not at reset refuse: reset values pass. -/
def Dev.listedBad (d : Dev) : List Nat :=
  d.regs.flatMap fun e =>
    match keyRow e.1 with
    | some (row, i) => if row.stg = 0 then [] else d.regBad row.reg i
    | none => []

/-! Regions (12 R336, R337). -/

/-- A region: the key of its base register, its base HPA, its size. -/
abbrev Region : Type := Nat × Nat × Nat

/-- The region of a base pair, if it is allocated. -/
def Dev.region (d : Dev) (lo hi : Reg) (i size : Nat) : List Region :=
  if d.rdB hi i 31 then [(rk lo i, d.rdBase lo hi i, size)] else []

/-- Two regions share a byte. -/
def regionsMeet (x y : Region) : Bool :=
  decide (0 < x.2.2) && decide (0 < y.2.2) && decide (x.2.1 < y.2.1 + y.2.2) && decide (y.2.1 < x.2.1 + x.2.2)

/-- A region is aligned to `align`, lies in usable memory of one ACTIVE stack (12 R336), in a stack of `die` if one is named, and overlaps
none of the others. -/
def Dev.regionBad (d : Dev) (align : Nat) (die : Option Nat) (others : List Region) (x : Region) : List Nat :=
  let home := match die with
    | some n => x.2.1 / 2 ^ 36 / 4 == n
    | none => true
  if x.2.1 % align == 0 && home && d.stackState (x.2.1 / 2 ^ 36) == stActive && d.usable x.2.1 x.2.2 && !others.any (regionsMeet x) then [] else [x.1]

/-- The LETs of every pipeline. -/
def Dev.lets (d : Dev) : List Region := (upto 64).flatMap fun pl => d.region .plnLetBaseLo .plnLetBaseHi pl (2 ^ 30)

/-- What the regions of a die refuse (05 R141, 06 R177, 09 R258, 11 R319, 15 R408). -/
def Dev.dieRegionsBad (d : Dev) (n : Nat) : List Nat :=
  let lets := d.lets
  let mine := (upto 8).flatMap fun k => d.region .plnLetBaseLo .plnLetBaseHi (n * 8 + k) (2 ^ 30)
  let spill := d.region .kepSpillBaseLo .kepSpillBaseHi n (d.rdF .kepSpillSize n 7 0 * 2 ^ 30)
  let col := d.region .colRecBaseLo .colRecBaseHi n (512 * 1024)
  let pmap := d.region .memPmapBaseLo .memPmapBaseHi n (2 ^ 23)
  let sen := d.region .cupSenBaseLo .cupSenBaseHi n (2 ^ 26)
  (mine.flatMap fun x => d.regionBad (2 ^ 30) (some n) (lets.filter fun y => y.1 != x.1) x) ++
  spill.flatMap (d.regionBad (2 ^ 30) (some n) mine) ++
  col.flatMap (d.regionBad 4096 (some n) (mine ++ spill)) ++
  pmap.flatMap (d.regionBad (2 ^ 23) (some n) (mine ++ spill ++ col)) ++
  sen.flatMap (d.regionBad (2 ^ 21) none (mine ++ spill ++ col ++ pmap))

/-- What the regions of the hub refuse: the capture area and the staging area (15 R397, 16 R422). -/
def Dev.hubRegionsBad (d : Dev) : List Nat :=
  (d.region .hubCapBaseLo .hubCapBaseHi 0 (2 ^ 26)).flatMap (d.regionBad (2 ^ 26) none []) ++
  (d.region .secStageBaseLo .secStageBaseHi 0 (2 ^ 27)).flatMap (d.regionBad (2 ^ 21) none [])

/-- A region in use keeps its base and stays allocated: the base pair of `d'` differs from that of `d`. -/
def baseMoves (d d' : Dev) (lo hi : Reg) (i : Nat) : Bool :=
  d.rdBase lo hi i != d'.rdBase lo hi i || d.rdB hi i 31 != d'.rdB hi i 31

/-- Regions of a die in use that the commit would move or shrink (06 R177, 09 R258, 11 R319, 12 R337). -/
def movesBad (d d' : Dev) (n : Nat) : List Nat :=
  let cells := SMap.getD d.keep.spilled n 0
  offends .kepSpillBaseLo n (cells != 0 && baseMoves d d' .kepSpillBaseLo .kepSpillBaseHi n) ++
  offends .kepSpillSize n (cells != 0 && decide (d'.rdF .kepSpillSize n 7 0 < d.rdF .kepSpillSize n 7 0)) ++
  offends .colRecBaseLo n (baseMoves d d' .colRecBaseLo .colRecBaseHi n && d.col.groups.any fun g =>
    groupDie g.1 == n && (d.gState g.1 == gResident || d.gState g.1 == gBroken)) ++
  offends .memPmapBaseLo n (d.rdN .memPmapCount n != 0 && baseMoves d d' .memPmapBaseLo .memPmapBaseHi n)

/-! Checks that join registers. -/

/-- Registers of the eight dies that must agree. -/
def Dev.disagree (d : Dev) (rs : List Reg) : List Nat :=
  if (upto 8).all fun n => rs.all fun r => d.rd r n == d.rd r 0 then [] else (upto 8).flatMap fun n => rs.map fun r => rk r n

/-- The identity (04 R96). -/
def Dev.selfBad (d : Dev) : List Nat :=
  d.disagree [.plnFwdSelf] ++ (upto 8).flatMap fun n => offends .plnFwdSelf n (d.rdF .plnFwdSelf n 19 0 == 0xFFFFF)

/-- A generation would leave IDLE with broadcast writes to it queued (04 R113). -/
def genBad (d d' : Dev) (n : Nat) : List Nat :=
  let cur := d'.rdF .plnFwdGen n 0 0
  offends .plnFwdGen n ([0, 1].any fun x =>
    d.genState n x == 0 && (cur == x || d'.rdB .plnFwdGen n 1) && d.tab.bcQueue.any fun c => decide (c.table ≤ 2) && c.gen == x)

/-- The pools of a die and the credits of its created native ports (06 R151). -/
def Dev.poolsBad (d : Dev) (n : Nat) : List Nat :=
  let pool := d.rdF .kepCrdPool n 19 0
  let native := fun lp => d.created lp && !d.isEth lp
  let adv := (d.regs.filter fun e => e.1 % 512 == Reg.plnLnkCrdAdv.ctorIdx && e.1 / 512 / 2048 == n && native (e.1 / 512 / 8)).map
    fun e => fld e.2 15 0
  let first := (((upto 256).map (n * 256 + ·)).filter native).take 1
  offends .kepCrdPool n (decide (d.poolSize n .shared < 65536)) ++
  if pool < adv.sum then rk .kepCrdPool n :: first.map fun lp => rk .plnLnkCrdAdv (lp * 8) else []

/-- The port of a valid PEER window is created, on a Rack fibre (11 R288). -/
def Dev.windowsBad (d : Dev) : List Nat :=
  (d.windows.filter fun e => winValid e.2 && winTarget e.2 == 1).flatMap fun e =>
    let lp := winPeer e.2
    offends .plnFibCfg (lpFp lp) (!d.created lp || !d.isRack lp)

/-- Two enabled pages of the chip name one tenant (17 R449). -/
def Dev.pagesBad (d : Dev) : List Nat :=
  let on := (d.regs.filter fun e => e.1 % 512 == Reg.ocuTpg.ctorIdx && wbit e.2 31).map fun e => (e.1 / 512, fld e.2 15 0)
  (on.filter fun x => on.any fun y => y.1 != x.1 && y.2 == x.2).map fun x => rk .ocuTpg x.1

/-- Every register that offends with the values of `d'` in force, at the state `d`. -/
def commitBad (d d' : Dev) : List Nat :=
  d'.listedBad ++ enableBad d d' ++ d'.selfBad ++ d'.disagree [.ocuFabBaseLo, .ocuFabBaseHi] ++ d'.windowsBad ++ d'.pagesBad ++
  d'.hubRegionsBad ++ (upto 8).flatMap fun n => genBad d d' n ++ d'.poolsBad n ++ d'.dieRegionsBad n ++ movesBad d d' n

/-- Each named domain with an offending register, and the lowest offset of its own (R42). -/
def verdict (bad : List Nat) (mask : Nat) : List (Nat × Nat) :=
  let offs := bad.map keyOffset
  (maskBits 9 mask).filterMap fun dom =>
    match offs.filter fun o => offDomain o == dom with
    | [] => none
    | o :: os => some (dom, os.foldl min o)

end Sys2Proof.Machine
end

