-- ==== Sys2Proof/Machine/Commit.lean ====
section
/-! DEFINITION. The end of commit validation and what a commit does when it applies (02_bell_and_time.md R38 to R43). -/

namespace Sys2Proof.Machine

/-! Circuits and sources that a commit will switch (14 R373, R385). -/

/-- What a commit changes: catalogue row, index and captured value. -/
abbrev Change : Type := RegDef × Nat × Word

/-- The registers that a commit changes, with the staged bits as captured. -/
def Dev.commitChanges (d : Dev) (c : Commit) : List Change :=
  c.captured.filterMap fun e =>
    match keyRow e.1 with
    | some (row, i) => if mixWord row.stg e.2 (d.rd row.reg i) = d.rd row.reg i then none else some (row, i, e.2)
    | none => none

/-- The captured values in force. -/
def Dev.withChanges (d : Dev) (ch : List Change) : Dev :=
  ch.foldl (fun d x => d.wr x.1.reg x.2.1 (mixWord x.1.stg x.2.2 (d.rd x.1.reg x.2.1))) d

/-- The indices of a register that the changes name and that a condition accepts. -/
def changed (ch : List Change) (r : Reg) (p : Nat → Bool) : List Nat :=
  (ch.filter fun x => x.1.reg == r && p x.2.1).map fun x => x.2.1

/-- The ports whose circuit a commit switches: their fibre is in addressed mode before and after it. -/
def circuitPorts (d d' : Dev) (ch : List Change) : List Nat :=
  changed ch .lanCirc fun i => d.addressed (i / 8) && d'.addressed (i / 8)

/-- The fibres that a commit moves to another source than the one in use. -/
def sourceFibres (d d' : Dev) (ch : List Change) : List Nat :=
  changed ch .lanFibCfg fun fp => d.rdB .lanFibCfg fp 8 != d'.rdB .lanFibCfg fp 8 && d.srcUsed fp % 2 != d'.rdF .lanFibCfg fp 8 8

/-- HOLD to every ACTIVE port of a fibre, naming bell h and 8 µs. -/
def Dev.holdPorts (d : Dev) (fp h : Nat) : Dev :=
  ((upto 8).map fun i => fp * 8 + i).foldl (fun d lp =>
    if d.created lp && d.lnkState lp = 5 then d.sendLaneCtrl lp 6 0 0 80 h 0 else d) d

/-- A commit pending for a bell is led in, for those of its switches whose lead the interval from bell `from'` + 1 to
`now` begins: live bits cleared, HOLDs sent. -/
def Dev.leadIn (d : Dev) (c : Commit) (from' now : Nat) : Dev :=
  let ch := d.commitChanges c
  let d' := d.withChanges ch
  let due := fun (lead : Nat) => decide (from' + lead < c.target) && decide (c.target ≤ now + lead)
  let ls := (circuitPorts d d' ch).filter fun lp => due (d.rdF .lanCircCfg (lp / 128) 7 0)
  let fs := (sourceFibres d d' ch).filter fun fp => due (d.rdF .lanMigCfg (fp / 16) 7 0)
  let d := ls.foldl (fun d lp => d.wr .plnFwdLpStatus lp 0) d
  fs.foldl (fun d fp => d.holdPorts fp c.target) d

/-- The ports whose live bit a pending commit's circuit switch holds clear. -/
def Dev.circuitHeld (d : Dev) : List Nat :=
  (d.time.commits.filter (·.pending)).flatMap fun c =>
    let ch := d.commitChanges c
    (circuitPorts d (d.withChanges ch) ch).filter fun lp => decide (c.target ≤ d.time.bell + d.rdF .lanCircCfg (lp / 128) 7 0)

/-! The end of validation (R41, R42). -/

/-- A joint commit fails: the domains listed report the error with their offset, the others PEER_FAIL, and the whole
commit is discarded; its captured shadows are gone with it (R43). -/
def Dev.commitFailed (d : Dev) (c : Commit) (own : List (Nat × Nat)) (err : Nat) (record : Bool) : Dev :=
  let d := { d with time := { d.time with commits := d.time.commits.filter fun x => x.mask != c.mask } }
  let d := d.eachDom c.mask fun d dom =>
    match own.find? fun x => x.1 == dom with
    | some x => ((d.cmtStatus dom cmtFailed err).cmtErrAddr dom x.2).cmtBell dom d.time.bell
    | none => ((d.cmtStatus dom cmtFailed errPeerFail).cmtErrAddr dom 0).cmtBell dom d.time.bell
  match own with
  | x :: _ => if record then d.cmtRecord c.mask err x.2 c.target else d
  | [] => d

/-- A commit passes: it is pending for its target, or for the next bell where the target is 0; leads that have begun
already begin at once. -/
def Dev.commitPends (d : Dev) (c : Commit) : Dev :=
  let target := if c.target = 0 then d.time.bell + 1 else c.target
  let c' := { c with target := target, pending := true }
  let d := { d with time := { d.time with commits := d.time.commits.map fun (x : Commit) => if x.mask = c.mask then c' else x } }
  let d := d.eachDom c.mask fun d dom => (d.cmtStatus dom cmtPending 0).cmtBell dom target
  d.leadIn c' 0 d.time.bell

/-- A CONFIG commit that fails sends start-up to the Recovery Service; after a data-path reset nothing more is applied
(16 R416, R419). -/
def Dev.bootCommitFailed (d : Dev) (c : Commit) : Dev :=
  if !d.boot.commit || c.mask != 0x1FF then d
  else if d.boot.dataPath then
    { d with boot := { d.boot with commit := false, stuck := true } }.raise hubOrigin 0x0B03 sevCritical [4, 0]
  else d.recoveryEnter resConfig

/-- COMMIT_VALIDATION of the joint commit that names a domain. -/
def Dev.commitValidated (d : Dev) (dom : Nat) : Dev :=
  match d.time.commits.find? fun c => bit c.mask dom && !c.pending with
  | none => d
  | some c =>
    let doms := maskBits 9 c.mask
    match c.doom with
    | .cancelled => d.commitFailed c ((doms.filter (bit c.named)).map fun x => (x, 0)) errCancelled false
    | .renumbered => d.commitFailed c (doms.map fun x => (x, 0)) errRenumbered true
    | .none =>
      let bad := verdict (commitBad d (d.withChanges (d.commitChanges c))) c.mask
      if bad.isEmpty then d.commitPends c else (d.commitFailed c bad errInvalid true).bootCommitFailed c

/-- COMMIT_VALIDATION. -/
def execCommitValidation (dom : Fin 9) (s : State) : Host.Outcome State Fault Refusal :=
  .next (s.on fun d => d.commitValidated dom)

/-! A commit applies (R45 step 1). -/

/-- What later steps of the bell do for the commits it applied: dies whose PLN_FWD_GEN was committed, ports that switch
circuits, fibres that switch sources, and whether the bell period changed. -/
structure BellWork where
  gens : List Nat := []
  circuits : List Nat := []
  sources : List Nat := []
  renumber : Bool := false

/-- A port that a commit disables goes out of service (03 R93). -/
def Dev.portOut (d : Dev) (lp : Nat) : Dev :=
  if d.isEth lp then
    let d := d.pcsDown lp
    d.setPort lp { d.port lp with downBy := .admin }
  else d.adminDown lp true

/-- Every port of a fibre goes to DOWN (03 R93). DESIGN CHOICE (assumption 45): Table 3-14 has no reason for it, so the
LINK_FAIL record of a port that leaves ACTIVE or training carries reason 0, and fail_reason stays as it is. -/
def Dev.fibreOut (d : Dev) (fp : Nat) : Dev :=
  ((upto 8).map (fp * 8 + ·)).foldl (fun d lp =>
    if d.isEth lp then d.pcsDown lp else if d.lnkState lp = lnkDown then d else d.linkToDown lp 0 .reset) d

/-- A change of mode frees the spares of a fibre (Table 14-1: in addressed mode lane 8 is unused and parked). -/
def Dev.sparesFreed (d : Dev) (fp : Nat) : Dev :=
  [0, 1].foldl (fun d dir => (d.setSpare fp dir 15).park fp dir 8) d

/-- A spare migration of a fibre ends (14 R384). -/
def Dev.migEnds (d : Dev) (fp : Nat) : Dev := (d.migAbort fp).rxMigDrop fp

/-- Rings of a fibre follow its ports: those of no enabled port are parked, needed ones on another line than theirs are tuned. -/
def Dev.relight (d : Dev) (fp : Nat) (retune : Bool) : Dev :=
  let d := (upto 8).foldl (fun d pos => [0, 1].foldl (fun d dir =>
    let lane := d.laneOf fp dir pos
    if !d.posNeeded fp pos then d.park fp dir lane
    else if retune && d.ringSt (ringNo fp dir lane) != stDark &&
        d.rdF .lanLaneStatus (ringNo fp dir lane) 27 24 != d.laneLine fp dir lane then d.tune fp dir lane
    else d) d) d
  (d.lightFibre fp).eyeEval fp

/-- The ports of a fibre whose configuration changed leave DOWN at once where the new values create them (03 R93, R487). -/
def Dev.fibreIn (d : Dev) (fp : Nat) : Dev :=
  let d := d.relight fp true
  ((upto 8).map (fp * 8 + ·)).foldl (fun d lp =>
    (d.setPort lp { d.port lp with downBy := if d.created lp then .reset else .admin }).leaveDown lp) d

/-- A port that a commit enables may leave DOWN, and is new to service (03 R487, 04 R119). -/
def Dev.portIn (d : Dev) (lp : Nat) : Dev :=
  let d := d.setPort lp { d.port lp with served := false }
  if d.lnkState lp = lnkDown then (d.setPort lp { d.port lp with downBy := .reset }).leaveDown lp else d

/-- The LFSRs of a die's pipelines are loaded from its seed (04 R105, 06 R161). -/
def Dev.reseed (d : Dev) (die : Nat) : Dev :=
  let seed := d.rdN .plnFwdHashSeed die
  (upto 8).foldl (fun d k =>
    let pl := die * 8 + k
    { d with fwd := { d.fwd with lfsr := SMap.insert pl (max 1 seed) d.fwd.lfsr },
             keep := { d.keep with wredLfsr := SMap.insert pl (max 1 (rev32 seed)) d.keep.wredLfsr } }) d

/-- What one changed register does at once; `old`: the value before. -/
def Dev.changeActs (d : Dev) (r : Reg) (i : Nat) (old : Word) : Dev :=
  match r with
  | .plnFwdHashSeed => d.reseed i
  | .ocuSel | .ocuFlt => d.ocuReset i
  | .ocuBwCfg => d.bwReset i
  | .ocuTpg => if fld old 15 0 = d.rdF .ocuTpg i 15 0 then d else d.pageReset i
  | .schPortShape | .schPortBurst =>
    { d with sch := { d.sch with
      portTok := SMap.insert i (Bucket.full (d.rdF .schPortBurst i 23 0) d.time.now) d.sch.portTok } }
  | .plnLetBaseLo | .plnLetBaseHi => { d with tab := { d.tab with letCache := SMap.erase d.tab.letCache i } }
  | .memPmapBaseLo | .memPmapBaseHi => d.pmapCacheSet i fun _ => []
  | .lanElsCfg => d.elsEnable i
  | .pwrLatAdv => (d.portsSeen.filter d.nativeActive).foldl (fun d lp => d.sendLatTol lp) d
  | _ => d

/-- The LETs and page-map copies that the last CONFIG phase allocates are cleared before the first port is enabled
(05 R123). -/
def newTablesCleared (s : State) (old : Dev) : State :=
  let pls := (upto 64).filter fun pl => s.dev.letOn pl && baseMoves old s.dev .plnLetBaseLo .plnLetBaseHi pl
  let dies := (upto 8).filter fun n => s.dev.pmapOn n && baseMoves old s.dev .memPmapBaseLo .memPmapBaseHi n
  dies.foldl pmapCleared (pls.foldl letCleared s)

/-- A commit of start-up has applied: the next phase may begin. -/
def bootCommitDone (s : State) (c : Commit) (old : Dev) : State :=
  if !s.dev.boot.commit || c.mask != 0x1FF then s
  else
    let s := if s.dev.boot.phases = 3 then newTablesCleared s old else s
    s.on fun d => ({ d with boot := { d.boot with commit := false } }).bootAdvance

/-- A commit applies at its bell (R40, R43): the captured values are in force, and what changed acts. -/
def applyCommit (s : State) (w : BellWork) (c : Commit) : State × BellWork :=
  let d0 := s.dev
  let ch := d0.commitChanges c
  let d1 := d0.withChanges ch
  let modes := changed ch .lanFibCfg fun fp => d0.addressed fp != d1.addressed fp
  let fibs := ((changed ch .plnFibCfg fun _ => true) ++ modes).eraseDups
  let cut := ((changed ch .plnFibCfg fun _ => true) ++ (changed ch .lanFibCfg fun _ => true) ++
    (circuitPorts d0 d1 ch).map lpFp).eraseDups
  let offs := changed ch .plnLnkCfg fun lp => d0.rdB .plnLnkCfg lp 0 && !d1.rdB .plnLnkCfg lp 0
  let ons := changed ch .plnLnkCfg fun lp => !d0.rdB .plnLnkCfg lp 0 && d1.rdB .plnLnkCfg lp 0
  let d := { d0 with time := { d0.time with commits := d0.time.commits.filter fun x => x.mask != c.mask } }
  let d := fibs.foldl Dev.fibreOut (offs.foldl Dev.portOut (cut.foldl Dev.migEnds d))
  let d := ch.foldl (fun d x => d.changeActs x.1.reg x.2.1 (d0.rd x.1.reg x.2.1)) (d.withChanges ch)
  let d := ons.foldl Dev.portIn d
  let d := ((offs ++ ons).map lpFp).eraseDups.foldl (fun d fp => d.relight fp false) d
  let d := fibs.foldl Dev.fibreIn (modes.foldl Dev.sparesFreed d)
  let d := d.eachDom c.mask fun d dom => (d.cmtStatus dom cmtApplied 0).cmtBell dom d.time.bell
  let w' : BellWork := {
    gens := w.gens ++ changed ch .plnFwdGen fun _ => true
    circuits := w.circuits ++ circuitPorts d0 d1 ch
    sources := w.sources ++ sourceFibres d0 d1 ch
    renumber := w.renumber || !(changed ch .timBellCfg fun _ => true).isEmpty }
  (bootCommitDone { s with dev := d } c d0, w')

/-- A circuit switch at step 4 (14 R373): the port trains again on its new lines. -/
def Dev.circuitSwitch (d : Dev) (lp : Nat) : Dev :=
  let fp := lpFp lp
  let st := d.lnkState lp
  let d := d.bump .lanCircSw fp
  let d := if st = lnkDown ∨ st = lnkHoldoff then d else d.linkToDown lp 0 .reset
  let d := { d with lan := { d.lan with circuit := lp :: d.lan.circuit.filter (· != lp) } }
  let d := [0, 1].foldl (fun d dir =>
    if d.ringSt (ringNo fp dir (lp % 8)) = stDark then d else d.tune fp dir (lp % 8)) d
  d.leaveDown lp

/-- A committed change of source at step 4 (14 R370, R385): nothing for a fibre that uses the named source already; dark
where neither source is READY or the new one is STARTING. A fibre whose source is READY stays with it where the new one is
ABSENT, DISABLED or at FAULT, since Table 14-2 has its fibres use the other. -/
def Dev.sourceSwitch (d : Dev) (fp : Nat) : Dev :=
  let want := fp / 16 * 2 + d.rdF .lanFibCfg fp 8 8
  let st := d.srcState want
  if d.srcUsed fp = want || (st != 2 && st != 3 && d.srcReady (d.srcUsed fp)) then
    { d with lan := { d.lan with planned := d.lan.planned.filter fun e => e.1 != fp || decide (d.time.bell < e.2) } }
  else
    let d := d.planNow fp
    if d.srcReady (d.srcUsed fp) then d else (upto 9).foldl (fun d lane => d.park fp 0 lane) d

/-- Every other commit is discarded after the period changed (R38). -/
def Dev.renumbered (d : Dev) : Dev :=
  let pend := d.time.commits.filter (·.pending)
  let d := pend.foldl (fun d c => d.commitFailed c ((maskBits 9 c.mask).map fun x => (x, 0)) errRenumbered true) d
  { d with time := { d.time with commits := d.time.commits.map fun c =>
      if c.doom = .none then { c with doom := .renumbered } else c } }

end Sys2Proof.Machine
end

