-- ==== Sys2Proof/Machine/Idle.lean ====
section
/-! DEFINITION. What the device does while no command waits (02 R32, assumption 5), and what it counts by switch cycles
(17 Table 17-4). -/

namespace Sys2Proof.Machine

/-- n switch cycles pass: the Oculus events CYCLES, CRD_ZERO and HEAD_WAIT. -/
def Dev.cyclesPass (d : Dev) (n : Nat) : Dev :=
  if !d.regs.any fun e => e.1 % 512 == Reg.ocuSel.ctorIdx then d
  else
    let d := (upto 8).foldl (fun d die => d.ocu die 0 {} n) d
    let starved := d.keep.slots.filter fun x => !d.isEth (x.1 / 8) && d.rdN .plnLnkCrdAvail x.1 == 0
    let d := starved.foldl (fun d x => d.ocu (lpDie (x.1 / 8)) 13 { lp := some (x.1 / 8), vc := some (x.1 % 8) } n) d
    let heads := d.keep.pkts.filter fun x => x.2.phase == Phase.wait || x.2.phase == Phase.waitEngine
    let d := heads.foldl (fun d x => match x.2.lp with
      | some lp => d.ocu (lpDie lp) 14 { lp := some lp, vc := some x.2.pkt.vc } n
      | none => d) d
    (d.mem.waiting.map (·.lp)).eraseDups.foldl (fun d lp => d.ocu (lpDie lp) 14 { lp := some lp, vc := some 0 } n) d

/-- One switch cycle without its bell: fabric time advances by the increment in force. -/
def idle (s : State) : State :=
  s.on fun d => { d with time := { d.time with now := (d.time.now + d.time.inc) % timeMod } }.cyclesPass 1

end Sys2Proof.Machine
end

