-- ==== Sys2Proof/Machine/Reclaim.lean ====
section
/-! DEFINITION. Tenant reclaim (13_rings_and_tenants.md R361 to R363, R366; 10 R282, 11 R315). -/

namespace Sys2Proof.Machine

/-- Phases of HUB_RECLAIM_STATUS (Table 13-15). -/
def phDrain : Nat := 1
def phQuiesce : Nat := 2
def phScrub : Nat := 3

def Dev.reclaimPhase (d : Dev) : Nat := d.rdF .hubReclaimStatus 0 27 24

/-- HUB_RECLAIM_START: the scrub and tenant fields are written; a start while one runs sets overrun, a bad tenant sets
err, and otherwise a reclaim waits for the next bell. -/
def Dev.reclaimStart (d : Dev) (w : Word) : Dev :=
  let t := fld w 15 0
  let d := d.wr .hubReclaimCmd 0 (putFld (putFld (d.rd .hubReclaimCmd 0) 30 30 (fld w 30 30)) 15 0 t)
  if !wbit w 31 then d
  else if d.rdB .hubReclaimStatus 0 31 then d.wrB .hubReclaimStatus 0 30 true
  else if t = 0 ∨ t = 0xFFFF then d.wrF .hubReclaimStatus 0 29 28 1
  else
    let d := (d.wrF .hubReclaimStatus 0 29 28 0).wrF .hubReclaimStatus 0 15 0 t
    { d.wrB .hubReclaimStatus 0 31 true with rng := { d.rng with reclaim := some ⟨t, wbit w 30, false, 0, false⟩ } }

/-- HUB_RECLAIM_START: a write of HUB_RECLAIM_CMD. -/
def execHubReclaimStart (who : Partner) (w : Word) (s : State) : Host.Outcome State Fault Refusal :=
  .next (s.on fun d => d.ctl who 0x200 fun d => d.reclaimStart w)

/-- The valid rings of a tenant. -/
def Dev.ringsOf (d : Dev) (tenant : Nat) : List Nat :=
  (upto 8).flatMap fun die => ((d.entries 9 0 die).map fun e => die * 2048 + e.1).filter fun r =>
    d.rValid r && d.rTenant r == tenant

/-- reclaimed of a ring (Table 13-1). -/
def Dev.setReclaimed (d : Dev) (r : Nat) (v : Bool) : Dev := d.setRf r 9 27 27 (b2n v)

/-- Bell b: windows close, embedding refusals begin, rings are marked and suspended, groups end (Table 13-12). -/
def reclaimBegin (s : State) : State :=
  match s.dev.rng.reclaim with
  | none => s
  | some x =>
    if x.begun then s
    else
      let t := x.tenant
      let shut := (s.dev.windows.filter fun e => winValid e.2 && winTenant e.2 == t).map (·.1)
      let s := s.on fun d =>
        let d := { d with tab := { d.tab with closed := shut ++ d.tab.closed.filter fun i => !shut.contains i } }
        let y : Reclaim := { x with begun := true, at' := d.time.now }
        { d.wrF .hubReclaimStatus 0 27 24 phDrain with rng := { d.rng with
            reclaim := some y
            reclaimed := t :: d.rng.reclaimed.filter (· != t) } }
      let s := embReclaim s t
      let s := (s.dev.ringsOf t).foldl (fun s r =>
        let s := s.on fun d => d.setReclaimed r true
        if s.dev.rState r = rActive then settle (s.on fun d => d.setRState r rSuspending) r else s) s
      groupsReclaim s t

/-- Tenths of a microsecond since bell b. -/
def Dev.sinceReclaim (d : Dev) (x : Reclaim) : Nat := min 65535 ((d.time.now - x.at') / (100 * nsUnit))

/-- Armed collective operations of a tenant remain. -/
def Dev.armedOf (d : Dev) (tenant : Nat) : Bool :=
  d.col.groups.any fun g => d.gTenant g.1 == tenant && !g.2.armed.isEmpty

/-- Requests, lookups and updates of a tenant that wait for their answer. -/
def Dev.busyOf (d : Dev) (tenant : Nat) : Bool :=
  d.memOfTenant tenant || d.mem.waiting.any (fun h => h.pkt.tenant == tenant) ||
  d.emb.lookups.any (fun l => l.2.p.tenant == tenant) || d.emb.commits.any (fun c => c.2.p.tenant == tenant)

/-- The rings of a tenant have come to rest. -/
def Dev.ringsQuiet (d : Dev) (tenant : Nat) : Bool :=
  (d.ringsOf tenant).all fun r =>
    d.rState r == rSuspended || d.rState r == rFaulted || d.rState r == rError || d.rState r == rIdle

/-! Scrub. -/

/-- The pages of a tenant in a die's copy of the page map: only a valid entry has bit 31 of its first word set. -/
def pagesOf (s : State) (die tenant : Nat) : List Nat :=
  let base := s.dev.pmapAddr die 0
  let slots := (s.hbm.filter fun c => decide (base ≤ c.1) && decide (c.1 < base + 2 ^ 23) && (c.1 - base) % 8 == 3).map
    fun c => (c.1 - base) / 8
  if !s.dev.pmapOn die then []
  else (slots.filter fun x => pmapValid (pmapWords s die x) && pmapTenant (pmapWords s die x) == tenant).map
    fun x => pmapHpa (pmapWords s die x)

/-- One 2 MiB page overwritten with zeros at P3. -/
def scrubPage (s : State) (page : Nat) : State :=
  let a := page * 2 ^ 21
  let s := s.on fun d => (d.hbmUse a (2 ^ 21) 3).mend a (2 ^ 21)
  { s with hbm := hbmClear s.hbm a (2 ^ 21) }

/-- The pages of a tenant that a scrub overwrites: those in usable memory. -/
def scrubPages (s : State) (tenant : Nat) : List Nat :=
  let ps := (upto 8).flatMap fun die => (pagesOf s die tenant).filter fun p => p / 2 ^ 15 / 4 == die
  ps.filter fun p => s.dev.usable (p * 2 ^ 21) (2 ^ 21)

/-- Every page of the tenant is scrubbed by the die that owns its stack; the state and how many pages. -/
def scrubTenant (s : State) (tenant : Nat) : State × Nat :=
  let ps := scrubPages s tenant
  (ps.foldl scrubPage s, ps.length)

/-! The end. -/

/-- End: busy clears, the times and pages stand, a NOTICE record and an MSI-X message follow. -/
def Dev.reclaimEnd (d : Dev) (pages : Nat) : Dev :=
  match d.rng.reclaim with
  | none => d
  | some x =>
    let d := ((d.wrB .hubReclaimStatus 0 31 false).wrF .hubReclaimStatus 0 27 24 0).wr .hubReclaimScrub 0 (word pages)
    let d := { d with rng := { d.rng with reclaim := none } }
    let d := d.raise hubOrigin 0x0901 sevNotice [x.tenant, 0, d.rdN .hubReclaimTime 0, pages]
    if d.rdB .hubReclaimCfg 0 31 then d.msix (d.rdF .hubReclaimCfg 0 30 30) (d.rdF .hubReclaimCfg 0 10 0) else d

/-- The reclaim goes on: DRAIN ends when everything consumed has been answered, QUIESCE when its rings rest as well. -/
def Dev.reclaimTick (d : Dev) : Dev :=
  match d.rng.reclaim with
  | none => d
  | some x =>
    if !x.begun then d
    else
      let t := x.tenant
      let clear := !d.armedOf t && !d.busyOf t
      let d := if d.reclaimPhase = phDrain ∧ clear = true then
          (d.wrF .hubReclaimTime 0 15 0 (d.sinceReclaim x)).wrF .hubReclaimStatus 0 27 24 phQuiesce else d
      if d.reclaimPhase = phQuiesce ∧ clear = true ∧ d.ringsQuiet t = true then
        let d := d.wrF .hubReclaimTime 0 31 16 (d.sinceReclaim x)
        let y : Reclaim := { x with quiesced := true }
        let d := { d with rng := { d.rng with reclaim := some y } }
        if x.scrub then d.wrF .hubReclaimStatus 0 27 24 phScrub else d.reclaimEnd 0
      else d

/-- RECLAIM_QUIESCE_BOUND: requests to peers still open are answered PREEMPTED. -/
def execReclaimQuiesceBound (s : State) : Host.Outcome State Fault Refusal :=
  .next (s.on fun d => match d.rng.reclaim with
    | some x => if x.begun && !x.quiesced then (d.memReclaim x.tenant).reclaimTick else d
    | none => d)

/-- A unit that still runs on a ring is abandoned: the descriptor is held at the units done, and its get ends. -/
def abandon (s : State) (r : Nat) : State :=
  match (s.dev.ring r).run with
  | none => s
  | some x =>
    let s := s.on fun d =>
      let d := match x.get with
        | some k => d.endGet (r / 2048 * 8192 + k)
        | none => d
      d.setRing r { d.ring r with run := some { x with get := none, live := false } }
    if s.dev.rState r = rCancelling then cancelEnd s r x.idx x.desc x.prog (s.dev.ring r).cancelAll false
    else if s.dev.rState r = rSuspending then ringSuspend s r x.idx x.desc x.prog x.acc
    else s

/-- RECLAIM_DRAIN_BOUND: units still running are abandoned, and scrub or the end follows. -/
def execReclaimDrainBound (s : State) : Host.Outcome State Fault Refusal :=
  .next (match s.dev.rng.reclaim with
    | some x => if x.begun && !x.quiesced then ((s.dev.ringsOf x.tenant).foldl abandon s).on fun d => d.reclaimTick else s
    | none => s)

/-- RECLAIM_SCRUB_DONE: the tenant's pages have been overwritten; the scrub waits while P3 is paused in a stack of them. -/
def execReclaimScrubDone (s : State) : Host.Outcome State Fault Refusal :=
  .next (match s.dev.rng.reclaim with
    | some x =>
      if x.begun = true ∧ s.dev.reclaimPhase = phScrub ∧ (scrubPages s x.tenant).all (fun p => !s.dev.classPaused (p / 2 ^ 15) 3) = true then
        let (s, n) := scrubTenant s x.tenant
        s.on fun d => d.reclaimEnd n
      else s
    | none => s)

/-- HUB_RECLAIM_REL (R363): the tenant's rings may go on; ignored for a tenant not reclaimed, or while a reclaim runs. -/
def Dev.reclaimRel (d : Dev) (t : Nat) : Dev :=
  if d.rng.reclaim.isSome || !d.rng.reclaimed.contains t then d
  else
    let d := { d with rng := { d.rng with reclaimed := d.rng.reclaimed.filter (· != t) } }
    (d.ringsOf t).foldl (fun d r => d.setReclaimed r false) d

/-- HUB_RECLAIM_REL. -/
def execHubReclaimRel (who : Partner) (w : Word) (s : State) : Host.Outcome State Fault Refusal :=
  .next (s.on fun d => d.ctl who 0x214 fun d => d.reclaimRel (fld w 15 0))

end Sys2Proof.Machine
end

