-- ==== Sys2Proof/Machine/Waiting.lean ====
section
/-! DEFINITION. Work that waits for packets to be admitted or for room: the chunks of a group and a mirroring table count
as sent once the Keep has taken their packets (09_collectives.md R242, 10_embedding_service.md R280), and a ring's unit starts
once its die has fewer than 256 in flight (13_rings_and_tenants.md R344). -/

namespace Sys2Proof.Machine

/-- What waited for packets goes on where they have all been taken: the groups' chunks, and the mirrors. -/
def waitersSent (s : State) : State :=
  let s := groupsSent s
  s.on fun d => (d.emb.snaps.map (·.1)).foldl Dev.mirrored d

/-- The units that each die still owes its rings are started. -/
def unitsServed (s : State) : State :=
  s.on fun d => (upto 8).foldl (fun d die => d.serveUnits die 256) d

/-- ADMISSION_RECHECK: the packet of the port and VC is checked again, and what waited for it goes on. -/
def execAdmissionRecheck (lp : Fin 2048) (vc : Fin 8) (s : State) : Host.Outcome State Fault Refusal :=
  .next (waitersSent (s.on fun d => d.recheck lp vc))

end Sys2Proof.Machine
end

