-- ==== Sys2Proof/Machine/Bell.lean ====
section
/-! DEFINITION. The bell: the work of Table 2-2 in its order (02_bell_and_time.md R35 to R38, R45). -/

namespace Sys2Proof.Machine

/-- A commit put into a list ordered by target, before its equals. -/
def insertTarget (c : Commit) : List Commit → List Commit
  | [] => [c]
  | x :: t => if x.target < c.target then x :: insertTarget c t else c :: x :: t

/-- Commits in order of target, older ones first among equals. -/
def byTarget : List Commit → List Commit
  | [] => []
  | c :: cs => insertTarget c (byTarget cs)

/-- Fabric time reaches the next bell: its number, and the cycles that passed. -/
def Dev.bellTime (d : Dev) : Dev :=
  let n := d.time.bell + 1
  let t := max d.time.now (n * d.period * nsUnit % timeMod)
  let cycles := if d.time.inc = 0 then 0 else (t - d.time.now) / d.time.inc
  let d := d.cyclesPass cycles
  { d with time := { d.time with now := t, bell := n, skipped := 0 }, fwd := { d.fwd with offered := [] }, chanErr := [], chanRetry := [] }

/-- A count in bells that falls to 0, advanced by the skipped bells: its action waits for this bell (R37). -/
def fallBy (left k : Nat) : Nat := if left = 0 then 0 else max 1 (left - k)

/-- A count in bells that rises, advanced by the skipped bells. -/
def riseBy (n k : Nat) : Nat := if n = 0 then 0 else min 256 (n + k)

/-- Heartbeat holds whose start was named for one of the k skipped bells start at this one (R37). -/
def Dev.holdsCaught (d : Dev) (k : Nat) : Dev :=
  let n := d.time.bell
  { d with lan := { d.lan with holds := d.lan.holds.map fun e =>
      (e.1, if n ≤ e.2.1 + k && decide (e.2.1 < n) then (n, e.2.2) else e.2) } }

/-- Every count kept in bells advances by the k skipped bells (R37). -/
def Dev.catchUp (d : Dev) (k : Nat) : Dev :=
  if k = 0 then d
  else
    let d := d.holdsCaught k
    let d := (upto 8).foldl (fun d die => d.wrF .plnFwdGenStatus die 31 16 (fallBy (d.rdF .plnFwdGenStatus die 31 16) k)) d
    let d := d.link.ports.foldl (fun d p => d.wrF .plnFwdLpStatus p.1 31 8 (fallBy (d.rdF .plnFwdLpStatus p.1 31 8) k)) d
    let count := fun (x : Nat × Nat × Nat) => (x.1, riseBy x.2.1 k, riseBy x.2.2 k)
    { d with keep := { d.keep with limiters := d.keep.limiters.map fun e => (e.1, e.2.map fun l => { l with idle := l.idle + k }) }
             pwr := { d.pwr with budget := count d.pwr.budget, thermal := count d.pwr.thermal
                                 idle := d.pwr.idle.map fun e => (e.1, riseBy e.2 k) } }

/-- Live bits of ports that left service before this bell are cleared (04 R117). -/
def Dev.liveCleared (d : Dev) : Dev :=
  (d.link.ports.filter fun p => p.2.leaving).foldl (fun d p =>
    (d.wrB .plnFwdLpStatus p.1 0 false).setPort p.1 { d.port p.1 with leaving := false }) d

/-- Live bits of ports in service are set or their holds count, but for ports that a pending circuit switch holds
(04 R119, 14 R373). -/
def Dev.livesSet (d : Dev) : Dev :=
  let held := d.circuitHeld
  (d.link.ports.filter fun p => !p.2.leaving && !held.contains p.1).foldl (fun d p => d.liveBell p.1) d

/-- Step 1: every pending commit whose target has come, in order of target. -/
def applyDue (s : State) (n : Nat) : State × BellWork :=
  (byTarget (s.dev.time.commits.filter fun c => c.pending && decide (c.target ≤ n))).foldl
    (fun x c => applyCommit x.1 x.2 c) (s, {})

/-- Step 2: generations flip where PLN_FWD_GEN was committed; drains that began before count. -/
def Dev.bellGens (d : Dev) (gens : List Nat) : Dev :=
  (upto 8).foldl (fun d die => if gens.contains die then d.genFlip die else d.drainTick die) d

/-- Step 4: circuit and source switches of this bell, migrations and planned switches, and the leads that begin after
bell `before`. -/
def Dev.bellOptics (d : Dev) (w : BellWork) (before n : Nat) : Dev :=
  let d := w.circuits.eraseDups.foldl Dev.circuitSwitch d
  let d := w.sources.eraseDups.foldl Dev.sourceSwitch d
  let d := (d.lan.mig.map (·.1)).foldl (fun d fp => d.migBell fp n) d
  let d := d.planBell n
  (d.time.commits.filter (·.pending)).foldl (fun d c => d.leadIn c before n) d

/-- Step 6: Oculus windows and bandwidth windows; the event BELLS is counted after them. -/
def Dev.bellWindows (d : Dev) (n skipped : Nat) : Dev :=
  let d := ((upto 8).foldl (fun d die => d.ocuWindows die n skipped) d).bwWindows n skipped
  (upto 8).foldl (fun d die => d.ocu die 1 {} 1) d

/-- The work of a bell that Table 2-2 does not order: live bits, limiters, overruns, refused contributions. -/
def Dev.bellRest (d : Dev) : Dev :=
  let d := d.livesSet
  let d := (upto 8).foldl (fun d die => d.limBell die) d
  let d := (d.link.ports.filter fun p => p.2.overruns != 0).foldl (fun d p => d.overrunBell p.1) d
  d.againBell

/-- A CONFIG commit that found a domain busy is started again. -/
def Dev.bootRetry (d : Dev) : Dev :=
  if d.boot.commit && !d.time.commits.any (fun c => c.mask == 0x1FF) then d.startCommitAt 0x1FF 0 else d

/-- The end of a bell at which the period changed: the counter follows the new one (R38). -/
def Dev.bellNumber (d : Dev) : Dev := { d with time := { d.time with bell := d.nowNs / d.period } }

/-- A bell; `watts`: the input power averaged over it (18 R462). -/
def bell (s : State) (watts : Nat) : State :=
  let k := s.dev.time.skipped
  let s := s.on fun d => (d.bellTime.catchUp k).liveCleared
  let n := s.dev.time.bell
  let (s, w) := applyDue s n
  let s := if w.renumber then s.on Dev.renumbered else s
  let s := s.on fun d => d.bellGens w.gens
  let s := loadsLanded (landing s)
  let s := s.on fun d => ((d.bellOptics w (n - 1 - k) n).bellWindows n k).powerBell watts
  let s := fenceBell (s.on Dev.roleBell)
  let s := (reclaimBegin (s.on Dev.bellRest)).on Dev.reclaimTick
  let s := unitsServed (waitersSent ((tellLost s).on Dev.bootRetry))
  if w.renumber then s.on Dev.bellNumber else s

/-- One switch cycle (02 R32): fabric time advances, and the bell falls whose instant it reaches (R35); the input power
averaged over that bell is a free value. -/
def tick (s : State) : State :=
  let s := idle s
  if s.dev.nowNs < (s.dev.time.bell + 1) * s.dev.period then s
  else bell (s.on fun d => d.free.2) s.dev.free.1

/-- BELL. -/
def execBell (watts : Nat) (s : State) : Host.Outcome State Fault Refusal := .next (bell s watts)

end Sys2Proof.Machine
end

