-- ==== Sys2Proof/Machine/Control.lean ====
section
/-! DEFINITION. Reads and writes of registers by partners (00_scope.md R3 to R7): the latches of
64-bit values, and writes, which act as the command of the row that names the register. An offset from 2^26 on names
BAR2 (19 R467). -/

namespace Sys2Proof.Machine

/-! Latches (R4). -/

/-- The high half of a 64-bit value, by its low half. -/
def highHalf (r : Reg) : Option Reg :=
  match r with
  | .timBellLo => some .timBellHi
  | .timIncLo => some .timIncHi
  | .timStepLo => some .timStepHi
  | .timCmtTgtLo => some .timCmtTgtHi
  | .timCmtBellLo => some .timCmtBellHi
  | .plnLnkExpIdLo => some .plnLnkExpIdHi
  | .plnLnkFarIdLo => some .plnLnkFarIdHi
  | .plnLnkGrpRxLo => some .plnLnkGrpRxHi
  | .plnFwdRmacLo => some .plnFwdRmacHi
  | .plnLetBaseLo => some .plnLetBaseHi
  | .kepSpillBaseLo => some .kepSpillBaseHi
  | .cupAddsLo => some .cupAddsHi
  | .cupRoundsLo => some .cupRoundsHi
  | .colRecBaseLo => some .colRecBaseHi
  | .embLookupLo => some .embLookupHi
  | .embRowsLo => some .embRowsHi
  | .embPairsLo => some .embPairsHi
  | .memPmapBaseLo => some .memPmapBaseHi
  | .memReqLo => some .memReqHi
  | .hbmSpareLo => some .hbmSpareHi
  | .hbmCeLocLo => some .hbmCeLocHi
  | .hbmUeLocLo => some .hbmUeLocHi
  | .hbmBytesLo => some .hbmBytesHi
  | .rngDescLo => some .rngDescHi
  | .rngBytesLo => some .rngBytesHi
  | .hubCapBaseLo => some .hubCapBaseHi
  | .hubFenceMapLo => some .hubFenceMapHi
  | .cupSenBaseLo => some .cupSenBaseHi
  | .secDevIdLo => some .secDevIdHi
  | .secStageBaseLo => some .secStageBaseHi
  | .secBuildLo => some .secBuildHi
  | .grdWinBaseLo => some .grdWinBaseHi
  | .ocuFabBaseLo => some .ocuFabBaseHi
  | .ocuCntLo => some .ocuCntHi
  | .ocuSnapLo => some .ocuSnapHi
  | .ocuPortLo => some .ocuPortHi
  | .ocuBwLo => some .ocuBwHi
  | .hubBar4BaseLo => some .hubBar4BaseHi
  | _ => none

/-- The registers that a read of a register latches for its reader (R4, 02 R47 and R52, 15 R391, 17 R445). -/
def Dev.latches (d : Dev) (r : Reg) (i : Nat) : List (Reg × Nat) :=
  match r with
  | .timNowSecLo => [(.timNowSecHi, 0), (.timNowNs, 0), (.timNowFrac, 0)]
  | .timPpsSecLo => [(.timPpsSecHi, 0), (.timPpsNs, 0), (.timPpsFrac, 0)]
  | .hubFaultCtx => if i = 0 then (upto 7).map fun k => (.hubFaultCtx, k + 1) else []
  | .ocuCntLo => if d.ocuChained i then [(.ocuCntHi, i), (.ocuCntLo, i + 1), (.ocuCntHi, i + 1)] else [(.ocuCntHi, i)]
  | _ => match highHalf r with
    | some h => [(h, i)]
    | none => []

/-- The key of a latch of a partner. -/
def latchKey (who : Partner) (k : Nat) : Nat := k * 3 + who.num

/-- The RSV bits of a register: those of no access type (Table 0-3). -/
def rsvMask (e : RegDef) : Word := ~~~(word e.rw ||| word e.stg ||| word e.w1c ||| word e.rc ||| word e.ro ||| word e.zero)

/-- What a read returns beside the fields: RSV bits are undefined, so they are free (assumption 1). -/
def Dev.withRsv (d : Dev) (e : RegDef) (v : Word) : Word × Dev :=
  if rsvMask e = 0 then (v, d)
  else
    let (x, d) := d.free
    ((v &&& ~~~(rsvMask e)) ||| (word x &&& rsvMask e), d)

/-- A read of a register: the latched value once, or the value now; what it latches; fields that a read clears (R6). -/
def Dev.readReg (d : Dev) (who : Partner) (e : RegDef) (i : Nat) : Word × Dev :=
  let k := latchKey who (rk e.reg i)
  let (v, d) : Word × Dev := match SMap.find? d.latch k with
    | some v => (v, { d with latch := SMap.erase d.latch k })
    | none =>
      (d.view who e.reg i, (d.latches e.reg i).foldl (fun d x =>
        { d with latch := SMap.insert (latchKey who (rk x.1 x.2)) (d.view who x.1 x.2) d.latch }) d)
  let d := if e.rc = 0 then d else d.wr e.reg i (d.rd e.reg i &&& ~~~(word e.rc))
  d.withRsv e v

/-! BAR2 (13 Table 13-13, 17 R449). -/

/-- BAR2 offsets follow BAR0's 64 MiB. -/
def bar2Base : Nat := 2 ^ 26

/-- A read of a doorbell page. -/
def Dev.doorbellWord (d : Dev) (r o : Nat) : Nat :=
  if o = 0xC then d.rState r * 2 ^ 28 + d.rf r 9 27 26 * 2 ^ 26 + d.rf r 15 31 24 * 2 ^ 16 + d.sqHead r
  else if o = 0x10 then d.sqTail r * 2 ^ 16 + d.cqTail r
  else 0

/-- A read at a BAR2 offset: a doorbell page; or a tenant page that is shown to hosts, whose values are latched as for
registers, and whose first value samples the bell. -/
def Dev.readBar2 (d : Dev) (who : Partner) (x : Nat) : Word × Dev :=
  if d.recovery || x % 4 != 0 then (0, d)
  else if x < 0x4000000 then (word (d.doorbellWord (x / 4096) (x % 4096)), d)
  else
    let p := (x - 0x4000000) / 4096
    let w := x % 4096 / 4
    if 4096 ≤ p || !d.rdB .ocuTpg p 30 then (0, d)
    else
      let key := fun (w : Nat) => latchKey who (2 ^ 40 + p * 1024 + w)
      match SMap.find? d.latch (key w) with
      | some v => (v, { d with latch := SMap.erase d.latch (key w) })
      | none =>
        let low := (decide (4 ≤ w) && decide (w < 40) && w % 2 == 0) || (decide (64 ≤ w) && decide (w < 576) && w % 4 == 2)
        let keep := fun (d : Dev) (w : Nat) => { d with latch := SMap.insert (key w) (word (d.pageWord p w)) d.latch }
        let d' := if low then keep d (w + 1) else d
        (word (d.pageWord p w), if w = 4 then keep d' 2 else d')

/-- A read at an offset (R4, R6, R7). -/
def Dev.readAt (d : Dev) (who : Partner) (off : Nat) : Word × Dev :=
  if bar2Base ≤ off then d.readBar2 who (off - bar2Base)
  else if !d.decodes who off then (0, d)
  else match regAt off with
    | some (e, i) => d.readReg who e i
    | none => (0, d)

/-- An access of 32 bits, naturally aligned: the one kind that reaches a register (R3). -/
def regAccess (off width : Nat) : Bool := width == 4 && off % 4 == 0

/-- A read of `width` bytes, completed to its partner: of any other width than a register's it finds 0 (R3). -/
def Dev.readOut (d : Dev) (who : Partner) (off width : Nat) : Dev :=
  let (v, d) := if regAccess off width then d.readAt who off else (0, d)
  d.emit (.read who off v)

/-- READ_CLEAR. -/
def execReadClear (who : Partner) (acc : Access) (s : State) : Host.Outcome State Fault Refusal :=
  .next (s.on fun d => d.readOut who acc.off acc.width)

/-- LOW_HALF_READ. -/
def execLowHalfRead (who : Partner) (acc : Access) (s : State) : Host.Outcome State Fault Refusal :=
  .next (s.on fun d => d.readOut who acc.off acc.width)

/-! The mailbox as hosts see it (16 R430). -/

/-- A write of HUB_MBX_CMD: with go the message of that length goes to Belfry, or the exchange ends at once. -/
def Dev.mbxGo (d : Dev) (h : Nat) (w : Word) : Dev :=
  let len := fld w 12 0
  if !wbit w 31 then d
  else if d.rdB .hubMbxStatus h 31 then d.wrB .hubMbxStatus h 29 true
  else if d.rdB .hubMbxBelfry 0 30 || d.phase == 0 || d.recovery then d.mbxEnd h mbxNotReady 0
  else if len = 0 ∨ 4096 < len then d.mbxEnd h mbxBadLength 0
  else if ([0x00, 0x01, 0x7E].contains (d.rdF .hubMbxReq (h * 1024) 7 0)) = false then d.mbxEnd h mbxUnsupported 0
  else d.wrB .hubMbxStatus h 31 true

/-! Writes. -/

/-- Registers that only one host writes: the Guard windows, the MSI-X table, a half of the mailbox (16 R429, R430,
19 R485). -/
def privateHost (r : Reg) (i : Nat) : Option Nat :=
  match r with
  | .grdWinBaseLo | .grdWinBaseHi | .grdWinCtl => some (i / 8)
  | .hubMsixTable => some (i / 8192)
  | .hubMbxReq => some (i / 1024)
  | .hubMbxCmd | .hubMbxStatus | .hubMbxIrq => some i
  | _ => none

/-- A doorbell write at a BAR2 offset (13 Table 13-13). -/
def writeBar2 (s : State) (who : Partner) (x : Nat) (v : Word) : State :=
  let r := x / 4096
  if 0x4000000 ≤ x then s
  else match x % 4096 with
    | 0 => dbWrite who r (fun s => ringSq s r v.toNat) s
    | 4 => dbWrite who r (fun s => ringCq s r v.toNat) s
    | 8 => dbWrite who r (fun s => ringCtrl s r v.toNat) s
    | _ => dbWrite who r id s

/-- HUB_RESET_CMD with go. -/
def resetWrite (s : State) (who : Partner) (v : Word) : State :=
  if wbit v 31 then resetCmd who (fld v 19 16) (fld v 10 0) (wbit v 23) s else s

/-- HUB_FENCE_CMD with go: FENCE or UNFENCE of a tile. -/
def Dev.fenceWrite (d : Dev) (v : Word) : Dev :=
  if !wbit v 31 then d
  else match fld v 29 28 with
    | 1 => d.decideFence (fld v 5 0) 0
    | 2 => d.logFence (fld v 5 0) false
    | _ => d

/-- SEC_UPD_CMD with go; other values of op are ignored. -/
def Dev.updWrite (d : Dev) (v : Word) : Dev :=
  if wbit v 31 ∧ 1 ≤ fld v 30 28 ∧ fld v 30 28 ≤ 4 then d.updStart (fld v 30 28) (fld v 27 0) else d

/-- D2D_CTRL: whether each training succeeds is a free value. -/
def Dev.d2dWrite (d : Dev) (die : Nat) (v : Word) : Dev :=
  let mask := fld v 7 0
  if mask = 0 then d
  else
    let (ok, d) := d.free
    (maskBits 8 mask).foldl (fun d m => d.meshTrain die m (bit ok m)) d

/-- A field of a W1P register that acts when written 1. -/
def Dev.onBit (d : Dev) (v : Word) (b : Nat) (f : Dev → Dev) : Dev := if wbit v b then f d else d

/-- What a write of a register does beyond the access types of its fields: the command of the row that names it. -/
def writeActs (s : State) (who : Partner) (r : Reg) (i : Nat) (v : Word) : State :=
  match r with
  | .timIncHi => s.on fun d => d.setInc v
  | .timCtrl => s.on fun d => ((d.onBit v 1 Dev.enterHoldover).onBit v 0 Dev.applyStep).ppsHeld
  | .timCommit => s.on fun d => d.startCommit v.toNat
  | .timCmtCancel => s.on fun d => d.cancelCommits (fld v 8 0)
  | .timCmtDiscard => s.on fun d => d.discardShadows (fld v 8 0)
  | .plnLnkCtrl => s.on fun d =>
      (d.onBit v 1 fun d => if d.isEth i then d else d.adminDown i false).onBit v 0 fun d => d.retrain i
  | .plnFwdCtrl => s.on fun d => d.onBit v 1 fun d => d.flushFlowlets i
  | .tapCmd => tapCommand who i (fld v 31 28) v s
  | .bcTapCmd => tapCommand who 8 (fld v 31 28) v s
  | .d2dCtrl => s.on fun d => d.d2dWrite i v
  | .hbmCtrl => s.on fun d => (d.onBit v 2 fun d => d.hbmFence i).onBit v 1 fun d => d.hbmRetrain i
  | .hubReclaimCmd => s.on fun d => d.reclaimStart v
  | .hubReclaimRel => s.on fun d => d.reclaimRel (fld v 15 0)
  | .lanFibCtrl => s.on fun d => (d.onBit v 1 fun d => d.unspare i).onBit v 0 fun d => d.unfenceAsked i
  | .hubResetCmd => resetWrite s who v
  | .hubCapCtrl => s.on fun d => d.onBit v 1 Dev.capRelease
  | .hubFenceCmd => s.on fun d => d.fenceWrite v
  | .cupSenCtrl => s.on fun d => d.onBit v 1 fun d => d.rotateAsked i
  | .secUpdCmd => s.on fun d => d.updWrite v
  | .hubMbxCmd => s.on fun d => d.mbxGo i v
  | .evrCtrl => s.on fun d => d.onBit v 1 fun d => d.flushTrigger.flush
  | .evrFindSeq => s.on fun d => d.findSeq v
  | .ocuCtrl => s.on fun d => ((d.onBit v 2 fun d => d.peakClrAll i).onBit v 1 fun d => d.clrFixed i).onBit v 0 fun d => d.clrProg i
  | .ocuPeakClr => s.on fun d => d.peakClr (i * 256 + fld v 7 0)
  | .hubOwn => s.on fun d => d.ownCmd who (fld v 29 28) (fld v 15 0)
  | .hubMsixTable => s.on fun d => d.msixDeliver (i / 8192) (i % 8192 / 4)
  | _ => s

/-- The bits of a written value that a partner may write: of HUB_OWN_STATUS a host clears its own alone (19 Table 19-9). -/
def ownBits (who : Partner) (r : Reg) (v : Word) : Word :=
  match who.host with
  | some h => if r == .hubOwnStatus then v &&& word (5 * 2 ^ h) else v
  | none => v

/-- A write that a partner may make: the fields by their access types, what the register does, and clr_counters. -/
def writeReg (s : State) (who : Partner) (e : RegDef) (i : Nat) (v : Word) : State :=
  let s := writeActs (s.on fun d => d.plainWrite e i (ownBits who e.reg v)) who e.reg i v
  match clrBit e.reg with
  | some b => s.on fun d => d.onBit v b fun d => d.clrCounters e.reg i
  | none => s

/-- A write at an offset (R5 to R7, 19 R471). -/
def writeAt (s : State) (who : Partner) (off : Nat) (v : Word) : State :=
  if bar2Base ≤ off then writeBar2 s who (off - bar2Base) v
  else if !s.dev.reaches who off then s
  else
    let drop := s.on fun d => d.ctl who off id
    match regAt off with
    | none => drop
    | some (e, i) =>
      let mine := match privateHost e.reg i with
        | some h => who.host == some h
        | none => s.dev.mayWrite who off
      if mine then tellLost (writeReg s who e i v) else drop

/-- REGISTER_WRITE: a write of another width than a register's is ignored (R3). -/
def execRegisterWrite (who : Partner) (acc : Access) (v : Word) (s : State) : Host.Outcome State Fault Refusal :=
  .next (if regAccess acc.off acc.width then writeAt s who acc.off v else s)

end Sys2Proof.Machine
end

