-- ==== Sys2Proof/Machine/Manage.lean ====
section
/-! DEFINITION. Belfry's partners (16_belfry_boot_security.md R421, R425, R426, R430): the mailbox, the in-band queue,
MCTP control, PLDM, vendor-defined messages and SPDM. What a message carries comes with its command, and Belfry's answer
leaves as `Out.mgmt` with the values that the spec states. -/

namespace Sys2Proof.Machine

/-! Channels. -/

/-- The number of a channel. -/
def chanNo : Channel → Nat
  | .mailbox h => h
  | .doe h => 2 + h
  | .i3c b => 4 + b
  | .inband => 6

/-- The codes of Belfry's answers (`Out.mgmt`). -/
def ansServed : Nat := 0
def ansUnspecified : Nat := 1
def ansBusy : Nat := 2
def ansUnexpected : Nat := 3
def ansNotReady : Nat := 4
def ansNoSession : Nat := 5
def ansNotOwner : Nat := 6

/-- Belfry is held in reset (Table 16-16). -/
def Dev.belfryHeld (d : Dev) : Bool := d.rdB .hubMbxBelfry 0 30

/-- A message on an I3C bus is counted (Table 16-17). -/
def Dev.i3cCount (d : Dev) (ch : Channel) : Dev :=
  match ch with
  | .i3c b => d.wrF .hubI3cStatus b 15 0 (min 65535 (d.rdF .hubI3cStatus b 15 0 + 1))
  | _ => d

/-- A message of the channel is there for Belfry: a mailbox half is busy, a host's link is up, a packet is queued. -/
def Dev.chanReady (d : Dev) (ch : Channel) : Bool :=
  !d.belfryHeld && match ch with
  | .mailbox h => d.rdB .hubMbxStatus h 31
  | .doe h => (d.host h).up
  | .i3c _ => true
  | .inband => !d.mgt.queue.isEmpty

/-- The in-band answer to a request (R426): out of its port, to its sid, within the Guard's limit. What the MCTP packet
holds is free. -/
def Dev.inbandAnswer (d : Dev) (lp : Nat) (p : Pkt) : Dev :=
  let (n, d) := d.free
  let (d, bs) := d.freeBytes (5 + n % 1020)
  d.guardPass lp (cellsOf bs.length * 64) fun d =>
    d.originate (lpDie lp) { op := 0x70, vc := 6, did := p.sid, sid := d.selfDid (lpDie lp), payload := bs } (some lp)
      (p.did == linkLocal) false {}

/-- Belfry answers on a channel. The answer of a mailbox exchange ends it with MBX_RESPONSE; a NOT_OWNER ends it at once. -/
def Dev.answer (d : Dev) (ch : Channel) (code : Nat) (words : List Word) (bytes : List Byte) : Dev :=
  let d := d.emit (.mgmt ch code words bytes)
  match ch with
  | .mailbox h => if code = ansNotOwner then d.mbxEnd h mbxNotOwner 0 else d
  | .inband =>
    match d.mgt.queue with
    | x :: q => ({ d with mgt := { d.mgt with queue := q } }).inbandAnswer x.1 x.2
    | [] => d
  | _ => d

/-- A message on a channel, served if it can reach Belfry. -/
def Dev.serve (d : Dev) (ch : Channel) (f : Dev → Dev) : Dev :=
  let d := d.i3cCount ch
  if d.chanReady ch then f d else d

/-! The in-band queue and the mailbox. -/

/-- A MGMT_MCTP handed to Belfry: queued, up to 256 of them. -/
def Dev.mctpIn (d : Dev) (lp : Nat) (p : Pkt) : Dev :=
  let (d, resv) := d.take lp p
  let d := d.unreserve resv
  if 256 ≤ d.mgt.queue.length then d.bump .hubMbxMctpDrop 0
  else ({ d with mgt := { d.mgt with queue := d.mgt.queue ++ [(lp, p)] } }).bump .hubMbxMctpRx 0

/-- MGMT_MCTP. -/
def execMgmtMctp (lp : Fin 2048) (p : Pkt) (s : State) : Host.Outcome State Fault Refusal := .next (s.on fun d => d.mctpIn lp p)

/-- HUB_MBX_CMD: a host writes the command register of a half. -/
def execHubMbxCmd (who : Partner) (half : Fin 2) (w : Word) (s : State) : Host.Outcome State Fault Refusal :=
  .next (writeAt s who (0x52000 + 0x4000 * half) w)

/-- The words of a response buffer. -/
def rspWords (bs : List Byte) : List Word := (upto ((bs.length + 3) / 4)).map fun w => word (leAt bs (4 * w) 4)

/-- Belfry's answer to a busy half: at most the 4 KiB of the response buffer. -/
def Dev.mbxResponse (d : Dev) (h : Nat) (msg : List Byte) : Dev :=
  if !d.rdB .hubMbxStatus h 31 || d.belfryHeld then d
  else
    let msg := msg.take 4096
    let d := ((rspWords msg).zip (upto 1024)).foldl (fun d e => d.wr .hubMbxRsp (h * 1024 + e.2) e.1) d
    d.mbxEnd h mbxOk msg.length

/-- MBX_RESPONSE. -/
def execMbxResponse (half : Fin 2) (msg : List Byte) (s : State) : Host.Outcome State Fault Refusal :=
  .next (s.on fun d => d.mbxResponse half msg)

/-- The hub ends a busy exchange with TIMEOUT. -/
def Dev.mbxTimeout (d : Dev) (h : Nat) : Dev := if d.rdB .hubMbxStatus h 31 then d.mbxEnd h Sys2Proof.Machine.mbxTimeout 0 else d

/-- MBX_TIMEOUT. -/
def execMbxTimeout (half : Fin 2) (s : State) : Host.Outcome State Fault Refusal := .next (s.on fun d => d.mbxTimeout half)

/-! MCTP control and PLDM (Table 16-9, R424). -/

/-- MCTP control: ERROR_NOT_READY during ROM. -/
def Dev.mctpControl (d : Dev) (ch : Channel) : Dev :=
  d.serve ch fun d => d.answer ch (if d.phase = 0 then ansNotReady else ansServed) [] []

/-- MCTP_CONTROL. -/
def execMctpControl (ch : Channel) (s : State) : Host.Outcome State Fault Refusal := .next (s.on fun d => d.mctpControl ch)

/-- A PLDM request, `sensor`: a type 2 read of temperature, voltage or power. Before READY only those are served, during
ROM and in the Recovery Service none is. Table 16-1 serves PLDM on the mailbox (R430) and over I3C. -/
def Dev.pldmRequest (d : Dev) (ch : Channel) (sensor : Bool) : Dev :=
  d.serve ch fun d =>
    let code := match ch with
      | .doe _ | .inband => ansUnspecified
      | _ =>
        if d.phase = 0 ∨ d.recovery then ansNotReady
        else if d.isReady || sensor then ansServed
        else ansNotReady
    d.answer ch code [] []

/-- PLDM_REQUEST. -/
def execPldmRequest (ch : Channel) (sensor : Bool) (s : State) : Host.Outcome State Fault Refusal :=
  .next (s.on fun d => d.pldmRequest ch sensor)

/-! SPDM connections. -/

/-- The connection of a channel. -/
def Dev.spdm (d : Dev) (ch : Channel) : Spdm := SMap.getD d.mgt.spdm (chanNo ch) {}
def Dev.setSpdm (d : Dev) (ch : Channel) (x : Spdm) : Dev :=
  { d with mgt := { d.mgt with spdm := SMap.put d.mgt.spdm (chanNo ch) {} x } }

/-! Vendor-defined messages (R426, R430). -/

/-- The message changes something. -/
def vdmChanges : VdmOp → Bool
  | .read _ | .hostRead _ _ _ _ => false
  | .memory p => !mRead p && p.op != opFence
  | _ => true

/-- Bytes that a message writes into the staging area (R426): not while an update runs (R423), and inside its 128 MiB. -/
def vdmStage (s : State) (off : Nat) (bs : List Byte) : State :=
  match s.dev.stageBase with
  | some b =>
    if s.dev.boot.upd.isSome then s.on fun d => d.bump .secStageDrop 0
    else if off + bs.length ≤ 2 ^ 27 ∧ s.dev.usable (b + off) bs.length then hbmPost s (b + off) bs 1
    else s
  | none => s

/-- A memory request of Belfry (11 R290): the Guard refuses it through a window without consent and counts that; otherwise it
passes the checks of Table 11-7 that hold for it, and its access in HBM is performed at once. What it returns; nothing where it
is refused. -/
def belfryMemory (s : State) (p : Pkt) : State × List Byte :=
  if memReq p.op = false ∨ p.op = opFence ∨ memFormat p = false ∨ memAligned p = false then (s, [])
  else
    let (d, w) := s.dev.windowOf 0 p
    let s := { s with dev := d }
    match w with
    | none => (s, [])
    | some (i, ws) =>
      if bit (wat ws 0) 25 = false then (s.on fun d => d.bump .grdConsentRefuse 0, [])
      else if winAdmits ws p = false then (s, [])
      else match memTranslate s 0 p i ws with
        | (s, .inr (.line _ none a _ _)) =>
          let (s, r) := hbmAccess s p a
          (s, r.getD [])
        | (s, _) => (s, [])

/-- A range of a host's memory lies wholly in an enabled window of the Guard (Tables 16-12 and 16-15). -/
def Dev.guardWindow (d : Dev) (h a n : Nat) : Bool :=
  (upto 8).any fun i =>
    let k := h * 8 + i
    let z := d.rdF .grdWinCtl k 5 0
    let base := (d.rdN .grdWinBaseHi k * 2 ^ 32 + d.rdN .grdWinBaseLo k) / 2 ^ z * 2 ^ z
    d.rdB .grdWinCtl k 31 && decide (12 ≤ z) && decide (z ≤ 48) && decide (base ≤ a) && decide (a + n ≤ base + 2 ^ z)

/-- A PCIe request of Belfry: issued inside the host's windows, else counted and not sent (Table 16-12). -/
def Dev.belfryPcie (d : Dev) (h a n : Nat) (f : Dev → Dev) : Dev :=
  if d.guardWindow h a n then f d else d.bump .grdPcieRefuse 0

/-- One operation as Belfry makes it (R411), after the words that were read before it. -/
def vdmOp (a : State × List Word) (o : VdmOp) : State × List Word :=
  match o with
  | .read off => let (v, d) := a.1.dev.readAt .belfry off; ({ a.1 with dev := d }, a.2 ++ [v])
  | .write off v => (writeAt a.1 .belfry off v, a.2)
  | .stage off bs => (vdmStage a.1 off bs, a.2)
  | .memory p =>
    let (s, bs) := belfryMemory a.1 p
    (s, a.2 ++ rspWords bs)
  | .hostRead h addr n answer =>
    (a.1.on fun d => d.belfryPcie h addr n id,
      if a.1.dev.guardWindow h addr n && (a.1.dev.host h).up then a.2 ++ rspWords (slice answer 0 n) else a.2)
  | .hostWrite h addr bs =>
    (a.1.on fun d => d.belfryPcie h addr bs.length fun d =>
      if (d.host h).up then d.emit (.hostWrite h addr bs) else d, a.2)
  | .protect _ _ => (a.1.on fun d => d.bump .grdFlashRefuse 0, a.2)

/-- Why a message is turned away: Belfry is not there yet, the host is not the owner, or its session does not allow it. -/
def Dev.vdmRefused (d : Dev) (ch : Channel) (ops : List VdmOp) : Option Nat :=
  if d.phase = 0 ∨ d.recovery then some ansNotReady
  else match ch with
    | .mailbox h => if ops.any vdmChanges && !d.owns h then some ansNotOwner else none
    | _ => if (d.spdm ch).session = 2 && (d.spdm ch).operator then none else some ansNoSession

/-- A vendor-defined message. -/
def vendorMessage (s : State) (ch : Channel) (ops : List VdmOp) : State :=
  let s := s.on fun d => d.i3cCount ch
  if !s.dev.chanReady ch then s
  else match s.dev.vdmRefused ch ops with
    | some code => s.on fun d => d.answer ch code [] []
    | none =>
      let (s, ws) := ops.foldl vdmOp (s, [])
      s.on fun d => d.answer ch ansServed ws []

/-- VENDOR_DEFINED_MESSAGE. -/
def execVendorDefinedMessage (ch : Channel) (ops : List VdmOp) (s : State) : Host.Outcome State Fault Refusal :=
  .next (vendorMessage s ch ops)

/-! SPDM (R425). -/

/-- An SPDM request: Busy during ROM; no answer on the mailbox, which refuses the message type (R430). -/
def Dev.spdmServe (d : Dev) (ch : Channel) (f : Dev → Dev) : Dev :=
  match ch with
  | .mailbox _ => d
  | _ => d.serve ch fun d => if d.phase = 0 then d.answer ch ansBusy [] [] else f d

/-- An SPDM request that comes after the negotiation. -/
def Dev.spdmLater (d : Dev) (ch : Channel) (f : Dev → Dev) : Dev :=
  d.spdmServe ch fun d => if (d.spdm ch).step = 3 then f d else d.answer ch ansUnexpected [] []

/-- GET_VERSION starts the connection anew. -/
def Dev.getVersion (d : Dev) (ch : Channel) : Dev := d.spdmServe ch fun d => (d.setSpdm ch { step := 1 }).answer ch ansServed [] []

/-- GET_VERSION. -/
def execGetVersion (ch : Channel) (s : State) : Host.Outcome State Fault Refusal := .next (s.on fun d => d.getVersion ch)

/-- GET_CAPABILITIES comes after GET_VERSION. -/
def Dev.getCapabilities (d : Dev) (ch : Channel) : Dev :=
  d.spdmServe ch fun d =>
    if (d.spdm ch).step = 1 then (d.setSpdm ch { step := 2 }).answer ch ansServed [] [] else d.answer ch ansUnexpected [] []

/-- GET_CAPABILITIES. -/
def execGetCapabilities (ch : Channel) (s : State) : Host.Outcome State Fault Refusal := .next (s.on fun d => d.getCapabilities ch)

/-- NEGOTIATE_ALGORITHMS, `supported`: the requester offers the algorithms of R425. -/
def Dev.negotiateAlgorithms (d : Dev) (ch : Channel) (supported : Bool) : Dev :=
  d.spdmServe ch fun d =>
    if (d.spdm ch).step ≠ 2 then d.answer ch ansUnexpected [] []
    else if supported then (d.setSpdm ch { step := 3 }).answer ch ansServed [] []
    else d.answer ch ansUnspecified [] []

/-- NEGOTIATE_ALGORITHMS. -/
def execNegotiateAlgorithms (ch : Channel) (supported : Bool) (s : State) : Host.Outcome State Fault Refusal :=
  .next (s.on fun d => d.negotiateAlgorithms ch supported)

/-- An answer with n free bytes: a digest of the chain, the chain itself or a signature, which the spec does not state. -/
def Dev.answerFree (d : Dev) (ch : Channel) (n : Nat) : Dev :=
  let (d, bs) := d.freeBytes n
  d.answer ch ansServed [] bs

/-- A request about slot 0's chain or for a signature: Unspecified for another slot, or while id_fault stands (R417). -/
def Dev.chainAnswer (d : Dev) (ch : Channel) (slot n : Nat) : Dev :=
  d.spdmLater ch fun d => if slot ≠ 0 ∨ d.rdB .secStatus 0 7 then d.answer ch ansUnspecified [] [] else d.answerFree ch n

/-- GET_DIGESTS: the SHA-512 of the chain of slot 0. -/
def Dev.getDigests (d : Dev) (ch : Channel) (slot : Nat) : Dev :=
  d.spdmLater ch fun d => if slot ≠ 0 then d.answer ch ansUnspecified [] [] else d.answerFree ch 64

/-- GET_DIGESTS. -/
def execGetDigests (ch : Channel) (slot : Nat) (s : State) : Host.Outcome State Fault Refusal :=
  .next (s.on fun d => d.getDigests ch slot)

/-- GET_CERTIFICATE: a chain of free length. -/
def Dev.getCertificate (d : Dev) (ch : Channel) (slot : Nat) : Dev :=
  let (n, d) := d.free
  d.chainAnswer ch slot (n % 65536)

/-- GET_CERTIFICATE. -/
def execGetCertificate (ch : Channel) (slot : Nat) (s : State) : Host.Outcome State Fault Refusal :=
  .next (s.on fun d => d.getCertificate ch slot)

/-- CHALLENGE: a signature by the identity key. -/
def Dev.challenge (d : Dev) (ch : Channel) (slot : Nat) : Dev := d.chainAnswer ch slot 64

/-- CHALLENGE. -/
def execChallenge (ch : Channel) (slot : Nat) (s : State) : Host.Outcome State Fault Refusal :=
  .next (s.on fun d => d.challenge ch slot)

/-- The hash of the section of a type that the running image has exactly once. -/
def Dev.sectionHash (d : Dev) (t : Nat) : List Byte := (((ofType (imgSections d.boot.image) t).head?).map (·.hash)).getD []

/-- The digest of all sections of a type, in table order; none where their bytes are no longer those that ran. -/
def Dev.sectionsHash (d : Dev) (t : Nat) : Option (List Byte) :=
  let img := d.boot.flash.image
  let xs := ofType (imgSections d.boot.image) t
  if xs.all (hashOk img) then some (sha512 (xs.flatMap fun x => sectionBytes img x)) else none

/-- The digest of a measurement index (Table 16-11), none where the spec does not state the bytes it is taken of. -/
def Dev.measurement (d : Dev) (index : Nat) : Option (List Byte) :=
  match index with
  | 2 => some (d.sectionHash secFirmware)
  | 3 => some (d.sectionHash secConfig)
  | 4 => d.sectionsHash secPreload
  | 5 => d.sectionsHash secPattern
  | 8 => some (sha512 d.boot.opKey)
  | _ => none

/-- GET_MEASUREMENTS: the digest of an index of Table 16-11. In the Recovery Service no section has been loaded, so
indices 2 to 5 are answered Unspecified. -/
def Dev.getMeasurements (d : Dev) (ch : Channel) (index : Nat) : Dev :=
  d.spdmLater ch fun d =>
    if index = 0 ∨ 9 < index ∨ (d.recovery ∧ 2 ≤ index ∧ index ≤ 5) then d.answer ch ansUnspecified [] []
    else match d.measurement index with
      | some bs => d.answer ch ansServed [] bs
      | none => d.answerFree ch 64

/-- GET_MEASUREMENTS. -/
def execGetMeasurements (ch : Channel) (index : Nat) (s : State) : Host.Outcome State Fault Refusal :=
  .next (s.on fun d => d.getMeasurements ch index)

/-- KEY_EXCHANGE: a signed answer, and a session that FINISH completes. -/
def Dev.keyExchange (d : Dev) (ch : Channel) : Dev :=
  d.spdmLater ch fun d =>
    if d.rdB .secStatus 0 7 then d.answer ch ansUnspecified [] []
    else (d.setSpdm ch { step := 3, session := 1 }).answerFree ch 64

/-- KEY_EXCHANGE. -/
def execKeyExchange (ch : Channel) (s : State) : Host.Outcome State Fault Refusal := .next (s.on fun d => d.keyExchange ch)

/-- FINISH, `ok`: it verifies; `operator`: the requester's chain is rooted at the operator key. -/
def Dev.finish (d : Dev) (ch : Channel) (ok operator : Bool) : Dev :=
  d.spdmLater ch fun d =>
    if (d.spdm ch).session ≠ 1 then d.answer ch ansUnexpected [] []
    else if ok then (d.setSpdm ch { step := 3, session := 2, operator := operator }).answer ch ansServed [] []
    else (d.setSpdm ch { step := 3 }).answer ch ansUnspecified [] []

/-- FINISH. -/
def execFinish (ch : Channel) (ok operator : Bool) (s : State) : Host.Outcome State Fault Refusal :=
  .next (s.on fun d => d.finish ch ok operator)

/-- A message of an established session. -/
def Dev.inSession (d : Dev) (ch : Channel) (f : Dev → Dev) : Dev :=
  d.spdmLater ch fun d => if (d.spdm ch).session = 2 then (f d).answer ch ansServed [] [] else d.answer ch ansUnexpected [] []

/-- HEARTBEAT: the session stays. -/
def execHeartbeat (ch : Channel) (s : State) : Host.Outcome State Fault Refusal := .next (s.on fun d => d.inSession ch id)

/-- KEY_UPDATE: the session stays, under new keys, which no register shows. -/
def execKeyUpdate (ch : Channel) (s : State) : Host.Outcome State Fault Refusal := .next (s.on fun d => d.inSession ch id)

/-- END_SESSION: the session is gone. -/
def execEndSession (ch : Channel) (s : State) : Host.Outcome State Fault Refusal :=
  .next (s.on fun d => d.inSession ch fun d => d.setSpdm ch { step := 3 })

end Sys2Proof.Machine
end

