-- ==== Sys2Proof/Machine/Dispatch.lean ====
section
/-! DEFINITION. Each command's meaning: one arm per constructor of Instr. -/

namespace Sys2Proof.Machine

/-- The effect of a command on everything but the queue of commands. -/
def exec (i : Instr) (s : State) : Host.Outcome State Fault Refusal :=
  match i with
  | .bell watts => Sys2Proof.Machine.execBell watts s
  | .timIncHiWrite who v => Sys2Proof.Machine.execTimIncHiWrite who v s
  | .step who => Sys2Proof.Machine.execStep who s
  | .holdoverSet who => Sys2Proof.Machine.execHoldoverSet who s
  | .holdoverTimeout => Sys2Proof.Machine.execHoldoverTimeout s
  | .timCommit who mask => Sys2Proof.Machine.execTimCommit who mask s
  | .commitValidation d => Sys2Proof.Machine.execCommitValidation d s
  | .timCmtCancel who mask => Sys2Proof.Machine.execTimCmtCancel who mask s
  | .timCmtDiscard who mask => Sys2Proof.Machine.execTimCmtDiscard who mask s
  | .ppsInEdge => Sys2Proof.Machine.execPpsInEdge s
  | .ppsOutPulse => Sys2Proof.Machine.execPpsOutPulse s
  | .ppsOutEnd => Sys2Proof.Machine.execPpsOutEnd s
  | .belfryPtpSend lp p => Sys2Proof.Machine.execBelfryPtpSend lp p s
  | .groupReceived lp lane pair => Sys2Proof.Machine.execGroupReceived lp lane pair s
  | .sendGroup lp => Sys2Proof.Machine.execSendGroup lp s
  | .replay lp => Sys2Proof.Machine.execReplay lp s
  | .ackStallTimeout lp => Sys2Proof.Machine.execAckStallTimeout lp s
  | .tsAlign lp lane named version recSeq skew => Sys2Proof.Machine.execTsAlign lp lane named version recSeq skew s
  | .tsIdent lp r recSeq => Sys2Proof.Machine.execTsIdent lp r recSeq s
  | .tsParam lp version recSeq credits => Sys2Proof.Machine.execTsParam lp version recSeq credits s
  | .tsAck lp version recType ackSeq => Sys2Proof.Machine.execTsAck lp version recType ackSeq s
  | .linkDown lp version reason => Sys2Proof.Machine.execLinkDown lp version reason s
  | .trainingResend lp => Sys2Proof.Machine.execTrainingResend lp s
  | .trainingTimeout lp => Sys2Proof.Machine.execTrainingTimeout lp s
  | .fecAlignTimeout lp => Sys2Proof.Machine.execFecAlignTimeout lp s
  | .heartbeatTimeout lp => Sys2Proof.Machine.execHeartbeatTimeout lp s
  | .holdoffEnd lp => Sys2Proof.Machine.execHoldoffEnd lp s
  | .leaveDown lp => Sys2Proof.Machine.execLeaveDown lp s
  | .lnkCtrlDown who lp => Sys2Proof.Machine.execLnkCtrlDown who lp s
  | .lnkCtrlRetrain who lp => Sys2Proof.Machine.execLnkCtrlRetrain who lp s
  | .clrCounters who off => Sys2Proof.Machine.execClrCounters who off s
  | .ethFrameHead lp head => Sys2Proof.Machine.execEthFrameHead lp head s
  | .ethFrameEnd lp rest => Sys2Proof.Machine.execEthFrameEnd lp rest s
  | .pcsAligned lp => Sys2Proof.Machine.execPcsAligned lp s
  | .pcsAlignLost lp => Sys2Proof.Machine.execPcsAlignLost lp s
  | .headLookup lp vc => Sys2Proof.Machine.execHeadLookup lp vc s
  | .genDrainEnd die => Sys2Proof.Machine.execGenDrainEnd die s
  | .rejoin lp => Sys2Proof.Machine.execRejoin lp s
  | .flushFlowlets who pl => Sys2Proof.Machine.execFlushFlowlets who pl s
  | .tapRead who tap cmd => Sys2Proof.Machine.execTapRead who tap cmd s
  | .tapWrite who tap cmd => Sys2Proof.Machine.execTapWrite who tap cmd s
  | .tapInsert who tap cmd => Sys2Proof.Machine.execTapInsert who tap cmd s
  | .tapDelete who tap cmd => Sys2Proof.Machine.execTapDelete who tap cmd s
  | .tapSearch who tap cmd => Sys2Proof.Machine.execTapSearch who tap cmd s
  | .tapAgeScan who tap cmd => Sys2Proof.Machine.execTapAgeScan who tap cmd s
  | .tapFlush who tap cmd => Sys2Proof.Machine.execTapFlush who tap cmd s
  | .tapBadOp who tap cmd => Sys2Proof.Machine.execTapBadOp who tap cmd s
  | .tapDone tap => Sys2Proof.Machine.execTapDone tap s
  | .tableScrub die table gen pipe idx upset => Sys2Proof.Machine.execTableScrub die table gen pipe idx upset s
  | .letAger pl slot => Sys2Proof.Machine.execLetAger pl slot s
  | .learnInsert pl => Sys2Proof.Machine.execLearnInsert pl s
  | .letCacheFill lp => Sys2Proof.Machine.execLetCacheFill lp s
  | .admissionRecheck lp vc => Sys2Proof.Machine.execAdmissionRecheck lp vc s
  | .schedulerSelect lp vc => Sys2Proof.Machine.execSchedulerSelect lp vc s
  | .cellTransmit lp way => Sys2Proof.Machine.execCellTransmit lp way s
  | .depthExchange => Sys2Proof.Machine.execDepthExchange s
  | .congEcho lp p => Sys2Proof.Machine.execCongEcho lp p s
  | .echoInterval die => Sys2Proof.Machine.execEchoInterval die s
  | .limiterIncrease die k => Sys2Proof.Machine.execLimiterIncrease die k s
  | .spillWrite die pid => Sys2Proof.Machine.execSpillWrite die pid s
  | .spillReadback die pid => Sys2Proof.Machine.execSpillReadback die pid s
  | .meshFence die peer => Sys2Proof.Machine.execMeshFence die peer s
  | .d2dRetrain who die mask ok => Sys2Proof.Machine.execD2dRetrain who die mask ok s
  | .collUp lp p => Sys2Proof.Machine.execCollUp lp p s
  | .chunkClose g seq chunk bad => Sys2Proof.Machine.execChunkClose g seq chunk bad s
  | .collDown lp p => Sys2Proof.Machine.execCollDown lp p s
  | .collAbort lp p => Sys2Proof.Machine.execCollAbort lp p s
  | .faultBeacon lp p => Sys2Proof.Machine.execFaultBeacon lp p s
  | .skewTimeout g seq chunk => Sys2Proof.Machine.execSkewTimeout g seq chunk s
  | .groupActivate ring host => Sys2Proof.Machine.execGroupActivate ring host s
  | .groupDeactivate ring host => Sys2Proof.Machine.execGroupDeactivate ring host s
  | .collectiveDescriptor ring host => Sys2Proof.Machine.execCollectiveDescriptor ring host s
  | .collectiveArm g host => Sys2Proof.Machine.execCollectiveArm g host s
  | .embLookup lp p => Sys2Proof.Machine.execEmbLookup lp p s
  | .lookupComplete die k bad => Sys2Proof.Machine.execLookupComplete die k bad s
  | .embAdd lp p => Sys2Proof.Machine.execEmbAdd lp p s
  | .embUpdateCommit lp p => Sys2Proof.Machine.execEmbUpdateCommit lp p s
  | .embDiscard lp p => Sys2Proof.Machine.execEmbDiscard lp p s
  | .commitDone table => Sys2Proof.Machine.execCommitDone table s
  | .snapshot ring host => Sys2Proof.Machine.execSnapshot ring host s
  | .snapshotGranule table => Sys2Proof.Machine.execSnapshotGranule table s
  | .mirrorGranule table => Sys2Proof.Machine.execMirrorGranule table s
  | .restore ring host => Sys2Proof.Machine.execRestore ring host s
  | .embCommit ring host => Sys2Proof.Machine.execEmbCommit ring host s
  | .memRd lp p => Sys2Proof.Machine.execMemRd lp p s
  | .memRdNarrow lp p => Sys2Proof.Machine.execMemRdNarrow lp p s
  | .memWr lp p => Sys2Proof.Machine.execMemWr lp p s
  | .memWrNarrow lp p => Sys2Proof.Machine.execMemWrNarrow lp p s
  | .memAtomic lp p => Sys2Proof.Machine.execMemAtomic lp p s
  | .memRed lp p => Sys2Proof.Machine.execMemRed lp p s
  | .memFence lp p => Sys2Proof.Machine.execMemFence lp p s
  | .memRspData lp p => Sys2Proof.Machine.execMemRspData lp p s
  | .memRspDone lp p => Sys2Proof.Machine.execMemRspDone lp p s
  | .memNak lp p => Sys2Proof.Machine.execMemNak lp p s
  | .memAccessDone die k upset => Sys2Proof.Machine.execMemAccessDone die k upset s
  | .combineIssue die line => Sys2Proof.Machine.execCombineIssue die line s
  | .orderHoldRelease die => Sys2Proof.Machine.execOrderHoldRelease die s
  | .memPeerTimeout die k => Sys2Proof.Machine.execMemPeerTimeout die k s
  | .quarantineEnd die k => Sys2Proof.Machine.execQuarantineEnd die k s
  | .patrolScrub hs block upset last => Sys2Proof.Machine.execPatrolScrub hs block upset last s
  | .hbmTempRead hs temp => Sys2Proof.Machine.execHbmTempRead hs temp s
  | .stackTrainingDone hs bad spares => Sys2Proof.Machine.execStackTrainingDone hs bad spares s
  | .channelFail hs found => Sys2Proof.Machine.execChannelFail hs found s
  | .hbmFence who hs => Sys2Proof.Machine.execHbmFence who hs s
  | .hbmRetrain who hs => Sys2Proof.Machine.execHbmRetrain who hs s
  | .rngDbSq who ring w => Sys2Proof.Machine.execRngDbSq who ring w s
  | .rngDbCq who ring w => Sys2Proof.Machine.execRngDbCq who ring w s
  | .suspend who ring => Sys2Proof.Machine.execSuspend who ring s
  | .resume who ring => Sys2Proof.Machine.execResume who ring s
  | .cancel who ring all => Sys2Proof.Machine.execCancel who ring all s
  | .ctrlUnknown who ring w => Sys2Proof.Machine.execCtrlUnknown who ring w s
  | .ringDoorbell lp p => Sys2Proof.Machine.execRingDoorbell lp p s
  | .copy ring host => Sys2Proof.Machine.execCopy ring host s
  | .fill ring host => Sys2Proof.Machine.execFill ring host s
  | .checksum ring host => Sys2Proof.Machine.execChecksum ring host s
  | .tableLoad ring host => Sys2Proof.Machine.execTableLoad ring host s
  | .scrub ring host => Sys2Proof.Machine.execScrub ring host s
  | .imageStage ring host => Sys2Proof.Machine.execImageStage ring host s
  | .patternRun ring host run => Sys2Proof.Machine.execPatternRun ring host run s
  | .invalidDescriptor ring host => Sys2Proof.Machine.execInvalidDescriptor ring host s
  | .progressUnitDone ring host => Sys2Proof.Machine.execProgressUnitDone ring host s
  | .msgPut lp p => Sys2Proof.Machine.execMsgPut lp p s
  | .msgGetReq lp p => Sys2Proof.Machine.execMsgGetReq lp p s
  | .msgGetRsp lp p abort => Sys2Proof.Machine.execMsgGetRsp lp p abort s
  | .getTimeout die slot => Sys2Proof.Machine.execGetTimeout die slot s
  | .hubReclaimStart who w => Sys2Proof.Machine.execHubReclaimStart who w s
  | .reclaimQuiesceBound => Sys2Proof.Machine.execReclaimQuiesceBound s
  | .reclaimDrainBound => Sys2Proof.Machine.execReclaimDrainBound s
  | .reclaimScrubDone => Sys2Proof.Machine.execReclaimScrubDone s
  | .hubReclaimRel who w => Sys2Proof.Machine.execHubReclaimRel who w s
  | .elsFault m status => Sys2Proof.Machine.execElsFault m status s
  | .sourceReady m tones => Sys2Proof.Machine.execSourceReady m tones s
  | .acquireDone fp dir lane peaks heater => Sys2Proof.Machine.execAcquireDone fp dir lane peaks heater s
  | .retuneDone fp dir lane found heater => Sys2Proof.Machine.execRetuneDone fp dir lane found heater s
  | .verifyDone fp dir lane tone => Sys2Proof.Machine.execVerifyDone fp dir lane tone s
  | .wrongCntReset fp dir lane => Sys2Proof.Machine.execWrongCntReset fp dir lane s
  | .lockLoss fp dir lane => Sys2Proof.Machine.execLockLoss fp dir lane s
  | .lanternCalibration l settings => Sys2Proof.Machine.execLanternCalibration l settings s
  | .monitorReading l kind k code => Sys2Proof.Machine.execMonitorReading l kind k code s
  | .migReq lp pos bell recSeq => Sys2Proof.Machine.execMigReq lp pos bell recSeq s
  | .migReady lp recSeq => Sys2Proof.Machine.execMigReady lp recSeq s
  | .migDone lp recSeq => Sys2Proof.Machine.execMigDone lp recSeq s
  | .migAbort lp r => Sys2Proof.Machine.execMigAbort lp r s
  | .spareMap lp dir pos recSeq => Sys2Proof.Machine.execSpareMap lp dir pos recSeq s
  | .hold lp bell dur recSeq => Sys2Proof.Machine.execHold lp bell dur recSeq s
  | .migDoneTimeout fp => Sys2Proof.Machine.execMigDoneTimeout fp s
  | .migRetry fp => Sys2Proof.Machine.execMigRetry fp s
  | .lanUnspare who fp => Sys2Proof.Machine.execLanUnspare who fp s
  | .lanUnfence who fp => Sys2Proof.Machine.execLanUnfence who fp s
  | .eyeRxLoss fp => Sys2Proof.Machine.execEyeRxLoss fp s
  | .probe fp => Sys2Proof.Machine.execProbe fp s
  | .probeReceived fp seen => Sys2Proof.Machine.execProbeReceived fp seen s
  | .tileWdt ct => Sys2Proof.Machine.execTileWdt ct s
  | .ringWdt ring => Sys2Proof.Machine.execRingWdt ring s
  | .headStall lp vc => Sys2Proof.Machine.execHeadStall lp vc s
  | .belfryWdt => Sys2Proof.Machine.execBelfryWdt s
  | .hubBwdtPet who => Sys2Proof.Machine.execHubBwdtPet who s
  | .tileReset who ct capture => Sys2Proof.Machine.execTileReset who ct capture s
  | .dieComputeReset who die capture => Sys2Proof.Machine.execDieComputeReset who die capture s
  | .belfryReset who capture => Sys2Proof.Machine.execBelfryReset who capture s
  | .logicalPortReset who lp capture => Sys2Proof.Machine.execLogicalPortReset who lp capture s
  | .fibrePortReset who fp capture => Sys2Proof.Machine.execFibrePortReset who fp capture s
  | .hbmStackReset who hs capture => Sys2Proof.Machine.execHbmStackReset who hs capture s
  | .dataPathReset who capture => Sys2Proof.Machine.execDataPathReset who capture s
  | .warmChipReset who capture => Sys2Proof.Machine.execWarmChipReset who capture s
  | .coldReset who capture => Sys2Proof.Machine.execColdReset who capture s
  | .resetDone dom target => Sys2Proof.Machine.execResetDone dom target s
  | .escalation dom target => Sys2Proof.Machine.execEscalation dom target s
  | .captureDone dom target sections => Sys2Proof.Machine.execCaptureDone dom target sections s
  | .captureRelease who => Sys2Proof.Machine.execCaptureRelease who s
  | .sentinelRotation => Sys2Proof.Machine.execSentinelRotation s
  | .cupSenRotate who die => Sys2Proof.Machine.execCupSenRotate who die s
  | .sentinelCompare die k bad temp mv load => Sys2Proof.Machine.execSentinelCompare die k bad temp mv load s
  | .sentinelReplay die k bad => Sys2Proof.Machine.execSentinelReplay die k bad s
  | .replayWaitTimeout die k => Sys2Proof.Machine.execReplayWaitTimeout die k s
  | .fenceCmd who ct => Sys2Proof.Machine.execFenceCmd who ct s
  | .unfenceCmd who ct => Sys2Proof.Machine.execUnfenceCmd who ct s
  | .fenceLogWrite ct ok => Sys2Proof.Machine.execFenceLogWrite ct ok s
  | .idlePattern ct run => Sys2Proof.Machine.execIdlePattern ct run s
  | .powerGood p => Sys2Proof.Machine.execPowerGood p s
  | .pwrGoodDeassert => Sys2Proof.Machine.execPwrGoodDeassert s
  | .sectionStream => Sys2Proof.Machine.execSectionStream s
  | .linksDieEnable die => Sys2Proof.Machine.execLinksDieEnable die s
  | .fibreOpenStep die => Sys2Proof.Machine.execFibreOpenStep die s
  | .forwardEntry => Sys2Proof.Machine.execForwardEntry s
  | .readyEntry ms => Sys2Proof.Machine.execReadyEntry ms s
  | .verify who len => Sys2Proof.Machine.execVerify who len s
  | .verifyWrite who len => Sys2Proof.Machine.execVerifyWrite who len s
  | .provision who len => Sys2Proof.Machine.execProvision who len s
  | .recoverNext who => Sys2Proof.Machine.execRecoverNext who s
  | .updateDone fail => Sys2Proof.Machine.execUpdateDone fail s
  | .mgmtMctp lp p => Sys2Proof.Machine.execMgmtMctp lp p s
  | .hubMbxCmd who half w => Sys2Proof.Machine.execHubMbxCmd who half w s
  | .mbxResponse half msg => Sys2Proof.Machine.execMbxResponse half msg s
  | .mbxTimeout half => Sys2Proof.Machine.execMbxTimeout half s
  | .mctpControl ch => Sys2Proof.Machine.execMctpControl ch s
  | .pldmRequest ch sensor => Sys2Proof.Machine.execPldmRequest ch sensor s
  | .vendorDefinedMessage ch ops => Sys2Proof.Machine.execVendorDefinedMessage ch ops s
  | .getVersion ch => Sys2Proof.Machine.execGetVersion ch s
  | .getCapabilities ch => Sys2Proof.Machine.execGetCapabilities ch s
  | .negotiateAlgorithms ch supported => Sys2Proof.Machine.execNegotiateAlgorithms ch supported s
  | .getDigests ch slot => Sys2Proof.Machine.execGetDigests ch slot s
  | .getCertificate ch slot => Sys2Proof.Machine.execGetCertificate ch slot s
  | .challenge ch slot => Sys2Proof.Machine.execChallenge ch slot s
  | .getMeasurements ch index => Sys2Proof.Machine.execGetMeasurements ch index s
  | .keyExchange ch => Sys2Proof.Machine.execKeyExchange ch s
  | .finish ch ok operator => Sys2Proof.Machine.execFinish ch ok operator s
  | .heartbeat ch => Sys2Proof.Machine.execHeartbeat ch s
  | .keyUpdate ch => Sys2Proof.Machine.execKeyUpdate ch s
  | .endSession ch => Sys2Proof.Machine.execEndSession ch s
  | .claim who token => Sys2Proof.Machine.execClaim who token s
  | .release who token => Sys2Proof.Machine.execRelease who token s
  | .forceRelease who => Sys2Proof.Machine.execForceRelease who s
  | .hostPortReset h down => Sys2Proof.Machine.execHostPortReset h down s
  | .bar4Read h off n => Sys2Proof.Machine.execBar4Read h off n s
  | .bar4Write h off data poisoned => Sys2Proof.Machine.execBar4Write h off data poisoned s
  | .registerWrite who acc v => Sys2Proof.Machine.execRegisterWrite who acc v s
  | .readClear who acc => Sys2Proof.Machine.execReadClear who acc s
  | .lowHalfRead who acc => Sys2Proof.Machine.execLowHalfRead who acc s
  | .msixUnmask h vec => Sys2Proof.Machine.execMsixUnmask h vec s
  | .resetN => Sys2Proof.Machine.execResetN s
  | .sysclkLost => Sys2Proof.Machine.execSysclkLost s
  | .recordWrite origin => Sys2Proof.Machine.execRecordWrite origin s
  | .flush => Sys2Proof.Machine.execFlush s
  | .flushMsExpiry => Sys2Proof.Machine.execFlushMsExpiry s
  | .evrFlush who => Sys2Proof.Machine.execEvrFlush who s
  | .pwrWarnN => Sys2Proof.Machine.execPwrWarnN s
  | .pwrWarnDeassert => Sys2Proof.Machine.execPwrWarnDeassert s
  | .evrFindSeq who v => Sys2Proof.Machine.execEvrFindSeq who v s
  | .ocuPeakClr who die v => Sys2Proof.Machine.execOcuPeakClr who die v s
  | .peakClrAll who die => Sys2Proof.Machine.execPeakClrAll who die s
  | .clrFixed who die => Sys2Proof.Machine.execClrFixed who die s
  | .clrProg who die => Sys2Proof.Machine.execClrProg who die s
  | .unitWake unit => Sys2Proof.Machine.execUnitWake unit s
  | .unitExitDone unit ok => Sys2Proof.Machine.execUnitExitDone unit ok s
  | .latTol lp p => Sys2Proof.Machine.execLatTol lp p s
  | .hostLtr h ns => Sys2Proof.Machine.execHostLtr h ns s
  | .thermalSensorRead k temp => Sys2Proof.Machine.execThermalSensorRead k temp s
  | .railFault r mv => Sys2Proof.Machine.execRailFault r mv s
  | .collNak lp p => Sys2Proof.Machine.execCollNak lp p s
  | .moduleAbsent m => Sys2Proof.Machine.execModuleAbsent m s
  | .configurationRequest h r => Sys2Proof.Machine.execConfigurationRequest h r s
  | .hostLinkUp h rate width => Sys2Proof.Machine.execHostLinkUp h rate width s
  | .dynamicAddressAssignment b addr => Sys2Proof.Machine.execDynamicAddressAssignment b addr s

end Sys2Proof.Machine
end

