-- ==== Sys2Proof/Safety.lean ====
section
/-! DEFINITION. What a safe state is, and the words the statements use: how a command completes and what it leaves alone. -/

namespace Sys2Proof.Machine

/-- HBM stands in its canonical form: the invariant that every step keeps. -/
def State.Inv (s : State) : Prop := Memory.wf s.hbm = true

/-- The command completes: exec answers a next state, and that state has the property. -/
def Completes (i : Instr) (s : State) (P : State → Prop) : Prop := ∃ t, exec i s = .next t ∧ P t

/-- Every byte of HBM reads as before. -/
def SameMemory (s t : State) : Prop := ∀ a, hbmByte t.hbm a = hbmByte s.hbm a

/-- Every register reads as before, but for those that the condition names. -/
def SameRegsBut (s t : State) (p : Reg → Nat → Bool) : Prop := ∀ r i, p r i = false → t.dev.rd r i = s.dev.rd r i

/-- The device differs in its registers only. -/
def OnlyRegs (s t : State) : Prop :=
  t = { s with dev := { s.dev with regs := t.dev.regs } }

/-- No packet, no resident group, no memory request and no spare migration is under way: a port that leaves service has
nothing to end. -/
def Quiet (d : Dev) : Prop :=
  d.keep.pkts = [] ∧ d.keep.slots = [] ∧ d.keep.queues = [] ∧ d.lan.mig = [] ∧ d.col.groups = [] ∧ d.mem.ents = [] ∧
  d.link.lost = []

/-- Belfry has answered on a channel with a code: its answer is the newest output, HBM stands, and an in-band request has
left the queue. -/
def Answered (s t : State) (ch : Channel) (code : Nat) : Prop :=
  (∃ ws bs, t.dev.out = .mgmt ch code ws bs :: s.dev.out) ∧ (ch = .inband → t.dev.mgt.queue = s.dev.mgt.queue.tail) ∧ t.hbm = s.hbm

/-- The rows that are the write of a control register (19 R471), with the partner and the BAR0 offset; REGISTER_WRITE apart. -/
def controlWrite : Instr → Option (Partner × Nat)
| .flushFlowlets who pl => some (who, regOffset .plnFwdCtrl pl)
  | .hbmFence who hs => some (who, regOffset .hbmCtrl hs)
  | .hbmRetrain who hs => some (who, regOffset .hbmCtrl hs)
  | .lanUnspare who fp => some (who, regOffset .lanFibCtrl fp)
  | .lanUnfence who fp => some (who, regOffset .lanFibCtrl fp)
  | .lnkCtrlDown who lp => some (who, regOffset .plnLnkCtrl lp)
  | .lnkCtrlRetrain who lp => some (who, regOffset .plnLnkCtrl lp)
  | .clrCounters who off => some (who, off)
  | .ocuPeakClr who die _ => some (who, offOcuCtrl die.val + 0xA400)
  | .peakClrAll who die => some (who, offOcuCtrl die.val)
  | .clrFixed who die => some (who, offOcuCtrl die.val)
  | .clrProg who die => some (who, offOcuCtrl die.val)
  | .hubReclaimStart who _ => some (who, 0x200)
  | .hubReclaimRel who _ => some (who, 0x214)
  | .evrFlush who => some (who, 0x40004)
  | .evrFindSeq who _ => some (who, 0x40084)
  | .captureRelease who => some (who, 0x328)
  | .tileReset who _ _ => some (who, 0x310)
  | .dieComputeReset who _ _ => some (who, 0x310)
  | .belfryReset who _ => some (who, 0x310)
  | .logicalPortReset who _ _ => some (who, 0x310)
  | .fibrePortReset who _ _ => some (who, 0x310)
  | .hbmStackReset who _ _ => some (who, 0x310)
  | .dataPathReset who _ => some (who, 0x310)
  | .warmChipReset who _ => some (who, 0x310)
  | .coldReset who _ => some (who, 0x310)
  | .hubBwdtPet who => some (who, 0x304)
  | .cupSenRotate who die => some (who, regOffset .cupSenCtrl die)
  | .fenceCmd who _ => some (who, 0x500)
  | .unfenceCmd who _ => some (who, 0x500)
  | .tapRead who tap _ => some (who, offTapCmd tap)
  | .tapWrite who tap _ => some (who, offTapCmd tap)
  | .tapInsert who tap _ => some (who, offTapCmd tap)
  | .tapDelete who tap _ => some (who, offTapCmd tap)
  | .tapSearch who tap _ => some (who, offTapCmd tap)
  | .tapAgeScan who tap _ => some (who, offTapCmd tap)
  | .tapFlush who tap _ => some (who, offTapCmd tap)
  | .tapBadOp who tap _ => some (who, offTapCmd tap)
  | .timIncHiWrite who _ => some (who, 0x10024)
  | .step who => some (who, offTimCtrl)
  | .holdoverSet who => some (who, offTimCtrl)
  | .timCommit who _ => some (who, 0x10068)
  | .timCmtCancel who _ => some (who, 0x1006C)
  | .timCmtDiscard who _ => some (who, 0x10070)
  | .d2dRetrain who die _ _ => some (who, regOffset .d2dCtrl die)
  | .verify who _ => some (who, 0x90028)
  | .verifyWrite who _ => some (who, 0x90028)
  | .provision who _ => some (who, 0x90028)
  | .recoverNext who => some (who, 0x90028)
  | _ => none

/-- Whether a row can store to HBM; those that cannot are listed. -/
def mayStore : Instr → Bool
  | .linksDieEnable .. | .fibreOpenStep .. | .forwardEntry .. | .readyEntry .. | .collNak ..
  | .commitValidation .. | .readClear .. | .lowHalfRead .. | .embLookup .. | .flushFlowlets .. | .echoInterval ..
  | .headLookup .. | .genDrainEnd .. | .congEcho .. | .limiterIncrease .. | .patrolScrub ..
  | .channelFail .. | .hbmFence .. | .hbmRetrain .. | .claim .. | .release .. | .forceRelease .. | .hostLinkUp ..
  | .msixUnmask .. | .configurationRequest .. | .dynamicAddressAssignment .. | .depthExchange .. | .acquireDone ..
  | .retuneDone .. | .verifyDone .. | .wrongCntReset .. | .lockLoss .. | .lanternCalibration .. | .migReq ..
  | .migReady .. | .migDone .. | .migAbort .. | .migDoneTimeout .. | .migRetry .. | .lanUnspare .. | .lanUnfence ..
  | .spareMap .. | .hold .. | .elsFault .. | .moduleAbsent .. | .sourceReady .. | .monitorReading .. | .eyeRxLoss ..
  | .probe .. | .probeReceived .. | .mgmtMctp .. | .mbxResponse .. | .mbxTimeout .. | .mctpControl ..
  | .pldmRequest .. | .getVersion .. | .getCapabilities .. | .negotiateAlgorithms .. | .getDigests ..
  | .getCertificate .. | .challenge .. | .getMeasurements .. | .keyExchange .. | .finish .. | .heartbeat ..
  | .keyUpdate .. | .endSession .. | .combineIssue .. | .memRspData .. | .memRspDone .. | .memNak ..
  | .memPeerTimeout .. | .quarantineEnd .. | .ocuPeakClr .. | .peakClrAll .. | .clrFixed .. | .clrProg ..
  | .unitExitDone .. | .latTol .. | .hostLtr .. | .railFault .. | .sysclkLost .. | .hubReclaimStart ..
  | .reclaimQuiesceBound .. | .hubReclaimRel .. | .recordWrite .. | .flush | .flushMsExpiry | .evrFlush ..
  | .pwrWarnN .. | .pwrWarnDeassert .. | .evrFindSeq .. | .captureRelease .. | .resetDone .. | .hubBwdtPet ..
  | .schedulerSelect .. | .sentinelRotation .. | .cupSenRotate .. | .sentinelCompare .. | .sentinelReplay ..
  | .replayWaitTimeout .. | .idlePattern .. | .fenceCmd .. | .unfenceCmd .. | .fenceLogWrite ..
  | .timIncHiWrite .. | .step .. | .holdoverSet .. | .holdoverTimeout .. | .timCommit .. | .timCmtCancel ..
  | .timCmtDiscard .. | .ppsInEdge .. | .ppsOutPulse .. | .ppsOutEnd .. | .cellTransmit .. | .spillReadback ..
  | .meshFence .. | .d2dRetrain .. | .belfryPtpSend .. | .unitWake .. | .verify .. | .verifyWrite .. | .provision ..
  | .recoverNext .. => false
  | _ => true

end Sys2Proof.Machine
end

