-- ==== Sys2Proof/Certificates/Slice0/Obligations.lean ====
section
/-! DEFINITION. The statements about the device that the provers are given. -/

open Sys2Proof Sys2Proof.Machine

/-- A fibre port is numbered by its Lantern and fibre as Lantern × 16 + fibre; the pipeline of each of its logical
ports (by its number within the chip, die × 8 + k) is pipeline k of die n exactly when the Lantern is 2n + (k div 4)
and the fibre is one of 4 × (k mod 4) to 4 × (k mod 4) + 3. A fibre port creates, of its block of eight, the logical
port 0 at the 1 × 1.6 Tb/s breakout, 0 and 4 at 2 × 800 Gb/s, 0, 2, 4 and 6 at 4 × 400 Gb/s, and all eight at 8 × 200
Gb/s; the others are not in use. -/
def Obligations.PortNumbering : Prop :=
  (∀ (n k : Fin 8) (lantern : Fin 16) (fibre : Fin 16) (lane : Fin 8),
    lpPl ((lantern * 16 + fibre) * 8 + lane) = n * 8 + k ↔
      lantern.val = 2 * n + k / 4 ∧ 4 * (k.val % 4) ≤ fibre.val ∧ fibre.val ≤ 4 * (k.val % 4) + 3) ∧
  (∀ (d : Dev) (fp : Fin 256) (p : Fin 8), d.created (fp * 8 + p) = true ↔
    (d.rdF .plnFibCfg fp 1 0 = 0 ∧ p = 0) ∨ (d.rdF .plnFibCfg fp 1 0 = 1 ∧ (p = 0 ∨ p = 4)) ∨
    (d.rdF .plnFibCfg fp 1 0 = 2 ∧ (p = 0 ∨ p = 2 ∨ p = 4 ∨ p = 6)) ∨ d.rdF .plnFibCfg fp 1 0 = 3)

/-- For every state and every command at the front of its queue, step answers what exec answers for that command on
the state with the rest of the queue. -/
def Obligations.StepRunsFrontCommand : Prop :=
  ∀ (s : State) (c : Instr) (cs : List Instr), s.pending = c :: cs → step s = exec c { s with pending := cs }

/-- After a cold reset no command waits, nothing is driven, HBM reads 0 everywhere (the model's choice for unwritten
HBM, assumption 4), fabric time and the bell number are 0 and time is not valid (R48), every register holds its reset
value, and by Tables 19-9, 2-3 and 17-7: HUB_ID 0x92561F6B, HUB_REV 0x4101, ownership free, the bell period 2.048 µs,
the increment 8.40 nanoseconds of TIM_INC, and the next record sequence 1. -/
def Obligations.ResetState : Prop :=
  State.reset.pending = [] ∧ State.reset.dev.out = [] ∧ (∀ a, hbmByte State.reset.hbm a = 0) ∧
  State.reset.dev.time.now = 0 ∧ State.reset.dev.time.bell = 0 ∧ State.reset.dev.rdB .timStatus 0 0 = false ∧
  (∀ r i, State.reset.dev.rd r i = regReset r i) ∧
  State.reset.dev.rd .hubId 0 = 0x92561F6B ∧ State.reset.dev.rd .hubRev 0 = 0x4101 ∧
  State.reset.dev.rdB .hubOwn 0 31 = false ∧ State.reset.dev.period = 2048 ∧
  State.reset.dev.time.inc = State.reset.dev.rd64 .timIncLo .timIncHi 0 ∧ State.reset.dev.rdN .evrSeqNext 0 = 1

/-- After reset HBM stands in its canonical form: addresses rise strictly, no listed byte equals what an unlisted
address reads, every address has 41 bits. -/
def Obligations.ResetMeetsInvariant : Prop := State.reset.Inv

/-- For every state whose HBM stands in canonical form (addresses rise strictly, no listed byte is the value an
unlisted address reads, every address has 41 bits), whatever command is in front, the state that step answers has its
HBM in canonical form too. -/
def Obligations.StepKeepsMemoryForm : Prop := ∀ s t : State, s.Inv → step s = .next t → t.Inv

/-- For every command with any operands and every state, exec answers a next state: never a fault, never a refusal. -/
def Obligations.EveryCommandCompletes : Prop := ∀ (i : Instr) (s : State), ∃ t, exec i s = .next t

/-- Whatever the command, its operands and the state, the state that exec answers has the same commands waiting, in
the same order. -/
def Obligations.NoCommandTouchesTheQueue : Prop :=
  ∀ (i : Instr) (s t : State), exec i s = .next t → t.pending = s.pending

/-- For every row but those that can store to HBM (mayStore lists those that cannot: 125 rows of time, links' optics,
forwarding, the Keep, scheduling, embedding requests, memory answers, stacks, the Sentinel, power, management, hosts'
registers, the recorder and Oculus), whatever its operands and the state, every byte of HBM reads after it as before,
and the commands that wait are the same. -/
def Obligations.MemoryFrame : Prop :=
  ∀ (i : Instr) (s t : State), mayStore i = false → exec i s = .next t → SameMemory s t ∧ t.pending = s.pending

/-- For each row that is a plain write of a control register, sent by a host at a BAR0 offset outside its own blocks,
while that host does not hold HUB_OWN and the device is not in the Recovery Service or in PROTECT: the row completes,
its effect does not happen, the host's viol bit of HUB_OWN_STATUS is set, the write is counted in HUB_OWN_VIOL[h]
(saturating at 63), the offset is latched if none was, and every other register, HBM and everything else is unchanged.
-/
def Obligations.ControlWritesNeedOwnership : Prop :=
  ∀ (i : Instr) (who : Partner) (off h : Nat) (s : State),
    controlWrite i = some (who, off) → who.host = some h → ownBlock h off = false → s.dev.owns h = false →
    s.dev.recovery = false → s.dev.protect = false → s.dev.link.lost = [] → off < 2 ^ 26 →
    Completes i s fun t =>
      t.dev.rdB .hubOwnStatus 0 h = true ∧
      t.dev.rdF .hubOwnViol h 31 26 = min 63 (s.dev.rdF .hubOwnViol h 31 26 + 1) ∧
      t.dev.rdF .hubOwnViol h 25 0 = (if s.dev.rdF .hubOwnViol h 31 26 = 0 then off else s.dev.rdF .hubOwnViol h 25 0) ∧
      OnlyRegs s t ∧ SameRegsBut s t fun r j => (r == .hubOwnStatus && j == 0) || (r == .hubOwnViol && j == h)

/-- A granted write of TIM_INC_HI puts the pair in force as the increment, ends holdover and leaves fabric time; a
granted STEP adds the signed nanoseconds of TIM_STEP to fabric time (the counter's modulus), sets time_valid and ends
holdover; a granted HOLDOVER_SET and an enabled HOLDOVER_TIMEOUT set holdover and nothing else of TIM_STATUS; an edge
of PPS_IN latches seconds, nanoseconds and the 16-bit fraction, sets pps_valid, and sets pps_overrun where pps_valid
stood; with pps_out_en a whole second drives PPS_OUT high, and the end of the pulse drives it low. Fabric time stands
in units of 2^-40 ns. -/
def Obligations.FabricTimeWrites : Prop :=
  (∀ who v s, s.dev.granted who 0x10024 = true → Completes (.timIncHiWrite who v) s fun t =>
    t.dev.time.inc = s.dev.rdN .timIncLo 0 + (v.toNat % 2 ^ 16) * 2 ^ 32 ∧ t.dev.rd .timIncHi 0 = v &&& 0xFFFF ∧
    t.dev.rdB .timStatus 0 1 = false ∧ t.dev.time.now = s.dev.time.now ∧ t.hbm = s.hbm ∧
    SameRegsBut s t fun r i => r == .evrDropIn || (i == 0 && (r == .timIncHi || r == .timStatus))) ∧
  (∀ who s, s.dev.granted who 0x10030 = true → Completes (.step who) s fun t =>
    (t.dev.time.now : Int) = ((s.dev.time.now : Int) +
      toSigned 64 (s.dev.rd64 .timStepLo .timStepHi 0) * 2 ^ 40) % (2 ^ 48 * 1000000000 * 2 ^ 40 : Int) ∧
    t.dev.rdB .timStatus 0 0 = true ∧ t.dev.rdB .timStatus 0 1 = false ∧ t.hbm = s.hbm ∧
    SameRegsBut s t fun r i => r == .evrDropIn || (i == 0 && r == .timStatus)) ∧
  (∀ who s, s.dev.granted who 0x10030 = true → Completes (.holdoverSet who) s fun t =>
    t.dev.rd .timStatus 0 = putBit (s.dev.rd .timStatus 0) 1 true ∧ t.dev.time = s.dev.time ∧ t.hbm = s.hbm ∧
    SameRegsBut s t fun r i => r == .evrDropIn || (i == 0 && r == .timStatus)) ∧
  (∀ s, s.dev.rdF .timHoldCfg 0 15 0 ≠ 0 → Completes .holdoverTimeout s fun t =>
    t.dev.rd .timStatus 0 = putBit (s.dev.rd .timStatus 0) 1 true ∧ t.dev.time = s.dev.time ∧ t.hbm = s.hbm ∧
    SameRegsBut s t fun r i => r == .evrDropIn || (i == 0 && r == .timStatus)) ∧
  (∀ s, Completes .ppsInEdge s fun t =>
    t.dev.rd .timPpsSecLo 0 = word (s.dev.time.now / (1000000000 * 2 ^ 40)) ∧
    t.dev.rdN .timPpsNs 0 = s.dev.time.now / 2 ^ 40 % 1000000000 ∧
    t.dev.rdN .timPpsFrac 0 = s.dev.time.now % 2 ^ 40 / 2 ^ 24 ∧
    t.dev.rdB .timStatus 0 2 = true ∧ t.dev.rdB .timStatus 0 3 = (s.dev.rdB .timStatus 0 2 || s.dev.rdB .timStatus 0 3) ∧
    OnlyRegs s t) ∧
  (∀ s, s.dev.rdB .timCtrl 0 3 = true → Completes .ppsOutPulse s fun t =>
    t.dev.time.ppsOut = true ∧ t.dev.out = .pps true :: s.dev.out ∧ t.dev.regs = s.dev.regs ∧ t.hbm = s.hbm) ∧
  (∀ s, s.dev.time.ppsOut = true → Completes .ppsOutEnd s fun t =>
    t.dev.time.ppsOut = false ∧ t.dev.out = .pps false :: s.dev.out ∧ t.dev.regs = s.dev.regs ∧ t.hbm = s.hbm)

/-- On a quiet device with no commit pending, no bell skipped and nothing left to land, switch, fence, rotate or
reclaim, BELL takes the next bell number, brings fabric time up to that number times the period (never back, R35,
R36), leaves HBM as it is, shows the input power of that bell in PWR_IN_W, raises PWR_PEAK_W to it where it is higher,
and leaves the bell period and the increment. On an empty queue (and no Oculus counter selected) a step adds the
increment in force to fabric time, modulo the counter of 48 bits of seconds: before the instant of the next bell it
changes nothing else, and where it reaches that instant the bell falls in the same step, with a free value for the
input power. That an empty queue idles for one switch cycle is the model's choice (assumption 5); the addition is rule
R32, the instant of a bell rule R35. -/
def Obligations.BellOfAQuietDevice : Prop :=
  (∀ (watts : Nat) (s : State), Quiet s.dev → s.dev.time.commits = [] → s.dev.time.skipped = 0 → s.dev.link.ports = [] →
    s.dev.rng.rings = [] → s.dev.rng.reclaim.isNone = true → s.dev.tab.bcQueue = [] → s.dev.tab.bcHeld.isNone = true →
    s.dev.sen.fences = [] → s.dev.sen.rotate = [] → s.dev.sen.next = [] → s.dev.lan.planned = [] → s.dev.boot.commit = false →
    Completes (.bell watts) s fun t =>
      t.dev.time.bell = s.dev.time.bell + 1 ∧
      t.dev.time.now = max s.dev.time.now ((s.dev.time.bell + 1) * s.dev.period * 2 ^ 40 % (2 ^ 48 * (1000000000 * 2 ^ 40))) ∧
      t.hbm = s.hbm ∧ t.dev.period = s.dev.period ∧ t.dev.time.inc = s.dev.time.inc ∧
      t.dev.rdN .pwrInW 0 = min 65535 watts ∧ t.dev.rdN .pwrPeakW 0 = max (min 65535 watts) (s.dev.rdN .pwrPeakW 0)) ∧
  (∀ (now : Nat) (s : State), s.pending = [] → (s.dev.regs.any fun e => e.1 % 512 == Reg.ocuSel.ctorIdx) = false →
    now = (s.dev.time.now + s.dev.time.inc) % (2 ^ 48 * (1000000000 * 2 ^ 40)) →
    (now / 2 ^ 40 < (s.dev.time.bell + 1) * s.dev.period →
      step s = .next { s with dev := { s.dev with time := { s.dev.time with now := now } } }) ∧
    ((s.dev.time.bell + 1) * s.dev.period ≤ now / 2 ^ 40 →
      step s = exec (.bell (Config.freeNat s.dev.freeCtr)) { s with dev := { s.dev with
        time := { s.dev.time with now := now }, freeCtr := s.dev.freeCtr + 1 } }))

/-- A granted write of TIM_COMMIT whose mask names at least one domain, none of them busy, with a target of 0 or at
least two bells ahead, starts one joint commit at the end of the list: it holds the domains, the target of TIM_CMT_TGT
and exactly the shadows of the named domains, which leave the staged values; the shadows of the other domains stay
staged; each named domain reports VALIDATING with no error and the target in TIM_CMT_BELL. Where a named domain has a
commit validating or pending, a granted TIM_COMMIT starts nothing and sets the busy bit of each such domain;
otherwise, with a nonzero target less than two bells ahead, it starts nothing and each named domain reports FAILED
with LATE. In both cases the commits under way and every staged value are unchanged. -/
def Obligations.CommitStarts : Prop :=
  (∀ (who : Partner) (mask : Word) (s : State), s.dev.granted who 0x10068 = true → mask.toNat % 512 ≠ 0 →
    (∀ dom < 9, bit (mask.toNat % 512) dom = true → s.dev.cmtBusy dom = false) →
    (s.dev.rd64 .timCmtTgtLo .timCmtTgtHi 0 = 0 ∨ s.dev.time.bell + 2 ≤ s.dev.rd64 .timCmtTgtLo .timCmtTgtHi 0) →
    Completes (.timCommit who mask) s fun t =>
      t.dev.time.commits = s.dev.time.commits ++ [⟨mask.toNat % 512, s.dev.rd64 .timCmtTgtLo .timCmtTgtHi 0,
        SMap.keep s.dev.shadow (fun k => bit (mask.toNat % 512) (keyDomain k)), false, .none, 0⟩] ∧
      t.dev.shadow = SMap.keep s.dev.shadow (fun k => !bit (mask.toNat % 512) (keyDomain k)) ∧
      (∀ dom < 9, bit (mask.toNat % 512) dom = true →
        t.dev.rdF .timCmtStatus dom 2 0 = 1 ∧ t.dev.rdF .timCmtStatus dom 7 4 = 0 ∧
        t.dev.rd64 .timCmtBellLo .timCmtBellHi dom = s.dev.rd64 .timCmtTgtLo .timCmtTgtHi 0) ∧ t.hbm = s.hbm) ∧
  (∀ (who : Partner) (mask : Word) (s : State), s.dev.granted who 0x10068 = true → mask.toNat % 512 ≠ 0 →
    ((∃ dom < 9, bit (mask.toNat % 512) dom = true ∧ s.dev.cmtBusy dom = true) → Completes (.timCommit who mask) s fun t =>
      t.dev.time = s.dev.time ∧ t.dev.shadow = s.dev.shadow ∧ t.hbm = s.hbm ∧
      ∀ dom < 9, bit (mask.toNat % 512) dom = true → s.dev.cmtBusy dom = true → t.dev.rdB .timCmtStatus dom 8 = true) ∧
    ((∀ dom < 9, bit (mask.toNat % 512) dom = true → s.dev.cmtBusy dom = false) →
      s.dev.rd64 .timCmtTgtLo .timCmtTgtHi 0 ≠ 0 → s.dev.rd64 .timCmtTgtLo .timCmtTgtHi 0 < s.dev.time.bell + 2 →
      Completes (.timCommit who mask) s fun t =>
        t.dev.time = s.dev.time ∧ t.dev.shadow = s.dev.shadow ∧ t.hbm = s.hbm ∧
        ∀ dom < 9, bit (mask.toNat % 512) dom = true →
          t.dev.rdF .timCmtStatus dom 2 0 = 4 ∧ t.dev.rdF .timCmtStatus dom 7 4 = 2))

/-- A commit that validates without a violation and is not doomed becomes pending for its target, the next bell where
the target is 0, and each of its domains reports PENDING with no error and that bell in TIM_CMT_BELL. One that finds
violations (of no boot commit) leaves the list; each of its domains that has one reports FAILED with INVALID_VALUE and
the lowest offending offset in TIM_CMT_ERR_ADDR, each other one FAILED with PEER_FAIL. One that was cancelled leaves
the list, and its domains that the cancel named report FAILED with CANCELLED. A granted TIM_CMT_CANCEL removes every
pending commit that names one of its domains and whose target has not been reached, with those domains reporting
FAILED with CANCELLED, marks every validating commit that names one cancelled, and leaves every commit that names none
of them. A granted TIM_CMT_DISCARD drops the staged values of the domains it names and changes nothing else. -/
def Obligations.CommitEnds : Prop :=
  (∀ (dom : Fin 9) (c : Commit) (s : State), (s.dev.time.commits.find? fun x => bit x.mask dom && !x.pending) = some c →
    c.doom = .none → (verdict (commitBad s.dev (s.dev.withChanges (s.dev.commitChanges c))) c.mask).isEmpty = true →
    Completes (.commitValidation dom) s fun t =>
      t.dev.time.commits = (s.dev.time.commits.map fun x => if x.mask = c.mask then
        { c with target := if c.target = 0 then s.dev.time.bell + 1 else c.target, pending := true } else x) ∧
      (∀ k < 9, bit c.mask k = true → t.dev.rdF .timCmtStatus k 2 0 = 2 ∧ t.dev.rdF .timCmtStatus k 7 4 = 0 ∧
        t.dev.rd64 .timCmtBellLo .timCmtBellHi k = (if c.target = 0 then s.dev.time.bell + 1 else c.target) % 2 ^ 64) ∧
      t.dev.time.bell = s.dev.time.bell ∧ t.dev.shadow = s.dev.shadow ∧ t.hbm = s.hbm) ∧
  (∀ (dom : Fin 9) (c : Commit) (bad : List (Nat × Nat)) (s : State),
    (s.dev.time.commits.find? fun x => bit x.mask dom && !x.pending) = some c → s.dev.boot.commit = false →
    bad = verdict (commitBad s.dev (s.dev.withChanges (s.dev.commitChanges c))) c.mask →
    (c.doom = .none → bad ≠ [] → Completes (.commitValidation dom) s fun t =>
      t.dev.time.commits = (s.dev.time.commits.filter fun x => x.mask != c.mask) ∧
      (∀ k < 9, bit c.mask k = true → t.dev.rdF .timCmtStatus k 2 0 = 4 ∧
        ((∀ x ∈ bad, x.1 ≠ k) → t.dev.rdF .timCmtStatus k 7 4 = 5) ∧
        (∀ x ∈ bad, x.1 = k → t.dev.rdF .timCmtStatus k 7 4 = 1 ∧ t.dev.rdN .timCmtErrAddr k = x.2 % 2 ^ 32)) ∧
      t.dev.shadow = s.dev.shadow ∧ t.hbm = s.hbm) ∧
    (c.doom = .cancelled → Completes (.commitValidation dom) s fun t =>
      t.dev.time.commits = (s.dev.time.commits.filter fun x => x.mask != c.mask) ∧
      (∀ k < 9, bit c.mask k = true → bit c.named k = true →
        t.dev.rdF .timCmtStatus k 2 0 = 4 ∧ t.dev.rdF .timCmtStatus k 7 4 = 4) ∧
      t.dev.shadow = s.dev.shadow ∧ t.hbm = s.hbm)) ∧
  (∀ (who : Partner) (mask : Word) (s : State), s.dev.granted who 0x1006C = true →
    Completes (.timCmtCancel who mask) s fun t =>
      (∀ c ∈ s.dev.time.commits, c.pending = true → andN c.mask (mask.toNat % 512) ≠ 0 → s.dev.time.bell < c.target →
        c ∉ t.dev.time.commits ∧ ∀ k < 9, bit c.mask k = true → bit (mask.toNat % 512) k = true →
          t.dev.rdF .timCmtStatus k 2 0 = 4 ∧ t.dev.rdF .timCmtStatus k 7 4 = 4) ∧
      (∀ c ∈ s.dev.time.commits, c.pending = false → c.doom = .none → andN c.mask (mask.toNat % 512) ≠ 0 →
        { c with doom := .cancelled, named := mask.toNat % 512 } ∈ t.dev.time.commits) ∧
      (∀ c ∈ s.dev.time.commits, andN c.mask (mask.toNat % 512) = 0 → c ∈ t.dev.time.commits) ∧
      t.dev.time.bell = s.dev.time.bell ∧ t.dev.time.now = s.dev.time.now ∧ t.dev.shadow = s.dev.shadow ∧ t.hbm = s.hbm) ∧
  (∀ (who : Partner) (mask : Word) (s : State), s.dev.granted who 0x10070 = true →
    exec (.timCmtDiscard who mask) s = .next { s with dev := { s.dev with
      shadow := SMap.keep s.dev.shadow fun k => !bit (mask.toNat % 512) (keyDomain k) } })

/-- While PWR_WARN_N is deasserted, RECORD_WRITE takes the oldest event of an origin's queue; where it is no repeat
and a slot is empty, the lowest empty slot takes a new record with the next sequence number, the event's severity,
origin, code and words, its repeats and bell, not flushed, and the next sequence number rises by one from 0xFFFFFFFF
to 1. PWR_WARN_N asserted sets the warning, with no event refused yet where the store takes its flush; a store that
fails at the first record sets store_err and takes nothing. While it stands RECORD_WRITE and FLUSH change nothing.
With a record store present that has not failed and takes every write of the flush, FLUSH, FLUSH_MS_EXPIRY and a
granted EVR_FLUSH with PWR_WARN_N deasserted, and its end, leave every record flushed, no trigger and no flush
running; where the store fails at the first record, FLUSH, FLUSH_MS_EXPIRY and a granted EVR_FLUSH mark nothing, set
store_err and count a write error that the store reports in HUB_FLS_ERR; without a store, or after one has failed,
FLUSH marks nothing and store_err is set. A granted write of a nonzero sequence number to EVR_FIND_SEQ keeps the
number and answers in EVR_FIND_SLOT bit 31 and a slot that holds it where one does, and 0 where none does; nothing but
the two registers changes. -/
def Obligations.RecordWritten : Prop :=
(∀ (origin : Fin 9) (e : Event) (q : List Event) (s : State), s.dev.rcd.warn = false →
    SMap.getD s.dev.rcd.queues origin [] = e :: q → s.dev.repeats e = none → firstGap s.dev.rcd.slots 0 < 65536 →
    SMap.find? s.dev.rcd.slots (firstGap s.dev.rcd.slots 0) = none →
    Completes (.recordWrite origin) s fun t =>
      SMap.find? t.dev.rcd.slots (firstGap s.dev.rcd.slots 0) = some ⟨s.dev.rdN .evrSeqNext 0, 2, false, e.sev, e.origin,
        e.code, min 65535 e.extra, e.bell, e.bell % 2 ^ 32, e.sec, e.ns, e.w⟩ ∧
      SMap.getD t.dev.rcd.queues origin [] = q ∧
      t.dev.rdN .evrSeqNext 0 = (if s.dev.rdN .evrSeqNext 0 = 0xFFFFFFFF then 1 else s.dev.rdN .evrSeqNext 0 + 1) ∧
      (∀ k, k ≠ firstGap s.dev.rcd.slots 0 → SMap.find? t.dev.rcd.slots k = SMap.find? s.dev.rcd.slots k) ∧
      t.hbm = s.hbm) ∧
(∀ s : State, s.dev.rcd.warn = false → Completes .pwrWarnN s fun t =>
    t.dev.rcd.warn = true ∧ t.hbm = s.hbm ∧ (s.dev.rcd.failsIn = none → t.dev.rcd.refused = 0 ∧ t.dev.regs = s.dev.regs) ∧
    (s.dev.rcd.present = true → s.dev.rcd.storeErr = false → (∃ wrErr, s.dev.rcd.fault = some (0, wrErr)) →
      t.dev.rcd.storeErr = true ∧ t.dev.rcd.slots = s.dev.rcd.slots ∧ t.dev.rcd.journal = s.dev.rcd.journal)) ∧
  (∀ (origin : Fin 9) (s : State), s.dev.rcd.warn = true →
    exec (.recordWrite origin) s = .next s ∧ exec .flush s = .next s) ∧
(∀ (i : Instr) (s : State), s.dev.rcd.present = true → s.dev.rcd.storeErr = false →
    s.dev.rcd.failsIn = none →
    (((i = .flush ∨ i = .flushMsExpiry ∨ (∃ who, i = .evrFlush who ∧ s.dev.granted who 0x40004 = true)) ∧
      s.dev.rcd.warn = false) ∨ (i = .pwrWarnDeassert ∧ s.dev.rcd.warn = true)) →
    Completes i s fun t =>
      (∀ k r, SMap.find? t.dev.rcd.slots k = some r → r.flushed = true) ∧ t.dev.rcd.trigger = false ∧
      t.dev.rcd.flushing = false ∧ t.dev.regs = s.dev.regs ∧ t.hbm = s.hbm ∧
      (i = .pwrWarnDeassert → t.dev.rcd.warn = false)) ∧
  (∀ (wrErr : Bool) (i : Instr) (s : State), s.dev.rcd.present = true → s.dev.rcd.storeErr = false → s.dev.rcd.warn = false →
    s.dev.rcd.fault = some (0, wrErr) →
    i = .flush ∨ i = .flushMsExpiry ∨ (∃ who, i = .evrFlush who ∧ s.dev.granted who 0x40004 = true) → Completes i s fun t =>
      t.dev.rcd.storeErr = true ∧ t.dev.rcd.slots = s.dev.rcd.slots ∧ t.dev.rcd.journal = s.dev.rcd.journal ∧
      t.dev.rcd.trigger = false ∧ t.hbm = s.hbm ∧ t.dev.rdF .hubFlsErr 0 31 16 =
        (if wrErr then min 65535 (s.dev.rdF .hubFlsErr 0 31 16 + 1) else s.dev.rdF .hubFlsErr 0 31 16)) ∧
  (∀ s : State, s.dev.rcd.present = false ∨ s.dev.rcd.storeErr = true → s.dev.rcd.warn = false →
    Completes .flush s fun t =>
      t.dev.rcd.storeErr = true ∧ t.dev.rcd.slots = s.dev.rcd.slots ∧ t.dev.rcd.trigger = false) ∧
  (∀ (who : Partner) (v : Word) (s : State), s.dev.granted who 0x40084 = true → v ≠ 0 →
    Completes (.evrFindSeq who v) s fun t =>
      t.dev.rd .evrFindSeq 0 = v ∧
      ((∀ e ∈ s.dev.rcd.slots, e.2.seq ≠ v.toNat) → t.dev.rd .evrFindSlot 0 = 0) ∧
      ((∃ e ∈ s.dev.rcd.slots, e.2.seq = v.toNat) →
        ∃ e ∈ s.dev.rcd.slots, e.2.seq = v.toNat ∧ t.dev.rd .evrFindSlot 0 = word (2 ^ 31 + e.1)) ∧
      OnlyRegs s t ∧ SameRegsBut s t fun r i => i == 0 && (r == .evrFindSeq || r == .evrFindSlot))

/-- Granted writes of OCU_PEAK_CLR, OCU_CTRL.peak_clr_all, clr_fixed and clr_prog clear the peaks of one port, the
peaks of every port of the die, the fixed port counters of the die, and the programmable counters, their snapshots and
overflow bits of the die; each leaves every other register and everything else. With no port's loss untold, a granted
write of PLN_LNK_CTRL.clr_counters of a port sets every counter of the port to 0 and leaves every other register, HBM
and everything else. -/
def Obligations.CounterCommandsOfOculus : Prop :=
  (∀ (who : Partner) (die : Fin 8) (v : Word) (s : State),
    (s.dev.granted who (0x1180000 + die.val * 0x400000 + 0xA400) = true → Completes (.ocuPeakClr who die v) s fun t =>
      OnlyRegs s t ∧ ∀ r i, t.dev.rd r i = if (r = .ocuBwLo ∨ r = .ocuBwHi) ∧
        (i = (die.val * 256 + v.toNat % 256) * 4 + 1 ∨ i = (die.val * 256 + v.toNat % 256) * 4 + 3) then 0 else s.dev.rd r i) ∧
    (s.dev.granted who (0x1180000 + die.val * 0x400000) = true →
      (Completes (.peakClrAll who die) s fun t => OnlyRegs s t ∧
        ∀ r i, t.dev.rd r i = if (r = .ocuBwLo ∨ r = .ocuBwHi) ∧ i / 1024 = die.val ∧ i % 2 = 1 then 0 else s.dev.rd r i) ∧
      (Completes (.clrFixed who die) s fun t => OnlyRegs s t ∧
        ∀ r i, t.dev.rd r i = if (r = .ocuPortLo ∨ r = .ocuPortHi) ∧ i / 2048 = die.val then 0 else s.dev.rd r i) ∧
      (Completes (.clrProg who die) s fun t => OnlyRegs s t ∧
        ∀ r i, t.dev.rd r i = if ((r = .ocuCntLo ∨ r = .ocuCntHi ∨ r = .ocuSnapLo ∨ r = .ocuSnapHi) ∧ i / 512 = die.val) ∨
          (r = .ocuOvf ∧ i / 16 = die.val) then 0 else s.dev.rd r i))) ∧
  (∀ (who : Partner) (off : Nat) (e : RegDef) (lp : Nat) (s : State), s.dev.link.lost = [] → s.dev.granted who off = true →
    regAt off = some (e, lp) → e.reg = .plnLnkCtrl → Completes (.clrCounters who off) s fun t =>
      OnlyRegs s t ∧ ∀ r i, t.dev.rd r i = if i = lp ∧ r ∈ lnkCounters then 0 else s.dev.rd r i)

/-- A host's CLAIM of free ownership, or of its own, writes HUB_OWN with valid, the host and its token; a CLAIM while
the other host holds it changes HUB_OWN not at all and sets the claimer's claim_fail bit; a host's RELEASE with the
token it holds, and Belfry's FORCE_RELEASE, leave HUB_OWN 0; a RELEASE that does not match changes nothing. Each
changes no register but the one named and nothing else. -/
def Obligations.Ownership : Prop :=
  ∀ (who : Partner) (h : Nat) (token : Fin 65536) (s : State),
    (who.host = some h → (s.dev.rdB .hubOwn 0 31 = false ∨ s.dev.owns h = true) → Completes (.claim who token) s fun t =>
      t.dev.rd .hubOwn 0 = word (2 ^ 31 + h * 2 ^ 30 + token.val) ∧ OnlyRegs s t ∧
      SameRegsBut s t fun r i => r == .hubOwn && i == 0) ∧
    (who.host = some h → s.dev.rdB .hubOwn 0 31 = true → s.dev.owns h = false → Completes (.claim who token) s fun t =>
      t.dev.rdB .hubOwnStatus 0 (2 + h) = true ∧ OnlyRegs s t ∧
      SameRegsBut s t fun r i => r == .hubOwnStatus && i == 0) ∧
    (who.host = some h → s.dev.owns h = true → s.dev.rdF .hubOwn 0 15 0 = token.val → Completes (.release who token) s fun t =>
      t.dev.rd .hubOwn 0 = 0 ∧ OnlyRegs s t ∧ SameRegsBut s t fun r i => r == .hubOwn && i == 0) ∧
    (who.host = some h → (s.dev.owns h = false ∨ s.dev.rdF .hubOwn 0 15 0 ≠ token.val) → exec (.release who token) s = .next s) ∧
    (who = .belfry → Completes (.forceRelease who) s fun t =>
      t.dev.rd .hubOwn 0 = 0 ∧ OnlyRegs s t ∧ SameRegsBut s t fun r i => r == .hubOwn && i == 0)

/-- After the ROM phase a link trained at a rate and a width of 1, 2, 4 or 8 lanes sets the port up and shows both in
HUB_HP_STATUS. MSIX_UNMASK clears the vector's mask bit and sends a pending message. Once READY a configuration
request is completed with its effect; before, with Retry Status. An LTR message sets the host's latency tolerance. An
I3C address shows in HUB_I3C_STATUS. -/
def Obligations.HostPorts : Prop :=
  ∀ (h : Fin 2) (s : State),
    (∀ (rate : Fin 7) (width : Fin 17), s.dev.rdF .secBootStatus 0 31 28 ≠ 0 → rate.val ≠ 0 →
      (width.val = 1 ∨ width.val = 2 ∨ width.val = 4 ∨ width.val = 8) → Completes (.hostLinkUp h rate width) s fun t =>
        (t.dev.host h).up = true ∧ t.dev.rdB .hubHpStatus h 31 = true ∧ t.dev.rdF .hubHpStatus h 29 24 = rate.val ∧
        t.hbm = s.hbm ∧ SameRegsBut s t fun r i => r == .hubHpStatus && i == h.val) ∧
    (∀ vec : Fin 2048, (s.dev.host h).msixEnable = true → (s.dev.host h).msixMaskAll = false →
      s.dev.rdB .hubMsixPba (h * 64 + vec / 32) (vec % 32) = true → Completes (.msixUnmask h vec) s fun t =>
        t.dev.rdB .hubMsixTable (h * 8192 + vec * 4 + 3) 0 = false ∧ t.dev.rdB .hubMsixPba (h * 64 + vec / 32) (vec % 32) = false ∧
        (∃ a m, t.dev.out = .msix h vec a m :: s.dev.out) ∧ t.hbm = s.hbm) ∧
    (∀ r : CfgReq, (s.dev.host h).up = true → s.dev.recovery = false → s.dev.isReady = false →
      exec (.configurationRequest h r) s = .next { s with dev := { s.dev with out := .config h none :: s.dev.out } }) ∧
    ((s.dev.host h).up = true → s.dev.isReady = true →
      (exec (.configurationRequest h .identity) s = .next { s with dev := { s.dev with
        out := .config h (some [0x92561F6B, 0x12000001, (s.dev.host h).subsys, s.dev.rdN .secDevIdLo 0, s.dev.rdN .secDevIdHi 0])
          :: s.dev.out } }) ∧
      (∀ log, 30 ≤ log → log ≤ 36 → Completes (.configurationRequest h (.bar4Size log)) s fun t =>
        (t.dev.host h).bar4Log = log ∧ t.dev.regs = s.dev.regs ∧ t.hbm = s.hbm)) ∧
    (∀ ns : Nat, Completes (.hostLtr h ns) s fun t => (t.dev.host h).ltr = some (min 0xFFFFFFFF ns) ∧ t.hbm = s.hbm) ∧
    (∀ addr : Fin 128, Completes (.dynamicAddressAssignment h addr) s fun t =>
      t.dev.rdB .hubI3cStatus h 31 = true ∧ t.dev.rdF .hubI3cStatus h 22 16 = addr.val ∧ OnlyRegs s t ∧
      SameRegsBut s t fun r i => r == .hubI3cStatus && i == h.val)

/-- HOST_PORT_RESET of host h, with no transfer of a ring to or from that host's memory under way, clears the host's
error counters, MSI-X table and pending bits, HUB_HOST_CFG and Guard windows, its MSI-X enable and mask, its LTR
value, and its BAR4 size to 64 GiB; ownership the host held is free; the link goes down, and its status to 0, only
with PERST or Data Link Down. Every other register and HBM are unchanged. Outside the Recovery Service, with
HUB_HOST_CFG.bar4_en set and a range inside the window that maps to usable memory of a stack of at most 32 GiB that is
not at CRITICAL and where no older access waits and no block holds an uncorrectable error, no update running, a BAR4
write that is not poisoned stores its bytes from the mapped HPA (the base rounded down to the window size, plus the
offset) and every byte outside them reads as before; a write while BAR4 is disabled stores nothing, and is counted in
HUB_HP_UE_CNT. -/
def Obligations.FunctionReset : Prop :=
  (∀ (h : Fin 2) (down : Bool) (s : State), (∀ r, (s.dev.ring r).run = none) → Completes (.hostPortReset h down) s fun t =>
    (t.dev.host h).msixEnable = false ∧ (t.dev.host h).msixMaskAll = false ∧ (t.dev.host h).ltr = none ∧
    (t.dev.host h).bar4Log = 36 ∧ (t.dev.host h).up = ((s.dev.host h).up && !down) ∧
    (s.dev.owns h = true → t.dev.rd .hubOwn 0 = 0) ∧ (s.dev.owns h = false → t.dev.rd .hubOwn 0 = s.dev.rd .hubOwn 0) ∧
    t.dev.rd .hubHpStatus h = (if down then 0 else s.dev.rd .hubHpStatus h) ∧
    t.dev.rd .hubHostCfg h = 0 ∧ t.dev.rd .hubHpCeCnt h = 0 ∧ t.dev.rd .hubHpUeCnt h = 0 ∧ t.dev.rd .hubHpCtoCnt h = 0 ∧
    (∀ i < 8192, t.dev.rd .hubMsixTable (h * 8192 + i) = regReset .hubMsixTable (h * 8192 + i)) ∧
    (∀ i < 64, t.dev.rd .hubMsixPba (h * 64 + i) = 0) ∧
    (∀ i < 8, t.dev.rd .grdWinCtl (h * 8 + i) = regReset .grdWinCtl (h * 8 + i)) ∧ t.hbm = s.hbm) ∧
  (∀ (h : Fin 2) (off : Nat) (data : List Byte) (s : State), s.dev.recovery = false →
    (∀ a, a = s.dev.rdBase .hubBar4BaseLo .hubBar4BaseHi h / 2 ^ (s.dev.host h).bar4Log * 2 ^ (s.dev.host h).bar4Log + off →
      s.dev.rdF .hbmStackSize (a / 2 ^ 36) 5 0 ≤ 32 →
      s.dev.rdB .hubHostCfg h 31 = true → off + data.length ≤ 2 ^ (s.dev.host h).bar4Log →
      s.dev.usable a data.length = true → s.dev.boot.upd = none → s.dev.hbmWaits a data.length 1 = false →
      s.dev.badBlocks a data.length = [] → Completes (.bar4Write h off data false) s fun t =>
        (∀ i, i < data.length → hbmByte t.hbm (a + i) = data.getD i 0) ∧
        (∀ b, b < a ∨ a + data.length ≤ b → hbmByte t.hbm b = hbmByte s.hbm b)) ∧
    (∀ poisoned : Bool, s.dev.rdB .hubHostCfg h 31 = false → Completes (.bar4Write h off data poisoned) s fun t =>
      t.dev.rdN .hubHpUeCnt h = min 0xFFFFFFFF (s.dev.rdN .hubHpUeCnt h + 1) ∧ OnlyRegs s t ∧
      SameRegsBut s t fun r i => r == .hubHpUeCnt && i == h.val) ∧
    (∀ n : Nat, s.dev.rdB .hubHostCfg h 31 = false → Completes (.bar4Read h off n) s fun t =>
      t.dev.out = .bar4 h off none :: s.dev.out ∧ t.hbm = s.hbm ∧
      t.dev.rdN .hubHpUeCnt h = min 0xFFFFFFFF (s.dev.rdN .hubHpUeCnt h + 1)))

/-- With no port's loss untold: TRAINING_TIMEOUT takes a port in training to HOLDOFF with reason TIMEOUT (8),
FEC_ALIGN_TIMEOUT a port in FEC_ALIGN to HOLDOFF with reason FEC_NO_LOCK (1), a training record of another version a
port in training to HOLDOFF with reason VERSION (6); HOLDOFF_END takes a port in HOLDOFF to DOWN; LINK_DOWN received
in training takes the port to DOWN with reason FAR_DOWN (12); a granted LNK_CTRL_DOWN takes a native port in training
to DOWN with reason ADMIN_DOWN (11). Each leaves HBM. -/
def Obligations.TrainingEnds : Prop :=
  ∀ (lp : Fin 2048) (s : State), s.dev.link.lost = [] →
    (s.dev.training lp = true → Completes (.trainingTimeout lp) s fun t =>
      t.dev.lnkState lp = 6 ∧ t.dev.rdF .plnLnkStatus lp 11 4 = 8 ∧ t.hbm = s.hbm) ∧
    (s.dev.lnkState lp = 1 → Completes (.fecAlignTimeout lp) s fun t =>
      t.dev.lnkState lp = 6 ∧ t.dev.rdF .plnLnkStatus lp 11 4 = 1 ∧ t.hbm = s.hbm) ∧
    (∀ (version : Nat) (recType ackSeq : Fin 256), version ≠ 1 → s.dev.training lp = true →
      Completes (.tsAck lp version recType ackSeq) s fun t =>
        t.dev.lnkState lp = 6 ∧ t.dev.rdF .plnLnkStatus lp 11 4 = 6 ∧ t.hbm = s.hbm) ∧
    (s.dev.lnkState lp = 6 → Completes (.holdoffEnd lp) s fun t =>
      t.dev.lnkState lp = 0 ∧ (t.dev.port lp).downBy = .holdoff ∧ t.hbm = s.hbm) ∧
    (∀ reason : Fin 256, s.dev.training lp = true → Completes (.linkDown lp 1 reason) s fun t =>
      t.dev.lnkState lp = 0 ∧ (t.dev.port lp).downBy = .farDown ∧ t.dev.rdF .plnLnkStatus lp 11 4 = 12 ∧ t.hbm = s.hbm) ∧
    (∀ who : Partner, s.dev.granted who (regOffset .plnLnkCtrl lp) = true → s.dev.isEth lp = false → s.dev.training lp = true →
      Completes (.lnkCtrlDown who lp) s fun t =>
        t.dev.lnkState lp = 0 ∧ (t.dev.port lp).downBy = .admin ∧ t.dev.rdF .plnLnkStatus lp 11 4 = 11 ∧ t.hbm = s.hbm)

/-- With no port's loss untold and no unfencing of the fibre waiting, a native enabled port in DOWN whose rings are
locked goes to FEC_ALIGN at LEAVE_DOWN where a reset brought it down, or a hold-off or the far end did and
auto_retrain is set; a granted LNK_CTRL_RETRAIN takes it there whatever brought it down. A pair received on a lane of
a native port in FEC_ALIGN, with no migration followed on its fibre and another lane of the port not aligned, counts
good or bad pairs of that lane as rule R56 says (aligned after 4 good pairs in a row) and leaves the port in
FEC_ALIGN: on a lane that still hunts for its alignment it leaves every register (that the FEC counters wait for the
alignment is the model's choice, assumption 149); on an aligned lane whose codewords hold no unsequenced group with a
good CRC-32C it adds the symbols corrected and the uncorrectable codewords, saturating, to the two FEC counters of the
port. -/
def Obligations.LeavingDown : Prop :=
  (∀ (lp : Fin 2048) (s : State), s.dev.link.lost = [] → s.dev.lan.unfence.contains (lpFp lp) = false →
    s.dev.lnkState lp = 0 → s.dev.canTrain lp = true →
    ((s.dev.port lp).downBy = .reset ∨ ((s.dev.port lp).downBy ≠ .admin ∧ s.dev.rdB .plnLnkCfg lp 2 = true) →
      Completes (.leaveDown lp) s fun t => t.dev.lnkState lp = 1 ∧ t.hbm = s.hbm) ∧
    (∀ who : Partner, s.dev.granted who (regOffset .plnLnkCtrl lp) = true → Completes (.lnkCtrlRetrain who lp) s fun t =>
      t.dev.lnkState lp = 1 ∧ t.hbm = s.hbm)) ∧
  (∀ (lp : Fin 2048) (lane : Fin 9) (pair : List Byte) (s : State), s.dev.isEth lp = false → s.dev.lnkState lp = 1 →
    SMap.find? s.dev.lan.rxMig (lpFp lp) = none →
    (∃ pos ∈ s.dev.positions lp, s.dev.laneOf (lpFp lp) 1 pos ≠ lane.val ∧
      (SMap.getD s.dev.link.lanes (lpFp lp * 9 + s.dev.laneOf (lpFp lp) 1 pos) {}).aligned = false) →
    ((SMap.getD s.dev.link.lanes (lpFp lp * 9 + lane) {}).aligned = false → Completes (.groupReceived lp lane pair) s fun t =>
      SMap.getD t.dev.link.lanes (lpFp lp * 9 + lane) {} = (SMap.getD s.dev.link.lanes (lpFp lp * 9 + lane) {}).after
        ((decodePair lane pair).1.isSome && (decodePair lane pair).2.isSome) ∧
      t.dev.lnkState lp = 1 ∧ t.dev.regs = s.dev.regs ∧ t.hbm = s.hbm) ∧
    (∀ (a b : Option (List Byte × Nat)), (SMap.getD s.dev.link.lanes (lpFp lp * 9 + lane) {}).aligned = true →
      decodePair lane pair = (a, b) →
      (∀ g, (a.map (·.1) = some g ∨ b.map (·.1) = some g) →
        crc32c (slice g 0 516) ≠ beAt g 516 4 ∨ bit (beAt g 512 4) 1 = false) →
      Completes (.groupReceived lp lane pair) s fun t =>
        SMap.getD t.dev.link.lanes (lpFp lp * 9 + lane) {} =
          (SMap.getD s.dev.link.lanes (lpFp lp * 9 + lane) {}).after (a.isSome && b.isSome) ∧
        t.dev.rdN .plnLnkFecCorr lp =
          min 0xFFFFFFFF (s.dev.rdN .plnLnkFecCorr lp + (a.map (·.2)).getD 0 + (b.map (·.2)).getD 0) ∧
        t.dev.rdN .plnLnkFecUnc lp =
          min 0xFFFFFFFF (s.dev.rdN .plnLnkFecUnc lp + (if a.isNone then 1 else 0) + (if b.isNone then 1 else 0)) ∧
        t.dev.lnkState lp = 1 ∧ t.hbm = s.hbm ∧
        SameRegsBut s t fun r i => (r == .plnLnkFecCorr || r == .plnLnkFecUnc) && i == lp.val))

/-- With no port's loss untold, in version 1: in DESKEW a TS_ALIGN that names its lane within 40 ns of skew is
acknowledged on that lane, and the lane counted, while other lanes are missing; in IDENT a TS_IDENT that passes rule
R84 shows the far end's identity and port, and one that fails it (but for lane order) takes the port to HOLDOFF with
the reason of its first mismatch; in PARAM a TS_PARAM sets the far end's advertised credits of the eight VCs; in
DESKEW a TS_ACK ends the sending of the record it names, and only of that. -/
def Obligations.TrainingRecords : Prop :=
  ∀ (lp : Fin 2048) (recSeq : Fin 256) (s : State), s.dev.link.lost = [] →
    (∀ (lane : Fin 9) (skew : Nat), s.dev.lnkState lp = 2 → skew ≤ 40 →
      ((s.dev.positions lp).all fun pos =>
        (lane.val :: (s.dev.port lp).alignLanes).contains (s.dev.laneOf (lpFp lp) 1 pos)) = false →
      Completes (.tsAlign lp lane lane.val 1 recSeq skew) s fun t =>
        (t.dev.port lp).alignLanes.contains lane.val = true ∧
        (t.dev.port lp).txMnt = (s.dev.port lp).txMnt ++ [(lane.val, mntCell 4 lane 0 (toBE 4 (2 ^ 24 + recSeq.val)))] ∧
        t.dev.regs = s.dev.regs ∧ t.hbm = s.hbm) ∧
    (∀ r : Ident, s.dev.lnkState lp = 3 → r.version = 1 → s.dev.identCheck lp r = 0 → Completes (.tsIdent lp r recSeq) s fun t =>
      t.dev.rd .plnLnkFarIdLo lp = word r.devId ∧ t.dev.rd .plnLnkFarIdHi lp = word (r.devId / 2 ^ 32) ∧
      t.dev.rd .plnLnkFarPort lp = word r.word16 ∧ t.hbm = s.hbm) ∧
    (∀ r : Ident, s.dev.lnkState lp = 3 → r.version = 1 → s.dev.identCheck lp r ≠ 0 → s.dev.identCheck lp r ≠ 7 →
      Completes (.tsIdent lp r recSeq) s fun t =>
        t.dev.lnkState lp = 6 ∧ t.dev.rdF .plnLnkStatus lp 11 4 = s.dev.identCheck lp r ∧ t.hbm = s.hbm) ∧
    (∀ credits : List Nat, s.dev.lnkState lp = 4 → (s.dev.port lp).paramAcked = false →
      Completes (.tsParam lp 1 recSeq credits) s fun t =>
        (t.dev.port lp).paramSeen = true ∧
        (∀ v < 8, (SMap.getD t.dev.link.credits (lp * 8 + v) {}).farAdv = credits.getD v 0 % 65536) ∧
        t.dev.regs = s.dev.regs ∧ t.hbm = s.hbm) ∧
    (∀ recType : Fin 256, s.dev.lnkState lp = 2 →
      ((s.dev.port lp).sending.any fun r => r.typ == recType.val && r.seq == recSeq.val) = true →
      Completes (.tsAck lp 1 recType recSeq) s fun t =>
        (t.dev.port lp).sending = ((s.dev.port lp).sending.filter fun r => !(r.typ == recType.val && r.seq == recSeq.val)) ∧
        t.dev.regs = s.dev.regs ∧ t.hbm = s.hbm)

/-- With no port's loss untold: REPLAY at a group boundary queues every held group from the NAKed one on to be sent
again, forgets the request and counts PLN_LNK_REPLAY; an ACK_STALL_TIMEOUT in ACTIVE with groups unacknowledged,
before the eighth in a row, queues all of them and counts the stall; TRAINING_RESEND queues every record not yet
acknowledged behind the maintenance cells that wait; SEND_GROUP of an ACTIVE native port with groups to send again
takes one stripe of them, marked as replay, the first stripe of a codeword pair waiting for its second. -/
def Obligations.Replays : Prop :=
  ∀ (lp : Fin 2048) (s : State), s.dev.link.lost = [] →
    (∀ seq : Nat, (s.dev.port lp).replayReq = some seq → ((s.dev.port lp).unacked.any fun g => g.1 == seq) = true →
      Completes (.replay lp) s fun t =>
        (t.dev.port lp).resend = ((s.dev.port lp).unacked.dropWhile fun g => g.1 != seq) ∧
        (t.dev.port lp).replayReq = none ∧
        t.dev.rdN .plnLnkReplay lp = min 0xFFFFFFFF (s.dev.rdN .plnLnkReplay lp + 1) ∧ t.hbm = s.hbm ∧
        SameRegsBut s t fun r i => r == .plnLnkReplay && i == lp.val) ∧
    (s.dev.lnkState lp = 5 → (s.dev.port lp).unacked ≠ [] → (s.dev.port lp).stalls < 7 →
      Completes (.ackStallTimeout lp) s fun t =>
        (t.dev.port lp).resend = (s.dev.port lp).unacked ∧ (t.dev.port lp).stalls = (s.dev.port lp).stalls + 1 ∧
        t.dev.rdN .plnLnkReplay lp = min 0xFFFFFFFF (s.dev.rdN .plnLnkReplay lp + 1) ∧ t.hbm = s.hbm) ∧
    (Completes (.trainingResend lp) s fun t =>
      (t.dev.port lp).txMnt = (s.dev.port lp).txMnt ++
        ((s.dev.port lp).sending.map fun r => (r.lane, mntCell r.typ r.lane r.seq r.body)) ∧
      t.dev.regs = s.dev.regs ∧ t.hbm = s.hbm) ∧
    (s.dev.lnkState lp = 5 → s.dev.isEth lp = false → s.dev.lan.stopped.contains lp.val = false →
      SMap.find? s.dev.lan.mig (lpFp lp) = none → (s.dev.port lp).resend ≠ [] → (s.dev.port lp).pairHalf = [] →
      Completes (.sendGroup lp) s fun t =>
        (t.dev.port lp).resend = (s.dev.port lp).resend.drop (s.dev.fibLanes (lpFp lp)) ∧
        (t.dev.port lp).pairHalf.head? = ((s.dev.port lp).resend.head?.map fun g =>
          groupBytes g.2 g.1 (s.dev.port lp).rxSeq (if (s.dev.port lp).nak then 1 else 0) false true) ∧
        t.dev.out = s.dev.out ∧ t.dev.regs = s.dev.regs ∧ t.hbm = s.hbm)

/-- On a quiet device (no packets, groups, memory requests or migrations): HEARTBEAT_TIMEOUT of an ACTIVE port that no
HOLD covers takes it to HOLDOFF with reason HEARTBEAT (9) and counts PLN_LNK_DOWN_CNT; the PCS of an enabled Ethernet
port aligning puts it in service, and losing alignment takes it out; REJOIN of a port in service whose live bit is
clear, with no bell of its hold left, that is neither new to service nor leaving, sets the live bit: PLN_FWD_LP_STATUS
reads 1. -/
def Obligations.LinkService : Prop :=
  ∀ (lp : Fin 2048) (s : State), Quiet s.dev →
    (s.dev.lnkState lp = 5 → s.dev.held? lp = false → Completes (.heartbeatTimeout lp) s fun t =>
      t.dev.lnkState lp = 6 ∧ t.dev.rdF .plnLnkStatus lp 11 4 = 9 ∧
      t.dev.rdN .plnLnkDownCnt lp = min 0xFFFFFFFF (s.dev.rdN .plnLnkDownCnt lp + 1) ∧ t.hbm = s.hbm) ∧
    (s.dev.isEth lp = true → s.dev.lpEnabled lp = true → (s.dev.port lp).pcs = false → Completes (.pcsAligned lp) s fun t =>
      t.dev.inService lp = true ∧ t.hbm = s.hbm ∧ SameRegsBut s t fun r i => r == .plnFwdLpStatus && i == lp.val) ∧
    (s.dev.isEth lp = true → (s.dev.port lp).pcs = true → Completes (.pcsAlignLost lp) s fun t =>
      t.dev.inService lp = false ∧ t.hbm = s.hbm) ∧
    (s.dev.inService lp = true → s.dev.rdB .plnFwdLpStatus lp 0 = false → s.dev.rdF .plnFwdLpStatus lp 31 8 = 0 →
      (s.dev.port lp).fresh = false → (s.dev.port lp).leaving = false → Completes (.rejoin lp) s fun t =>
        t.dev.rd .plnFwdLpStatus lp = 1 ∧ t.hbm = s.hbm ∧
        SameRegsBut s t fun r i => r == .evrDropIn || (r == .plnFwdLpStatus && i == lp.val))

/-- A granted flush of a pipeline's flowlet table drops exactly that pipeline's entries. GEN_DRAIN_END of a die with a
generation DRAINING makes it free and leaves the other generation's state. A waiting lossless head whose answer cells
can be reserved now goes to its engine with that reservation (at the die that answers it; nothing of the engines
waiting unsent). Where the scheduler's choice for a port and VC names a queue with an eligible front, that copy leaves
the queue for the empty transmit slot. A native port in service with nothing to send and room in its next groups sends
a null cell. -/
def Obligations.Forwarding : Prop :=
  (∀ (who : Partner) (pl : Fin 64) (s : State), s.dev.granted who (regOffset .plnFwdCtrl pl) = true →
    exec (.flushFlowlets who pl) s = .next { s with dev := { s.dev with fwd := { s.dev.fwd with
      flowlets := SMap.keep s.dev.fwd.flowlets fun k => k / 65536 != pl.val } } }) ∧
  (∀ (die : Fin 8) (s : State), (s.dev.genState die 0 = 2 ∨ s.dev.genState die 1 = 2) → Completes (.genDrainEnd die) s fun t =>
    (∀ x < 2, t.dev.genState die x = if s.dev.genState die x = 2 then 0 else s.dev.genState die x) ∧ OnlyRegs s t ∧
    SameRegsBut s t fun r i => r == .plnFwdGenStatus && i == die.val) ∧
  (∀ (lp : Fin 2048) (vc : Fin 8) (pid v n : Nat) (h : Held) (r : Resv) (s : State),
    (s.dev.oldest lp vc fun p => p == Phase.wait || p == Phase.waitEngine) = some (pid, h) → s.dev.held pid = some h →
    s.dev.heldBehind lp vc = false → h.phase = .waitEngine → h.done = false → answerNeed h.pkt.op = some (v, n) →
    (s.dev.reserve (answerDie h) v n).map (·.2) = some r → s.dev.keep.unsent = [] →
    (∀ g ∈ s.dev.col.groups, g.2.sending = [] ∧ g.2.marker = 0) → Completes (.admissionRecheck lp vc) s fun t =>
      (∃ h', t.dev.held pid = some h' ∧ h'.phase = .engine ∧ h'.resv = r ∧ h'.pkt = h.pkt) ∧ t.hbm = s.hbm) ∧
  (∀ (lp : Fin 2048) (v : Fin 6) (c : Choice) (e : QEnt) (h : Held) (d : Dev) (s : State),
    SMap.find? s.dev.keep.slots (lp * 8 + v) = none →
    d = (upto 8).foldl (fun d c => (d.nodeQueues (lpDie lp) (lpJ lp * 8 + c)).foldl (fun d q => d.gateWaitOne lp c q v) d) s.dev →
    d.select lp v = some c → d.front c.q v = some (e, h) → Completes (.schedulerSelect lp v) s fun t =>
      (∃ x, SMap.find? t.dev.keep.slots (lp * 8 + v) = some x ∧ x.ent = e ∧ x.pos = 0) ∧
      SMap.getD t.dev.keep.queues (c.q * 8 + v) [] = (SMap.getD d.keep.queues (c.q * 8 + v) []).tail ∧ t.hbm = s.hbm) ∧
  (∀ (lp : Fin 2048) (corrupt : Bool) (mesh : Nat) (s : State), s.dev.inService lp = true → s.dev.isEth lp = false →
    (s.dev.port lp).txCells.length < 8 * s.dev.fibLanes (lpFp lp) → ((s.dev.fillControl lp).chooseVc lp).2 = none →
    Completes (.cellTransmit lp ⟨corrupt, mesh⟩) s fun t =>
      (∃ v n, (t.dev.port lp).txCells = (s.dev.port lp).txCells ++ [nullCell v n]) ∧ t.hbm = s.hbm)

/-- With no head before it, the oldest head of a native port and VC that is malformed is dropped (it leaves the Keep,
or, where cells of it are still to come, waits for them in the phase of a packet that is gone) and is counted once in
the port's PLN_LNK_MALFORMED; one that is well formed, addressed to the device with an opcode that needs no reserved
answer, on a VC without metering, and not yet complete, goes to its engine: its packet stays, in the engine's phase.
MESH_FENCE of two dies whose link is not fenced shows it fenced, with the relay die, in both ends' D2D_STATUS; a
granted D2D_CTRL retrain of one link that succeeds shows it up in both. Each leaves HBM; MESH_FENCE and the retrain
leave every other register (MESH_FENCE, which offers a record, all but the recorder's loss count). -/
def Obligations.HeadLookups : Prop :=
  (∀ (lp : Fin 2048) (vc : Fin 8) (pid : Nat) (h : Held) (s : State),
    (s.dev.oldest lp vc fun p => p == Phase.head || p == Phase.wait || p == Phase.waitEngine) = some (pid, h) →
    s.dev.held pid = some h → s.dev.heldBehind lp vc = false → h.phase = .head → h.lp = some lp.val →
    (headMalformed h = true → Completes (.headLookup lp vc) s fun t =>
      t.dev.rdN .plnLnkMalformed lp = min 0xFFFFFFFF (s.dev.rdN .plnLnkMalformed lp + 1) ∧
      (t.dev.held pid = none ∨ ∃ h', t.dev.held pid = some h' ∧ h'.phase = .gone) ∧ t.hbm = s.hbm) ∧
    (headMalformed h = false → (h.pkt.did = linkLocal ∨ h.pkt.did = s.dev.selfDid h.die) → consumable h.pkt.op = true →
      answerNeed h.pkt.op = none → h.pkt.vc ≠ 2 → h.pkt.vc ≠ 3 → h.done = false → Completes (.headLookup lp vc) s fun t =>
        (∃ h', t.dev.held pid = some h' ∧ h'.phase = .engine ∧ h'.pkt = h.pkt) ∧ t.hbm = s.hbm)) ∧
(∀ (die peer : Fin 8) (s : State), die ≠ peer → s.dev.rdB .d2dStatus (die * 8 + peer) 1 = false → Completes (.meshFence die peer) s fun t =>
    t.dev.rd .d2dStatus (die * 8 + peer) = word (relayDie die peer * 4 + 2) ∧
    t.dev.rd .d2dStatus (peer * 8 + die) = word (relayDie die peer * 4 + 2) ∧ t.hbm = s.hbm ∧
    SameRegsBut s t fun r i => r == .evrDropIn || (r == .d2dStatus && (i == die * 8 + peer || i == peer * 8 + die))) ∧
  (∀ (who : Partner) (die m : Fin 8) (ok : Nat) (s : State), s.dev.granted who (regOffset .d2dCtrl die) = true → die ≠ m →
    bit ok m = true → Completes (.d2dRetrain who die (word (2 ^ m.val)) ok) s fun t =>
      t.dev.rd .d2dStatus (die * 8 + m) = 1 ∧ t.dev.rd .d2dStatus (m * 8 + die) = 1 ∧ t.hbm = s.hbm ∧
      SameRegsBut s t fun r i => r == .d2dStatus && (i == die * 8 + m || i == m * 8 + die))

/-- A CONG_ECHO is counted in KEP_ECHO_RX of its die, and lowers the rate of the flow's limiter by the configured
fraction, not below the least rate, and restarts its idle count. LIMITER_INCREASE raises a limiter that has stood
ai_bells bells without an echo by the configured step, taking those bells off its count, or removes it where it
reaches its port's rate, and leaves a limiter that has not stood so long. SPILL_WRITE, with room in the die's spill
region and no uncorrectable error in its cells, moves a complete packet staged for spilling out of the die's spill
pool: its bytes stand in the lowest free cells of 64 bytes of the region. SPILL_READBACK, where the pool has room and
those cells can be read, moves it back with the bytes that stand there, and leaves HBM. (That the region is filled
with whole cells from the lowest is the model's choice, assumption 55.) DEPTH_EXCHANGE takes the depths of every queue
and of every port and VC as they stand into what the other dies see, and starts the dies' own counts of cells admitted
since afresh; nothing else changes. -/
def Obligations.CongestionControl : Prop :=
(∀ (lp : Fin 2048) (p : Pkt) (s : State), Completes (.congEcho lp p) s fun t =>
    t.dev.rdN .kepEchoRx (p.flow / 2 ^ 13 % 8) = min 0xFFFFFFFF (s.dev.rdN .kepEchoRx (p.flow / 2 ^ 13 % 8) + 1) ∧ t.hbm = s.hbm ∧
    ((SMap.getD s.dev.keep.limiters (p.flow / 2 ^ 13 % 8) []).any (fun l => l.did == p.sid && l.flow == p.flow && l.vc == bits p.opf 47 45) = true →
      SMap.getD t.dev.keep.limiters (p.flow / 2 ^ 13 % 8) [] = (SMap.getD s.dev.keep.limiters (p.flow / 2 ^ 13 % 8) []).map fun l =>
        if l.did == p.sid && l.flow == p.flow && l.vc == bits p.opf 47 45 then
          let cut := l.rate - l.rate / 2 ^ s.dev.rdF .kepLimCfg (p.flow / 2 ^ 13 % 8) 31 28
          { l with rate := max (s.dev.limMinRate (p.flow / 2 ^ 13 % 8)) cut, idle := 0 }
        else l)) ∧
  (∀ (die : Fin 8) (i : Nat) (l : Limiter) (s : State), (SMap.getD s.dev.keep.limiters die [])[i]? = some l →
    (l.idle < s.dev.rdF .kepLimCfg die 19 12 → exec (.limiterIncrease die i) s = .next s) ∧
    (s.dev.rdF .kepLimCfg die 19 12 ≤ l.idle → Completes (.limiterIncrease die i) s fun t =>
      SMap.getD t.dev.keep.limiters die [] = (if l.portRate ≤ l.rate + s.dev.rdF .kepLimCfg die 27 20 then
        (SMap.getD s.dev.keep.limiters die []).eraseIdx i
      else setAt (SMap.getD s.dev.keep.limiters die []) i { l with
        rate := l.rate + s.dev.rdF .kepLimCfg die 27 20, idle := l.idle - s.dev.rdF .kepLimCfg die 19 12 }) ∧
      t.dev.regs = s.dev.regs ∧ t.hbm = s.hbm)) ∧
  (∀ (die : Fin 8) (pid : Nat) (h : Held) (cs : List Nat) (s : State), s.dev.held pid = some h → h.die = die.val → h.spill = .stage →
    h.done = true → s.dev.spillRoom die h.cells = true → cs = s.dev.spillCells die h.cells →
    (∀ c ∈ cs, s.dev.spillHpa die c + 64 ≤ 2 ^ 41 ∧ s.dev.badBlocks (s.dev.spillHpa die c) 64 = []) →
    h.pkt.payload.length ≤ 64 * h.cells → Completes (.spillWrite die pid) s fun t =>
      t.dev.held pid = some { h with spill := .hbm, pool := .none, spillAt := cs, spillLen := h.pkt.payload.length,
                                     pkt := { h.pkt with payload := [] } } ∧
      t.dev.poolUsed die .spill = s.dev.poolUsed die .spill - h.cells ∧
      SMap.getD t.dev.keep.spilled die 0 = SMap.getD s.dev.keep.spilled die 0 + h.cells ∧
      ∀ i < h.pkt.payload.length, hbmByte t.hbm (s.dev.spillHpa die (cs.getD (i / 64) 0) + i % 64) = h.pkt.payload.getD i 0) ∧
  (∀ (die : Fin 8) (pid : Nat) (h : Held) (s : State), s.dev.held pid = some h → h.die = die.val → h.spill = .hbm →
    s.dev.poolRoom die .spill h.cells = true → s.dev.stackUp (s.dev.spillHpa die 0 / 2 ^ 36) = true →
    (∀ c ∈ h.spillAt, s.dev.badBlocks (s.dev.spillHpa die c) 64 = []) → h.spillLen ≤ 64 * h.spillAt.length →
    Completes (.spillReadback die pid) s fun t =>
      (∃ h', t.dev.held pid = some h' ∧ h'.spill = .back ∧ h'.pool = .spill ∧ h'.spillAt = [] ∧ h'.cells = h.cells ∧
        h'.pkt.payload.length = h.spillLen ∧ ∀ i < h.spillLen,
          h'.pkt.payload.getD i 0 = hbmByte s.hbm (s.dev.spillHpa die (h.spillAt.getD (i / 64) 0) + i % 64)) ∧
      t.dev.poolUsed die .spill = s.dev.poolUsed die .spill + h.cells ∧ t.hbm = s.hbm) ∧
  (∀ s : State, exec .depthExchange s = .next { s with dev := { s.dev with keep := { s.dev.keep with
    depthSnap := s.dev.keep.depth, depthOwn := [], lpSnap := s.dev.keep.lpDepth, lpOwn := [] } } })

/-- A PTP message to the die's router address arriving on an Ethernet port in service is held for Belfry: the new
packet keeps the bytes of the head in the engine's phase. A frame that ends shorter than 64 bytes, its head not
admitted to the Keep, is counted once in the port's runt count. Belfry's own PTP message of a native port is offered
to the switch as a TIME packet of VC6 from the die's own identity, with its bytes taken from Belfry's bucket, and
dropped and counted in GRD_BF_TX_DROP where the bucket falls short. -/
def Obligations.EthernetFrames : Prop :=
  (∀ (lp : Fin 2048) (head : List Byte) (s : State), s.dev.isEth lp = true → s.dev.inService lp = true →
    (parseFrame head).et ≠ 0x8808 → s.dev.rmac (lpDie lp) ≠ 0 → frameDst head = s.dev.rmac (lpDie lp) →
    (ptpAt [319, 320] head (parseFrame head)).isSome = true → Completes (.ethFrameHead lp head) s fun t =>
      (∃ h, t.dev.held s.dev.keep.nextPid = some h ∧ h.phase = .engine ∧ h.pkt.payload = head ∧ h.lp = some lp.val) ∧
      t.dev.keep.nextPid = s.dev.keep.nextPid + 1 ∧ t.hbm = s.hbm) ∧
  (∀ (lp : Fin 2048) (rest : List Byte) (pid : Nat) (h : Held) (s : State),
    (s.dev.keep.pkts.find? fun e => e.2.lp == some lp.val && e.2.frame.isSome && !e.2.done) = some (pid, h) →
    h.phase ≠ .kept → h.pkt.payload.length + rest.length < 64 → Completes (.ethFrameEnd lp rest) s fun t =>
      t.dev.rdN .plnLnkEthRunt lp = min 0xFFFFFFFF (s.dev.rdN .plnLnkEthRunt lp + 1) ∧ t.dev.held pid = none ∧ t.hbm = s.hbm) ∧
  (∀ (lp : Fin 2048) (p : Pkt) (b : Bucket) (s : State), s.dev.isEth lp = false →
    b = (SMap.getD s.dev.mgt.bucket lp (Bucket.full 16384 0)).refill 1000 16384 s.dev.time.now →
    (¬ b.tok < (cellsOf p.payload.length * 64 * byteUnit : Nat) → exec (.belfryPtpSend lp p) s = .next (s.on fun d =>
      let mgt := { d.mgt with bucket := SMap.insert lp (b.take (cellsOf p.payload.length * 64)) d.mgt.bucket }
      let d : Dev := { d with mgt := mgt }
      d.originate (lpDie lp) { p with op := 0x71, vc := 6, sid := d.selfDid (lpDie lp) } (some lp) false (decide (beAt p.payload 0 1 % 16 ≤ 3)) {})) ∧
    (b.tok < (cellsOf p.payload.length * 64 * byteUnit : Nat) → Completes (.belfryPtpSend lp p) s fun t =>
      t.dev.rdN .grdBfTxDrop 0 = min 0xFFFFFFFF (s.dev.rdN .grdBfTxDrop 0 + 1) ∧ t.dev.keep = s.dev.keep ∧ t.hbm = s.hbm))

/-- A granted WRITE, INSERT, DELETE or nonempty FLUSH at the broadcast TAP, not busy and with no error of form, is put
at the end of the landing queue with the next TAP_BC_SEQ while fewer than 4,096 commands wait, and the TAP is done
with error 0; with 4,096 waiting it is held and the TAP stays busy. HBM does not change. While a TAP is busy each of
its operations sets overrun and does nothing else. TAP_DONE of a busy die TAP, with no operation held for a stack
whose writes pause, clears busy, sets done, gives the error the operation ended with, and frees the TAP. -/
def Obligations.BroadcastCommands : Prop :=
  (∀ (who : Partner) (w : Word) (i : Instr) (op : Nat) (c : TapCmd) (s : State),
    (i, op) ∈ [(Instr.tapWrite who 8 w, 1), (.tapInsert who 8 w, 2), (.tapDelete who 8 w, 3), (.tapFlush who 8 w, 6)] →
    s.dev.granted who 0x80000 = true → SMap.find? s.dev.tab.busy 8 = none → c = s.dev.tapCmdOf 8 op w → s.dev.bcForm c = 0 →
    (op = 6 → c.k 1 ≠ 0) → Completes i s fun t => t.hbm = s.hbm ∧
      (s.dev.tab.bcQueue.length < 4096 →
        t.dev.tab.bcQueue = s.dev.tab.bcQueue ++ [⟨(s.dev.rdN .tapBcSeq 0 + 1) % 2 ^ 32, op, c.table, if c.table ≤ 2 then c.gen else 0,
          c.key, c.data, 0⟩] ∧
        t.dev.rdN .tapBcSeq 0 = (s.dev.rdN .tapBcSeq 0 + 1) % 2 ^ 32 ∧ t.dev.rdF .bcTapStatus 0 1 0 = 2 ∧
        t.dev.rdF .bcTapStatus 0 15 8 = 0) ∧
      (4096 ≤ s.dev.tab.bcQueue.length →
        t.dev.tab.bcHeld = some ⟨0, op, c.table, if c.table ≤ 2 then c.gen else 0, c.key, c.data, 0⟩ ∧ t.dev.tab.bcQueue = s.dev.tab.bcQueue ∧
        t.dev.rdN .tapBcSeq 0 = s.dev.rdN .tapBcSeq 0 ∧ t.dev.rdF .bcTapStatus 0 1 0 = 1 ∧
        SMap.find? t.dev.tab.busy 8 = some 1)) ∧
(∀ (who : Partner) (tap : Fin 9) (w : Word) (r : Reg) (k e : Nat) (i : Instr) (s : State),
    i ∈ [Instr.tapRead who tap w, .tapWrite who tap w, .tapInsert who tap w, .tapDelete who tap w, .tapSearch who tap w,
      .tapAgeScan who tap w, .tapFlush who tap w, .tapBadOp who tap w] →
    s.dev.granted who (if tap.val < 8 then 0x10A0000 + tap.val * 0x400000 else 0x80000) = true →
    SMap.find? s.dev.tab.busy tap = some e → (r, k) = (if tap.val < 8 then (Reg.tapStatus, tap.val) else (.bcTapStatus, 0)) →
    Completes i s fun t => t.dev.rdB r k 2 = true ∧ OnlyRegs s t ∧
      (∀ b, b ≠ 2 → t.dev.rdB r k b = s.dev.rdB r k b) ∧ SameRegsBut s t fun q j => q == r && j == k) ∧
  (∀ (tap : Fin 9) (e : Nat) (s : State), tap.val < 8 → SMap.find? s.dev.tab.busy tap = some e → e ≤ 10 →
    SMap.find? s.dev.tab.tapHeld tap = none →
    Completes (.tapDone tap) s fun t =>
      t.dev.rdF .tapStatus tap 1 0 = 2 ∧ t.dev.rdF .tapStatus tap 15 8 = e - 1 ∧
      t.dev.rdB .tapStatus tap 2 = s.dev.rdB .tapStatus tap 2 ∧ SMap.find? t.dev.tab.busy tap = none ∧
      t.dev.tab.ent = s.dev.tab.ent ∧ t.hbm = s.hbm ∧ SameRegsBut s t fun q j => q == .tapStatus && j == tap.val)

/-- A granted command of a die TAP that is not busy leaves the TAP busy with its end to come. READ of an indexed table
(not the Route Table, LET or page map) at a good entry in range gives its words in TAP_DATA and its valid bit and
index in TAP_RESULT. SEARCH of the Route Table that finds a good entry gives its slot in TAP_RESULT and its value in
TAP_DATA0. WRITE of a table that is kept per die or pipeline and accepts the words keeps a tenant limit slot as
written and answers the index. FLUSH of a nonempty range of an indexed table answers how many entries it invalidated,
AGE_SCAN of a nonempty range of a LET, the writes of its stack not paused, how many expired entries it removed. A bad
op leaves the tables and TAP_RESULT alone. -/
def Obligations.DieTapReads : Prop :=
  ∀ (who : Partner) (die : Fin 8) (w : Word) (tap : Fin 9) (s : State), tap.val = die.val →
    s.dev.granted who (0x10A0000 + die.val * 0x400000) = true → SMap.find? s.dev.tab.busy die = none →
    (∀ c ws, c = s.dev.tapCmdOf die 0 w → c.table < 13 → c.table ≠ 0 → c.table ≠ 3 → c.table ≠ 11 →
      c.k 0 < tableSlots c.table → s.dev.entBad die c.table c.gen (tableUnit c.table die c.pipe) (c.k 0) = false →
      ws = s.dev.readEnt die c.table c.gen (tableUnit c.table die c.pipe) (c.k 0) → ws.length ≤ 16 →
      Completes (.tapRead who tap w) s fun t =>
        (∀ j, j < ws.length → t.dev.rd .tapData (die * 16 + j) = ws.getD j 0) ∧
        t.dev.rdN .tapResult die = s.dev.readResult c.table (tableUnit c.table die c.pipe) (c.k 0) ws % 2 ^ 32 ∧
        t.dev.rdF .tapStatus die 1 0 = 1 ∧ SMap.find? t.dev.tab.busy die = some 1 ∧ t.dev.tab.ent = s.dev.tab.ent ∧
        t.hbm = s.hbm) ∧
    (∀ c x, c = s.dev.tapCmdOf die 4 w → c.table = 0 → badRouteKey c = false → s.dev.routeSlot c.gen c.routeKey = some x →
      s.dev.entBad die 0 c.gen 0 x = false → Completes (.tapSearch who tap w) s fun t =>
        t.dev.rdN .tapResult die = x % 2 ^ 32 ∧ t.dev.rd .tapData (die * 16) = (s.dev.ent 0 c.gen 0 x).getD 5 0 ∧
        t.dev.rdF .tapStatus die 1 0 = 1 ∧ SMap.find? t.dev.tab.busy die = some 1 ∧ t.dev.tab.ent = s.dev.tab.ent ∧
        t.hbm = s.hbm) ∧
    (∀ c, c = s.dev.tapCmdOf die 1 w → c.table < 13 → replicated c.table = false → c.table ≠ 3 → c.k 0 < tableSlots c.table →
      s.dev.formErr die c.pipe c.table (c.k 0) (c.data.take (tableWords c.table)) = 0 →
      Completes (.tapWrite who tap w) s fun t =>
        t.dev.rdN .tapResult die = c.k 0 ∧ t.dev.rdF .tapStatus die 1 0 = 1 ∧ SMap.find? t.dev.tab.busy die = some 1 ∧
        (c.table = 12 → ∀ j, j < 2 → (t.dev.ent 12 0 (die * 8 + c.pipe) (c.k 0)).getD j 0 = c.data.getD j 0) ∧
        t.hbm = s.hbm) ∧
    (∀ c, c = s.dev.tapCmdOf die 6 w → c.table < 13 → replicated c.table = false → c.table ≠ 3 → c.k 1 ≠ 0 →
      c.k 0 + c.k 1 ≤ tableSlots c.table → Completes (.tapFlush who tap w) s fun t =>
        t.dev.rdN .tapResult die = (s.dev.flushRange die c.pipe c.table c.gen (c.k 0) (c.k 1)).2 % 2 ^ 32 ∧
        t.dev.rdF .tapStatus die 1 0 = 1 ∧ SMap.find? t.dev.tab.busy die = some 1 ∧ t.hbm = s.hbm) ∧
    (∀ c pl, c = s.dev.tapCmdOf die 5 w → c.table = 3 → pl = die * 8 + c.pipe → s.dev.letOn pl = true → c.k 1 ≠ 0 →
      c.k 0 + c.k 1 ≤ tableSlots 3 → s.dev.tapPaused die c = false → Completes (.tapAgeScan who tap w) s fun t =>
        t.dev.rdN .tapResult die = (letRemove s pl (c.k 0) (c.k 1) fun ws => s.dev.letExpired pl ws).2 % 2 ^ 32 ∧
        t.dev.rdF .tapStatus die 1 0 = 1 ∧ SMap.find? t.dev.tab.busy die = some 1) ∧
    (Completes (.tapBadOp who tap w) s fun t => t.dev.tab.ent = s.dev.tab.ent ∧
      t.dev.rd .tapResult die = s.dev.rd .tapResult die ∧ t.dev.rdF .tapStatus die 1 0 = 1 ∧
      SMap.find? t.dev.tab.busy die = some 2 ∧ t.hbm = s.hbm)

/-- TABLE_SCRUB of an indexed entry that has come to have bad parity leaves it bad on its die and counts it in
TAP_PERR_CNT; a good entry is left alone. While the stack that holds the LET is neither fenced nor pauses writes:
LET_AGER of an expired learned entry that is not bad invalidates it, counts it in PLN_LET_AGED, and changes no byte of
HBM outside its slot; LEARN_INSERT of a key not in the LET and with room places it and counts it in PLN_LET_LEARNED.
LET_CACHE_FILL takes the waiting frame on through the entry read, where one is found. ECHO_INTERVAL sends the oldest
echo of the die. -/
def Obligations.TablesKeptUp : Prop :=
  (∀ (die : Fin 8) (table : Fin 13) (gen : Fin 2) (pipe : Fin 8) (idx : Nat) (upset : Bool) (g u : Nat) (s : State),
    table.val ≠ 3 → table.val ≠ 11 → idx < tableSlots table → g = (if table.val ≤ 2 then gen.val else 0) →
    u = tableUnit table die pipe →
    (upset = true → Completes (.tableScrub die table gen pipe idx upset) s fun t =>
      t.dev.entBad die table g u idx = true ∧
      t.dev.rdN .tapPerrCnt die = min 0xFFFFFFFF (s.dev.rdN .tapPerrCnt die + 1) ∧ t.dev.tab.ent = s.dev.tab.ent ∧ t.hbm = s.hbm) ∧
    (upset = false → s.dev.entBad die table g u idx = false → exec (.tableScrub die table gen pipe idx upset) s = .next s)) ∧
  (∀ (pl : Fin 64) (slot : Nat) (s : State), s.dev.letOn pl = true → slot < tableSlots 3 → s.dev.letDead pl = false →
    s.dev.classPaused (s.dev.letStack pl) 1 = false → letBad s pl slot = false →
    s.dev.letExpired pl (letWords s pl slot) = true → s.dev.letAddr pl slot + 32 ≤ 2 ^ 41 → Completes (.letAger pl slot) s fun t =>
      letValid (letWords t pl slot) = false ∧ t.dev.rdN .plnLetAged pl = min 0xFFFFFFFF (s.dev.rdN .plnLetAged pl + 1) ∧
      ∀ a, a < s.dev.letAddr pl slot ∨ s.dev.letAddr pl slot + 32 ≤ a → hbmByte t.hbm a = hbmByte s.hbm a) ∧
  (∀ (pl : Fin 64) (l : Learn) (q : List Learn) (key : List Nat) (x : Nat) (s u v z : State),
    SMap.getD s.dev.tab.learnQ pl [] = l :: q → s.dev.letOn pl = true →
    s.dev.classPaused (s.dev.letStack pl) 1 = false → key = letKey l.kind l.tenant l.vlan l.addr →
    u = (s.on fun d => { d with tab := { d.tab with learnQ := SMap.put d.tab.learnQ pl [] q } }) →
    letFind u pl key = (v, none) →
    letPlace v pl [putBits (key.getD 0 0) 29 28 2, key.getD 1 0, key.getD 2 0, 0, 0, 0, v.dev.bellStamp * 2 ^ 16 + l.lp, 0]
      = (z, some x) →
    Completes (.learnInsert pl) s fun t =>
      t.dev.rdN .plnLetLearned pl = min 0xFFFFFFFF (z.dev.rdN .plnLetLearned pl + 1) ∧ t.hbm = z.hbm) ∧
  (∀ (lp : Fin 2048) (pid x : Nat) (h : Held) (s u : State),
    (s.dev.keep.pkts.find? fun e => e.2.lp == some lp.val && e.2.phase == Phase.letWait) = some (pid, h) →
    letFind s (lpPl lp) (frameKey h) = (u, some x) →
    exec (.letCacheFill lp) s = .next (bridge (u.on fun d => d.cacheFill (lpPl lp) x) pid { h with phase := .head } lp (some x))) ∧
  (∀ (die : Fin 8) (e : EchoEnt) (q : List EchoEnt) (s : State), SMap.getD s.dev.keep.echoes die [] = e :: q →
    s.dev.selfDid die ≠ 0 → exec (.echoInterval die) s = .next (s.on fun d =>
      let keep := { d.keep with echoes := SMap.put d.keep.echoes die [] q }
      let d : Dev := { d with keep := keep }
      (d.originate die { op := 0x72, vc := 6, did := e.sid, sid := d.selfDid die, tenant := e.tenant, flow := e.flow, tclass := e.tclass, opf := min 65535 e.count * 2 ^ 48 + e.vc * 2 ^ 45 } none false false {}).bump .kepEchoTx die))

/-- A descriptor that its ring may start, fetched and free of the errors of rule R351, acts as follows. GROUP_ACTIVATE
for the ring's own group, not RESIDENT, whose record need not wait and whose checks pass, reserves the missing slots,
keeps the children of the record, makes the group RESIDENT with next_seq 0, and ends with OK. GROUP_DEACTIVATE of the
ring's own group, RESIDENT or BROKEN, frees its slots, makes it DORMANT, and ends with OK. A collective descriptor of
the ring's own RESIDENT group that passes rule R240 and may be armed joins the armed operations (one of length 0 as a
barrier, and a BROADCAST whose source is not below the chip with every chunk finished), and next_seq becomes its seq
plus 1; COLLECTIVE_ARM does the same once the older operation has finished here. -/
def Obligations.GroupCommands : Prop :=
  ∀ (ring : Fin 16384) (host : HostData) (desc : List Byte) (idx g : Nat) (s u : State),
    s.dev.mayStart ring = true → fetchDesc s ring host = (u, .inr desc) → idx = s.dev.nextIdx ring →
    u.dev.descCode ring desc = 0 →
    (∀ kids v, dKind desc = 0x20 → s.dev.started ring = 0 → g = bits (dw desc 1) 12 0 → u.dev.rGrpEn ring = true →
      u.dev.rGroup ring = g → u.dev.gState g ≠ 0 → u.dev.gState g ≠ 2 → u.dev.recordWaits g = false → activation u g ring = (v, .inr kids) →
      exec (.groupActivate ring host) s = .next (finish (v.on fun d =>
        let d := (d.reserveSlots g).setGrp g { kids := kids }
        ((d.setGw g 8 (2 * 2 ^ 28 + bits (d.gw g 8) 26 24 * 2 ^ 24)).setGw g 9 0).setGw g 10 0) ring idx desc sOk 0 0 0)) ∧
    (dKind desc = 0x21 → s.dev.started ring = 0 → g = bits (dw desc 1) 12 0 → u.dev.rGrpEn ring = true →
      u.dev.rGroup ring = g → u.dev.gRing g = ring → u.dev.gState g = 2 ∨ u.dev.gState g = 3 →
      exec (.groupDeactivate ring host) s = .next (finish (u.on fun d =>
        let d := (d.freeGroupSlots g).setGrp g {}
        d.setGw g 8 (2 ^ 28 + d.gw g 8 % 2 ^ 27)) ring idx desc sOk 0 0 0)) ∧
    (∀ (i : Instr) (o : CollOp), dKind desc = 0xC0 → g = u.dev.rGroup ring → u.dev.gRing g = ring → u.dev.gState g = 2 →
      o = opOf idx (u.dev.nextSeq g) desc → u.dev.opCode g desc o = 0 → u.dev.mayArm g = true →
      (i = .collectiveDescriptor ring host ∨ (∃ k : Fin 8192, i = .collectiveArm k host ∧ s.dev.gRing k = ring ∧
        s.dev.gState k = 2 ∧ (s.dev.grp k).armed.length = 1 ∧ s.dev.mayArm k = true)) →
      Completes i s fun t =>
        (t.dev.grp g).armed = (u.dev.grp g).armed ++ [if u.dev.nothingUp g o.asBarrier then
          { o.asBarrier with fin := upto (chunkCount o.asBarrier) } else o.asBarrier] ∧
        t.dev.nextSeq g = (o.seq + 1) % 2 ^ 24 ∧ t.hbm = u.hbm ∧ t.dev.rng = u.dev.rng)

/-- A COLL_UP of a group that is not DORMANT is decided by Table 9-10: one that duplicates is counted in COL_DUP, one
for an operation behind in COL_DISCARD, and nothing else of collectives changes; a refusal is sent back with its code
and hint; an accepted contribution of a reducing operation, met by no uncorrectable error of the tile, joins its chunk
with the port among the chunk's children, and one met by such an error leaves the group BROKEN. CHUNK_CLOSE of a chunk
that every child of a RESIDENT group contributed to closes it: with no uncorrectable error in its slot the chunk is
open no more, and the rounded result of a chip that is not the ROOT is kept as what it sent up; with one the group is
BROKEN. COLL_DOWN from a port that is not the parent, or of no RESIDENT group, is counted in COL_DISCARD; one for an
armed operation of a kind that no tile closes goes on to the children, and its chunk is finished once the packet has
been sent. A transient COLL_NAK with a hint has the kept contribution wait for the bell the hint names. -/
def Obligations.Contributions : Prop :=
  (∀ (lp : Fin 2048) (p : Pkt) (u : State) (resv : Resv) (g : Nat) (c : UpCheck) (bad : SlotFault) (s : State),
    (u, resv) = ({ s with dev := (s.dev.take lp p).1.groupMeets g }, (s.dev.take lp p).2) → g = pGroup p → u.dev.gState g ≠ 1 →
    c = u.dev.upCheck g lp (u.dev.grp g).kids p →
    (c = .dup → Completes (.collUp lp ⟨p, bad⟩) s fun t => t.dev.col = s.dev.col ∧ t.hbm = s.hbm ∧
      t.dev.rdN .colDup (groupDie g) = min 0xFFFFFFFF (s.dev.rdN .colDup (groupDie g) + 1)) ∧
    (c = .discard → Completes (.collUp lp ⟨p, bad⟩) s fun t => t.dev.col = s.dev.col ∧ t.hbm = s.hbm ∧
      t.dev.rdN .colDiscard (groupDie g) = min 0xFFFFFFFF (s.dev.rdN .colDiscard (groupDie g) + 1)) ∧
    (∀ code hint mal, c = .nak code hint mal →
      exec (.collUp lp ⟨p, bad⟩) s = .next (u.on fun d => d.refuseUp lp g p resv code hint mal)) ∧
    (∀ o, c = .accept o → o.tiled = true →
      (bad.unc = false → Completes (.collUp lp ⟨p, bad⟩) s fun t =>
        (∃ k ∈ (t.dev.grp g).chunks, k.seq = o.seq ∧ k.chunk = p.tag ∧ lp.val ∈ k.kids) ∧ t.hbm = s.hbm) ∧
      (bad.unc = true → Completes (.collUp lp ⟨p, bad⟩) s fun t => t.dev.gState g = 3))) ∧
  (∀ (g : Fin 8192) (seq chunk : Nat) (bad : SlotFault) (k : Chunk) (o : CollOp) (s : State),
    ((s.dev.grp g).chunks.find? fun k => k.seq == seq && k.chunk == chunk) = some k →
    ((s.dev.grp g).armed.find? fun o => o.seq == seq) = some o → k.kids.length = s.dev.nchild g → s.dev.gState g = 2 → s.dev.frozen (s.dev.gRing g / 2048) = false →
    exec (.chunkClose g seq chunk bad) s = .next (closeChunk s g o k bad) ∧
    (bad.unc = false → s.dev.isPoisoned k.ct k.slot = false → Completes (.chunkClose g seq chunk bad) s fun t =>
      (∀ x ∈ (t.dev.grp g).chunks, ¬(x.seq = seq ∧ x.chunk = chunk)) ∧
      (s.dev.gRoot g = false → ∃ x ∈ (t.dev.grp g).armed, x.seq = seq ∧ ∃ up, SMap.find? x.sent chunk = some up ∧ up.op = 0x40 ∧
        up.vc = 4 ∧ up.payload = tileOut bad (s.dev.chunkResult g o k).1)) ∧
    (bad.unc = true ∨ s.dev.isPoisoned k.ct k.slot = true → Completes (.chunkClose g seq chunk bad) s fun t => t.dev.gState g = 3)) ∧
  (∀ (lp : Fin 2048) (p : Pkt) (g : Nat) (s : State), g = pGroup p →
    (s.dev.gState g ≠ 2 ∨ s.dev.gRoot g = true ∨ s.dev.parentLp g ≠ lp → Completes (.collDown lp p) s fun t =>
      t.dev.col = s.dev.col ∧ t.hbm = s.hbm ∧
      t.dev.rdN .colDiscard (groupDie g) = min 0xFFFFFFFF (s.dev.rdN .colDiscard (groupDie g) + 1)) ∧
    (∀ o ports u, u = { s with dev := (s.dev.take lp p).1 } → s.dev.isReady = true → s.dev.gState g = 2 →
      s.dev.gRoot g = false → s.dev.parentLp g = lp → s.dev.seqAt g (pSeq p) = .armed o → p.tag ≠ 0xFFFF →
      s.dev.downTo g o p.tag = some ports → o.tiled = false →
      exec (.collDown lp p) s = .next (u.on fun d =>
        (d.newRef.2.sendTo (lpDie lp) p ports d.newRef.1).chunkOut g o.seq p.tag (pCount p) d.newRef.1))) ∧
  (∀ (lp : Fin 2048) (p up : Pkt) (g : Nat) (o : CollOp) (s : State), g = bits p.opf 31 19 → s.dev.gState g = 2 →
    s.dev.gRoot g = false → s.dev.parentLp g = lp → (bits p.opf 63 56 = 2 ∨ bits p.opf 63 56 = 7 ∨ bits p.opf 63 56 = 10) →
    ((s.dev.grp g).armed.find? fun o => o.seq % 2 ^ 19 == bits p.opf 18 0) = some o → SMap.find? o.sent p.tag = some up →
    bits p.opf 47 32 ≠ 0 → Completes (.collNak lp p) s fun t =>
      (t.dev.grp g).again = (s.dev.grp g).again ++ [(up, s.dev.time.bell + bits p.opf 47 32)] ∧
      (t.dev.grp g).armed = (s.dev.grp g).armed ∧ t.hbm = s.hbm)

/-- COLL_ABORT, FAULT_BEACON and SKEW_TIMEOUT end a RESIDENT group's operations. An abort or beacon of a wrong length
or from a port that is no endpoint child (for the abort) or no chip neighbour (for the beacon) is only counted in
COL_BEACON_RX (the group's entry is not bad). A beacon from a chip neighbour ends the group with the code and payload
it carries, which are passed on. A chunk that has waited ends the group with GROUP_TIMEOUT, after the bitmap of the
missing children is written to a usable record (or its write waits, where the record's stack pauses P2) and the group
watchdog's trip has latched the fault context and written its record. An end with none of a reclaim leaves the
RESIDENT group BROKEN with no operation armed and no chunk open, and COL_LAST_END with its kind and group. -/
def Obligations.EarlyEnds : Prop :=
  (∀ (lp : Fin 2048) (p : Pkt) (g : Nat) (i : Instr) (s : State), g = pGroup p → s.dev.groupMeets g = s.dev →
    (i = .collAbort lp p ∧ (s.dev.farEndpoint lp = false ∨ (s.dev.grp g).kids.contains lp.val = false)) ∨
      (i = .faultBeacon lp p ∧ (s.dev.farEndpoint lp = true ∨ s.dev.gState g ≠ 2)) ∨
      ((i = .collAbort lp p ∨ i = .faultBeacon lp p) ∧ p.payload.length ∉ [0, 24, 280]) →
    Completes i s fun t => t.dev.rdN .colBeaconRx (groupDie g) = min 0xFFFFFFFF (s.dev.rdN .colBeaconRx (groupDie g) + 1) ∧
      t.dev.col = s.dev.col ∧ t.dev.rng = s.dev.rng ∧ t.dev.tab = s.dev.tab ∧ t.hbm = s.hbm ∧
      SameRegsBut s t fun r k => r == .colBeaconRx && k == groupDie g) ∧
  (∀ (lp : Fin 2048) (p : Pkt) (g : Nat) (u s : State), g = pGroup p → p.payload.length ∈ [0, 24, 280] →
    u = { s with dev := (s.dev.take lp p).1.bump .colBeaconRx (groupDie g) } →
    (s.dev.farEndpoint lp = true → (s.dev.grp g).kids.contains lp.val = true → s.dev.gState g = 2 →
      exec (.collAbort lp p) s = .next (earlyEnd u g ⟨7, sGroupBroken, 1, s.dev.endSeq g,
        u.dev.failRecord (groupDie g) (7 * 2 ^ 24 + lp.val) (s.dev.farId lp), some lp, false⟩ none)) ∧
    (∀ pay, pay = (if p.payload = [] then List.replicate 24 0 else p.payload) → s.dev.farEndpoint lp = false →
      ((s.dev.grp g).kids.contains lp.val = true ∨ (s.dev.gRoot g = false ∧ s.dev.parentLp g = lp)) → s.dev.gState g = 2 →
      exec (.faultBeacon lp p) s = .next (earlyEnd u g ⟨leAt pay 0 4 / 2 ^ 24, abortStatus (bits p.opf 50 48),
        abortCode (bits p.opf 50 48), pSeq p, pay, some lp, false⟩ none))) ∧
  (∀ (g : Fin 8192) (seq chunk : Nat) (k : Chunk) (missing : List Nat) (u s : State),
    ((s.dev.grp g).chunks.find? fun k => k.seq == seq && k.chunk == chunk) = some k → s.dev.gState g = 2 →
    k.kids.length ≠ s.dev.nchild g → missing = ((s.dev.grp g).kids.filter fun lp => !k.kids.contains lp) →
    (s.dev.recordAt g = none ∧ u = s ∨ ∃ a, s.dev.recordAt g = some a ∧ s.dev.usable (a + 256) 256 = true ∧
      u = hbmPost s (a + 256) (portsBitmap missing) 2) →
    exec (.skewTimeout g seq chunk) s = .next (ownEnd (u.on fun d => d.groupTrip g k) g kSkew sGroupTimeout 2 (missing.headD 0) 0 (portsBitmap missing) none)) ∧
  (∀ (g : Fin 8192) (e : EarlyEnd) (u t : State), u.dev.gState g = 2 → e.reclaim = false → e.code < 8 → t = earlyEnd u g e none →
    t.dev.gState g = 3 ∧ (t.dev.grp g).armed = [] ∧ (t.dev.grp g).chunks = [] ∧
    t.dev.rd .colLastEnd (groupDie g) = word (e.kind * 2 ^ 28 + g.val))

/-- An EMB_LOOKUP that no earlier request of its port is held before and that fails a check of Table 10-3 is answered
with that refusal. One that passes them takes the lowest free place of its die with its reservation, the descriptor as
read and the slot found, and the next lookup starts from the next tile; HBM is unchanged. A lookup none of whose reads
waits ends and leaves its place: with its rows all read and no uncorrectable error in its slot it is answered with the
pooled row, rounded once; with such an error with UNCORR and subcode MEMORY; with rows that failed with FAULT and
subcode PAGE, or UNCORR and subcode MEMORY. -/
def Obligations.EmbeddingLookups : Prop :=
  (∀ (lp : Fin 2048) (p : Pkt) (die : Nat) (resv : Resv) (d u : Dev) (s : State), die = lpDie lp →
    s.dev.behindHeld lp p = false → s.dev.take lp p = (d, resv) →
    u = d.embParity die (pTable p) →
    (∀ n, u.lookupCheck die p = .inl n → exec (.embLookup lp p) s = .next (s.on fun _ => u.embNak lp p n die resv)) ∧
    (∀ ct slot i, u.lookupCheck die p = .inr (ct, slot) →
      ((upto 65536).find? fun i => (SMap.find? u.emb.lookups (die * 65536 + i)).isNone) = some i →
      Completes (.embLookup lp p) s fun t =>
        SMap.find? t.dev.emb.lookups (die * 65536 + i) = some ⟨lp, p, resv, u.embDesc (pTable p), ct, slot⟩ ∧
        (∀ k, k ≠ die * 65536 + i → SMap.find? t.dev.emb.lookups k = SMap.find? u.emb.lookups k) ∧
        SMap.getD t.dev.col.rr die 0 = (ct + 1) % 8 ∧ t.hbm = s.hbm)) ∧
  (∀ (die : Fin 8) (i : Nat) (bad : SlotFault) (x : Lookup) (rows : List (Nat ⊕ List Byte)) (s u : State),
    SMap.find? s.dev.emb.lookups (die * 65536 + i) = some x → s.dev.frozen die = false → gather s die x.desc x.p = (u, rows) →
    (gatherFail rows = none → bad.unc = false → exec (.lookupComplete die i bad) s = .next (u.on fun d =>
      let bytes := rows.filterMap fun r => match r with
        | .inr b => some b
        | .inl _ => none
      let pool := pooled x.desc x.p bytes
      let out := roundChunk (lookupRound x.p) pool.1 fun e => srDraw (tdSeed x.desc) (lookupSeq x.p) e
      let how : SampleHow := ⟨if pPool x.p = 3 then opMax else opSum, 64, tdDim x.desc, lookupRound x.p, tdSeed x.desc, lookupSeq x.p, 0⟩
      let d := (d.endLookup (die * 65536 + i)).corrected x.ct bad
      let d := (d.bumpN .embAddendOvf die pool.2).addsCount x.ct (pNidx x.p * tdDim x.desc)
      let d := (d.lookupSampled x.desc x.p bytes).tallyCount x.ct pool.1.length out.2
      let d := d.sampleRounded true (pTable x.p) (lookupSeq x.p) 0 how (tileOut bad out.1)
      d.embResult x (tileOut bad out.1) (pNidx x.p == 0 && (pPool x.p == 1 || pPool x.p == 3)) out.2)) ∧
    (gatherFail rows = none → bad.unc = true → exec (.lookupComplete die i bad) s = .next (u.on fun d =>
      ((((d.endLookup (die * 65536 + i)).corrected x.ct bad).poison x.ct x.slot 0).lookupUnsampled x.p).embNak x.lp x.p
        { code := 5, sub := 11 } die x.resv)) ∧
    (∀ page pos, gatherFail rows = some (page, pos) → (rows.any fun r => r == .inl cWait) = false →
      exec (.lookupComplete die i bad) s = .next (u.on fun d =>
        (((d.endLookup (die * 65536 + i)).corrected x.ct bad).lookupUnsampled x.p).embNak x.lp x.p
          { code := if page then 3 else 5, sub := if page then 8 else 11, pos := pos } die x.resv)) ∧
    ((rows.any fun r => r == .inl cWait) = false → Completes (.lookupComplete die i bad) s fun t =>
      SMap.find? t.dev.emb.lookups (die * 65536 + i) = none))

/-- Of an update that no earlier request of its port is held before: one that a check of Table 10-6 refuses is
answered with that refusal by its home die. An EMB_ADD whose pairs all find entries, none of whose accesses waits, is
staged whole, opens its batch, and is acknowledged. A COMMIT of an open batch whose staging pages are mapped starts
committing, by packet or by the ring command EMB_COMMIT; a COMMIT or DISCARD of an IDLE table is acknowledged at once;
a DISCARD clears the staging, where no stack of it pauses its writes, and ends the batch. COMMIT_DONE, none of whose
accesses waits, applies every used entry, ends the batch where none is left, and answers. -/
def Obligations.EmbeddingUpdates : Prop :=
  (∀ (lp : Fin 2048) (p : Pkt) (t₀ : Nat) (ws : List Word) (resv : Resv) (d : Dev) (s u : State), t₀ = pTable p →
    s.dev.behindHeld lp p = false → s.dev.take lp p = (d, resv) → ws = d.embDesc t₀ → u = { s with dev := d.embParity (tdHome ws) t₀ } →
    (∀ i n, i ∈ [Instr.embAdd lp p, .embUpdateCommit lp p, .embDiscard lp p] → u.dev.updCheck p = some n →
      exec i s = .next (u.on fun d => d.embNak lp p n (tdHome ws) resv)) ∧
    (∀ i, i ∈ [Instr.embUpdateCommit lp p, .embDiscard lp p] → u.dev.updCheck p = none → u.dev.batchState t₀ = 0 →
      exec i s = .next (u.on fun d => d.embAck lp p false 0 resv)) ∧
    (∀ ps pl v w z clamps, u.dev.updCheck p = none → ps = (addPairs p).getD [] → (∀ x ∈ ps, x.row < tdRows ws) →
      u.dev.embAdmit (tdHome ws) p.tenant (pPairs p) true = 0 →
      ((upto ps.length).zip ps).foldl (placePair ws) (u, {}) = (v, pl) → pl.waits = false → pl.refused = none → pl.failed = none →
      readable v ws pl.taken ps = (w, none) → ps.foldl (stageOne ws pl.taken) (w, 0) = (z, clamps) →
      exec (.embAdd lp p) s = .next (z.on fun d =>
        let d := (d.bump64 .embPairsLo .embPairsHi (tdHome ws) ps.length).bumpN .embUpdSat (tdHome ws) clamps
        ((d.setBatch t₀ 1).setEmbState t₀ 23 8 (pBatch p)).embAck lp p (clamps != 0) ps.length resv)) ∧
    (u.dev.updCheck p = none → u.dev.batchState t₀ ≠ 0 → stageMissing u ws = false →
      (Completes (.embUpdateCommit lp p) s fun t => t.dev.batchState t₀ = 2 ∧ t.hbm = s.hbm ∧
        SMap.find? t.dev.emb.commits t₀ = some ⟨lp, p, resv, none, leAt p.payload 0 4, bit (leAt p.payload 4 1) 0⟩) ∧
      (stagePaused u ws = false → exec (.embDiscard lp p) s = .next ((clearStage u ws).on fun d => (d.setBatch t₀ 0).embAck lp p false 0 resv)))) ∧
  (∀ (table : Fin 4096) (cm : EmbCommit) (x : Applied) (s u : State), SMap.find? s.dev.emb.commits table = some cm →
    s.dev.batchState table = 2 → s.dev.frozen (tdHome (s.dev.embDesc table)) = false →
    (cm.ring.any fun r => !((s.dev.ring r).run.any fun x => x.live)) = false →
    (usedEntries s (s.dev.embDesc table)).foldl (applyEntry table (s.dev.embDesc table) cm) (s, {}) = (u, x) → x.waits = false →
    exec (.commitDone table) s = .next (serve (commitAnswer ((u.on fun d =>
      if x.left = 0 then (d.setBatch table 0).bump .embCommits (tdHome (s.dev.embDesc table)) else d.setBatch table 1).on fun d =>
        d.snapBegins table) table (tdHome (s.dev.embDesc table)) cm x) (cm.ring.getD 0))) ∧
  (∀ (ring : Fin 16384) (host : HostData) (desc : List Byte) (idx t₀ : Nat) (p : Pkt) (s u : State),
    s.dev.mayStart ring = true → fetchDesc s ring host = (u, .inr desc) → idx = s.dev.nextIdx ring → s.dev.started ring = 0 →
    u.dev.descCode ring desc = 0 → dKind desc = 0x12 → t₀ = bits (dw desc 1) 11 0 →
    p = { op := 0x52, tenant := u.dev.rTenant ring, opf := t₀ * 2 ^ 52 + 2 ^ 50 + bits (dw desc 1) 31 16 * 2 ^ 32, payload := toLE 4 (dw desc 2) ++ toLE 4 (bits (dw desc 3) 0 0) } →
    u.dev.updCheck p = none → u.dev.batchState t₀ ≠ 0 → stageMissing u (u.dev.embDesc t₀) = false →
    Completes (.embCommit ring host) s fun t => t.dev.batchState t₀ = 2 ∧ t.hbm = u.hbm ∧
      SMap.find? t.dev.emb.commits t₀ = some ⟨0, p, {}, some ring, dw desc 2, bit (dw desc 3) 0⟩ ∧
      ∃ x, (t.dev.ring ring).run = some x ∧ x.idx = idx ∧ x.desc = desc ∧ x.prog = 0)

/-- A SNAPSHOT of a valid table with snap_en, not copying or mirroring, whose copied bitmap was cleared, starts
copying for its ring, or waits where a commit runs. A granule of a unit in flight that was copied and is not the last
advances the descriptor's progress by one; a granule of the mirror that was read and is not the last advances the
mirror. A RESTORE of an IDLE table with a VALID or MIRRORED snapshot starts at progress 0 with the table RESTORING,
and a unit that was read and written and is not the last advances by its bytes. PROGRESS_UNIT_DONE of a transfer,
whose unit is in flight, need not wait and has lost no stack, carries out its unit and gives the die's units their
turns. -/
def Obligations.SnapshotsAndUnits : Prop :=
  (∀ (ring : Fin 16384) (host : HostData) (desc : List Byte) (idx t₀ : Nat) (ws : List Word) (s u : State),
    s.dev.mayStart ring = true → fetchDesc s ring host = (u, .inr desc) → idx = s.dev.nextIdx ring → s.dev.started ring = 0 →
    u.dev.descCode ring desc = 0 → t₀ = bits (dw desc 1) 11 0 → ws = u.dev.embDesc t₀ → tdValid ws = true →
    (∀ v n, dKind desc = 0x10 → tdSnapEn ws = true → u.dev.snapState t₀ ∉ [1, 3] → u.dev.batchState t₀ ≠ 3 →
      SMap.find? u.dev.emb.snaps t₀ = none → n = (tdGranules ws + 7) / 8 →
      poolClear u (tdHome ws) (tdTenant ws) (bitmapAt ws 0) (n / 2 ^ 21 + 2) n = (v, 0) →
      Completes (.snapshot ring host) s fun t => t.hbm = v.hbm ∧ (∃ x, (t.dev.ring ring).run = some x ∧ x.idx = idx ∧ x.desc = desc ∧ x.prog = 0) ∧
        SMap.find? t.dev.emb.snaps t₀ = some ⟨some ring, u.dev.batchState t₀ == 2, 0⟩ ∧
        (u.dev.batchState t₀ ≠ 2 → t.dev.snapState t₀ = 1)) ∧
    (dKind desc = 0x11 → u.dev.batchState t₀ = 0 → u.dev.snapState t₀ ∈ [2, 3, 4] →
      Completes (.restore ring host) s fun t => t.hbm = u.hbm ∧ (∃ x, (t.dev.ring ring).run = some x ∧ x.idx = idx ∧ x.desc = desc ∧ x.prog = 0) ∧
        t.dev.batchState t₀ = 3)) ∧
  (∀ (table : Fin 4096) (x : Snap) (r : Nat) (run : Run) (s u : State), SMap.find? s.dev.emb.snaps table = some x →
    x.ring = some r → (s.dev.ring r).run = some run → run.live = true → x.waits = false → s.dev.runs r = true → s.dev.frozen (r / 2048) = false →
    copyGranule s (s.dev.embDesc table) run.prog = (u, 0) → u.dev.rState r = 1 →
    run.prog + 1 < tdGranules (s.dev.embDesc table) → Completes (.snapshotGranule table) s fun t =>
      (∃ y, (t.dev.ring r).run = some y ∧ y.idx = run.idx ∧ y.desc = run.desc ∧ y.prog = run.prog + 1) ∧ t.hbm = u.hbm) ∧
  (∀ (table : Fin 4096) (x : Snap) (bs : List Byte) (ws : List Word) (s u : State), SMap.find? s.dev.emb.snaps table = some x →
    x.ring = none → s.dev.snapState table = 3 → ws = s.dev.embDesc table → s.dev.frozen (tdHome ws) = false →
    poolRead s (tdHome ws) (tdTenant ws) (tdSnap ws + 65536 * x.next) (granLen ws x.next) 3 = (u, .inr bs) →
    x.next + 1 < tdGranules ws → Completes (.mirrorGranule table) s fun t =>
      SMap.find? t.dev.emb.snaps table = some { x with next := x.next + 1 } ∧ t.hbm = u.hbm) ∧
  (∀ (ring : Fin 16384) (host : HostData) (x : Run) (s : State), (s.dev.ring ring).run = some x → s.dev.runs ring = true →
    s.dev.frozen (ring / 2048) = false → x.live = true → x.dropped = false → unitPaused s ring x = false → unitGone s ring x = false →
    (dKind x.desc ≠ 0x10 → dKind x.desc ≠ 0x11 →
      exec (.progressUnitDone ring host) s = .next (serve (ringUnit s ring x host) ring)) ∧
    (∀ t₀ ws n bs u v, dKind x.desc = 0x11 → t₀ = bits (dw x.desc 1) 11 0 → ws = s.dev.embDesc t₀ → s.dev.batchState t₀ = 3 →
      n = min 4096 (tdBytes ws - x.prog) →
      poolRead s (tdHome ws) (tdTenant ws) (tdSnap ws + x.prog) n 3 = (u, .inr bs) →
      poolWrite u (tdHome ws) (tdTenant ws) (tdBase ws + x.prog) bs 3 = (v, 0) → v.dev.rState ring = 1 → x.prog + n < tdBytes ws →
      Completes (.progressUnitDone ring host) s fun t =>
        (∃ y, (t.dev.ring ring).run = some y ∧ y.idx = x.idx ∧ y.desc = x.desc ∧ y.prog = x.prog + n) ∧ t.hbm = v.hbm))

/-- Each of the seven requests, taken with the window of its head lookup. Behind a request of its port that waits, it
waits uncounted; held by an unanswered acquire, release or fence of its source, it waits and is counted in
MEM_ORD_HOLD. Otherwise it goes through the checks of Table 11-7, and where the die that answers it has room for its
answer (or holds it already): a refusal is sent as MEM_NAK from that die, with its code, subcode, hint and window; a
fence is answered at once; a read of a counter page open to its tenant answers the page's bytes; a request to a line
takes the lowest free entry of the performing die, with its address, window and order, and HBM keeps what the checks
left. Where that die has no room for the answer, or no free entry, it waits. A request that waits enters no entry and
leaves HBM as the window left it. -/
def Obligations.MemoryRequests : Prop :=
  ∀ (lp : Fin 2048) (p : Pkt) (i : Instr) (h : Handed) (s u : State),
    i ∈ [Instr.memRd lp p, .memRdNarrow lp p, .memWr lp p, .memWrNarrow lp p, .memAtomic lp p, .memRed lp p, .memFence lp p] →
    (u, h) = ({ s with dev := (s.dev.takeReq lp p).1 }, (s.dev.takeReq lp p).2) →
    ((s.dev.mem.waiting.any (fun x => x.lp == lp.val)) = true → Completes i s fun t =>
      t.dev.mem.waiting = s.dev.mem.waiting ++ [h] ∧ t.dev.mem.ents = s.dev.mem.ents ∧ t.hbm = s.hbm ∧
      t.dev.regs = u.dev.regs) ∧
    ((s.dev.mem.waiting.any (fun x => x.lp == lp.val)) = false → s.dev.memHeld h.lp h.pkt = true → h.lp = lp.val → h.pkt = p →
      Completes i s fun t =>
      t.dev.mem.waiting = s.dev.mem.waiting ++ [h] ∧ t.dev.mem.ents = s.dev.mem.ents ∧ t.hbm = s.hbm ∧
      t.dev.rdN .memOrdHold (lpDie lp) = min 0xFFFFFFFF (s.dev.rdN .memOrdHold (lpDie lp) + 1)) ∧
    ((s.dev.mem.waiting.any (fun x => x.lp == lp.val)) = false → s.dev.memHeld lp p = false → h.lp = lp.val → h.pkt = p →
      (∀ no v d r, memCheck u lp p (h.win.getD none) = (v, .inl no) → v.dev.moveResv no.die h.resv = some (d, r) →
        exec i s = .next (({ v with dev := d } : State).on fun d =>
          (d.memNakOut no.die lp p r no.code no.sub no.hint no.win).unstageReq h)) ∧
      (∀ v d r, memCheck u lp p (h.win.getD none) = (v, .inr .fence) → v.dev.moveResv (lpDie lp) h.resv = some (d, r) →
        exec i s = .next (({ v with dev := d } : State).on fun d =>
          ((d.memDone (lpDie lp) lp p.tenant).memReply (lpDie lp) lp p r {}).unstageReq h)) ∧
      (∀ pg v d r, memCheck u lp p (h.win.getD none) = (v, .inr (.page pg)) → v.dev.moveResv (lpDie lp) h.resv = some (d, r) →
        exec i s = .next (({ v with dev := d } : State).on fun d => ((d.memDone (lpDie lp) lp p.tenant).memReply (lpDie lp) lp p r
          { data := d.pageBytes pg (mAddr p % 4096) (mBytes p) }).unstageReq h)) ∧
      (∀ own peer a win nc k v d r, memCheck u lp p (h.win.getD none) = (v, .inr (.line own peer a win nc)) →
        v.dev.moveResv own h.resv = some (d, r) → d.freeEnt own = some k →
        Completes i s fun t => t.hbm = v.hbm ∧ ∃ e, SMap.find? t.dev.mem.ents k = some e ∧ e.lp = lp ∧ e.p = p ∧ e.resv = r ∧
          e.addr = a ∧ e.win = win ∧ e.peer = peer ∧ e.ord = v.dev.mem.nextOrd ∧ e.quar = false) ∧
      (∀ x v, memCheck u lp p (h.win.getD none) = (v, x) →
        (v.dev.moveResv (answersAt lp x) h.resv = none ∨
          (∃ own peer a win nc d r, x = .inr (.line own peer a win nc) ∧ v.dev.moveResv own h.resv = some (d, r) ∧
            d.freeEnt own = none)) →
        exec i s = .next (u.on fun d => { d with mem := { d.mem with waiting := d.mem.waiting ++ [h] } })))

/-- MEM_ACCESS_DONE of a run that goes to HBM on a die not frozen, with no older access of its blocks open and its
class not paused. One to a line that is not usable is refused with FAULT and subcode STACK. Of a run alone in its
line: a read of good blocks of a usable line answers the bytes at its address and HBM keeps every byte; a read that
meets an uncorrectable block is refused with UNCORR and subcode MEMORY; a whole store writes its line and no other
byte, and is answered; an atomic that is not combined writes the new value of Table 11-5 in its width and no other
byte. COMBINE_ISSUE of a line in combine mode with nothing issued issues the head of its queue with its run. -/
def Obligations.MemoryAccesses : Prop :=
  (∀ (die : Fin 8) (i k : Nat) (upset : Fin 3) (e : MemEnt) (run : List (Nat × MemEnt)) (s : State), i < 32768 →
    k = die * 32768 + i → s.dev.runOf k = run → (run.head?.map (·.2)) = some e → e.peer = none → s.dev.frozen die = false →
    s.dev.runWaits k run e = false →
    (s.dev.usable (e.addr / 64 * 64) 64 = false →
      exec (.memAccessDone die i upset) s = .next (s.on fun d => d.runNak run 3 4 0)) ∧
    (s.dev.usable (e.addr / 64 * 64) 64 = true → run = [(k, e)] → e.addr + 64 ≤ 2 ^ 41 →
      (∀ bs u, mRead e.p = true → upset = 0 → hbmRead s e.addr (mBytes e.p) 0 = (u, some bs) →
        exec (.memAccessDone die i upset) s = .next (u.on fun d =>
          d.memAnswer k { data := slice bs (e.addr - e.addr) (mBytes e.p), comb := false }) ∧ u.hbm = s.hbm ∧
        bs = hbmBytes s.hbm e.addr (mBytes e.p)) ∧
      (∀ u, mRead e.p = true → upset = 0 → hbmRead s e.addr (mBytes e.p) 0 = (u, none) →
        exec (.memAccessDone die i upset) s = .next (u.on fun d => d.runNak run 5 11 0) ∧ u.hbm = s.hbm) ∧
      (mStore e.p = true → storeMask e.p e.addr = 2 ^ 64 - 1 → e.addr % 64 = 0 → Completes (.memAccessDone die i upset) s fun t =>
          (∀ j, j < 64 → hbmByte t.hbm (e.addr + j) = (storeData e.p e.addr).getD j 0) ∧
          (∀ a, a < e.addr ∨ e.addr + 64 ≤ a → hbmByte t.hbm a = hbmByte s.hbm a)) ∧
      (∀ bs u, mAtom e.p = true → upset = 0 → hbmRead s e.addr (mWidth e.p) 1 = (u, some bs) →
        (hbmWrite u e.addr (toLE (mWidth e.p) (atomNew e.p (ofLE bs))) 1).2 = true →
        Completes (.memAccessDone die i upset) s fun t =>
          hbmBytes t.hbm e.addr (mWidth e.p) = toLE (mWidth e.p) (atomNew e.p (ofLE bs)) ∧
          (∀ a, a < e.addr ∨ e.addr + mWidth e.p ≤ a → hbmByte t.hbm a = hbmByte s.hbm a)))) ∧
  (∀ (die : Fin 8) (line : Nat) (ln : Nat × Nat × Nat) (x : Nat × MemEnt) (q : List (Nat × MemEnt)) (s : State),
    ln = (die.val, line / 2 ^ 46, line % 2 ^ 46) → s.dev.mem.hot.contains ln = true → s.dev.frozen die = false →
    (s.dev.lineEnts ln).any (fun e => e.2.run.isSome) = false → runFrom (s.dev.lineQueue ln) = x :: q → x.2.peer = none →
    Completes (.combineIssue die line) s fun t => t.hbm = s.hbm ∧
      ∀ e ∈ x :: q, ∃ f, SMap.find? t.dev.mem.ents e.1 = some f ∧ f.run = some x.1)

/-- An answer of a peer that comes for another device, with a tag of no run, from another port than the run's, or for
a run out of use, is discarded and counted in MEM_DISCARD. A MEM_NAK without payload refuses every request of its run
with its code (MALFORMED where it carries none that a MEM_NAK may), subcode and hint, and one with a payload with
MALFORMED and subcode PEER. An answer that fits a single read or store ends it with its data. MEM_PEER_TIMEOUT of an
issued entry refuses its run's open entries with LINK_DOWN and subcode TIMEOUT and quarantines them; QUARANTINE_END
frees a quarantined entry. ORDER_HOLD_RELEASE of a die with one waiting head that nothing holds any more lets it go
on. -/
def Obligations.MemoryPeers : Prop :=
  (∀ (lp : Fin 2048) (p : Pkt) (i : Instr) (die k : Nat) (run : List (Nat × MemEnt)) (u s : State),
    i ∈ [Instr.memRspData lp p, .memRspDone lp p, .memNak lp p] → die = lpDie lp → k = die * 32768 + p.tag →
    u = { s with dev := (s.dev.take lp p).1 } → run = s.dev.runOf k →
    ((p.did ≠ linkLocal ∧ p.did ≠ s.dev.selfDid die) ∨ 32768 ≤ p.tag ∨ run = [] ∨
      (∃ e t, run = e :: t ∧ e.2.peer ≠ some lp.val) ∨ run.all (fun x => x.2.quar) = true → Completes i s fun t =>
        t.dev.rdN .memDiscard die = min 0xFFFFFFFF (s.dev.rdN .memDiscard die + 1) ∧ t.dev.mem = s.dev.mem ∧ t.hbm = s.hbm) ∧
    (∀ e tl, (p.did = linkLocal ∨ p.did = s.dev.selfDid die) → p.tag < 32768 → run = (k, e) :: tl → e.peer = some lp.val →
      e.quar = false →
      (p.op = 0x2A → p.payload = [] →
        exec i s = .next (u.on fun d => d.runNak run
          (if 1 ≤ bits p.opf 63 56 ∧ bits p.opf 63 56 ≤ 9 then bits p.opf 63 56 else 8) (bits p.opf 31 28) (bits p.opf 47 32))) ∧
      (p.op = 0x2A → p.payload ≠ [] → exec i s = .next (u.on fun d => d.runNak run 8 10 0)) ∧
      (p.op ≠ 0x2A → peerFit run e = (p.op, p.payload.length) → tl = [] → mRead e.p = true →
        exec i s = .next (u.on fun d => d.memAnswer k { data := slice p.payload (e.addr - e.addr) (mBytes e.p), comb := false })) ∧
      (p.op ≠ 0x2A → peerFit run e = (p.op, p.payload.length) → mRead e.p = false → mStore e.p = true →
        exec i s = .next (u.on fun d => d.memAnswer k {})))) ∧
  (∀ (die : Fin 8) (i k : Nat) (e : MemEnt) (s : State), i < 32768 → k = die * 32768 + i → SMap.find? s.dev.mem.ents k = some e →
    (e.quar = true → Completes (.quarantineEnd die i) s fun t => SMap.find? t.dev.mem.ents k = none ∧
      (∀ j, j ≠ k → SMap.find? t.dev.mem.ents j = SMap.find? s.dev.mem.ents j) ∧ t.dev.regs = s.dev.regs ∧ t.hbm = s.hbm) ∧
    (∀ q r, e.quar = false → e.peer = some q → e.run = some r →
      exec (.memPeerTimeout die i) s = .next (s.on fun d => (d.runOf r).foldl (fun d x =>
        if x.2.quar then d else (d.bump .memPeerTo die).memQuarantine x.1 6 8) d))) ∧
  (∀ (die : Fin 8) (h : Handed) (u v : State) (s : State), s.dev.mem.waiting = [h] → lpDie h.lp = die.val →
    u = (s.on fun d => { d with mem := { d.mem with waiting := [] } }) → s.dev.memHeld h.lp h.pkt = false → memGo u h = (v, true) →
    exec (.orderHoldRelease die) s = .next (v.on fun d => d.unstageReq h))

/-- On an ACTIVE stack with scrubbing on and P3 neither paused nor held behind a waiting write there, a patrol read of
a block that was good leaves HBM as it is; where the block has come to have one erroneous symbol it is counted in
HBM_CE_CNT and written back good, where it has become uncorrectable it is counted in HBM_UE_CNT and stays
uncorrectable; the last block of a pass counts the pass; on any other stack PATROL_SCRUB changes nothing.
HBM_TEMP_READ below 105 °C, with no trip latched and no access or write-back waiting in the stack, shows the reading
and the stack's thermal level of Table 12-4, and changes no other register but the count of level changes (one more
where the level changes). -/
def Obligations.StackReadings : Prop :=
  (∀ (hs : Fin 32) (block b : Nat) (upset : Fin 3) (last : Bool) (s : State), b = hs * 2 ^ 31 + block % 2 ^ 31 →
    s.dev.stackState hs = 2 → s.dev.rdF .hbmScrubCfg hs 15 0 ≠ 0 → s.dev.usable (b * 32) 32 = true →
    s.dev.hbmWaits (b * 32) 32 3 = false → s.dev.ue.contains b = false → s.dev.ce.contains b = false →
    Completes (.patrolScrub hs block upset last) s fun t =>
      t.hbm = s.hbm ∧ t.dev.ue.contains b = (upset == 2) ∧ t.dev.ce.contains b = false ∧
      t.dev.rdN .hbmCeCnt hs = min 0xFFFFFFFF (s.dev.rdN .hbmCeCnt hs + if upset = 1 then 1 else 0) ∧
      t.dev.rdN .hbmUeCnt hs = min 0xFFFFFFFF (s.dev.rdN .hbmUeCnt hs + if upset = 2 then 1 else 0) ∧
      t.dev.rdN .hbmScrubPass hs = min 0xFFFFFFFF (s.dev.rdN .hbmScrubPass hs + if last then 1 else 0)) ∧
  (∀ (hs : Fin 32) (block : Nat) (upset : Fin 3) (last : Bool) (s : State), s.dev.stackState hs ≠ 2 →
    exec (.patrolScrub hs block upset last) s = .next s) ∧
  (∀ (hs : Fin 32) (temp : Fin 256) (s : State), temp.val < 105 → s.dev.rdB .grdStatus 0 31 = false →
    (∀ x ∈ s.dev.mem.later, x.stack ≠ hs.val) → (∀ b ∈ s.dev.ce, b / 2 ^ 31 ≠ hs.val) →
    Completes (.hbmTempRead hs temp) s fun t =>
      t.dev.rdF .hbmStatus hs 31 24 = temp ∧
      t.dev.rdF .hbmStatus hs 19 18 = thermLevel (s.dev.rdF .hbmStatus hs 19 18) temp ∧
      t.dev.stackState hs = s.dev.stackState hs ∧
      t.dev.rdN .hbmThermEvt hs = (if thermLevel (s.dev.rdF .hbmStatus hs 19 18) temp = s.dev.rdF .hbmStatus hs 19 18 then
        s.dev.rdN .hbmThermEvt hs else min 0xFFFFFFFF (s.dev.rdN .hbmThermEvt hs + 1)) ∧ t.hbm = s.hbm ∧
      SameRegsBut s t fun r i => r == .evrDropIn || (i == hs.val && (r == .hbmStatus || r == .hbmThermEvt)))

/-- An offset of a stack lies in a live pseudo-channel (one whose channel is not mapped out), by rule R321, which puts
offset 0x12345678 of a stack with channels 9 and 30 out in pseudo-channel 0 at 0x4DAC78. On a quiet device:
CHANNEL_FAIL of an ACTIVE stack at a usable offset adds its parity errors and retries to those of the channel that
serves the offset in this bell; where there are more than 16, or than HBM_CFG.retry_limit, it fences the stack with
reason CHANNEL and that channel, else the stack stays ACTIVE with every register as it was; a granted HBM_CTRL.fence
fences it with reason SOFTWARE; a granted retrain takes an ACTIVE or FENCED stack to TRAINING; each leaves HBM's
bytes, and one that takes the stack out of service makes the usable size 0 and changes no other register of another
kind but the recorder's loss count. STACK_TRAINING_DONE of a stack in TRAINING, on a READY device: with no channel out
the stack is ACTIVE with 32 channels, no channel out and no fence reason, keeps the spares reported, and every byte of
it reads 0, with no uncorrectable block; with one channel out and HBM_CFG.mapout it is ACTIVE with 31 and the
channel's bit in HBM_CH_OUT, and every byte reads 0; without mapout it is FENCED with reason TRAIN_FAIL and the
channel. -/
def Obligations.StackLifecycle : Prop :=
  (hbmPlace (2 ^ 9 + 2 ^ 30) 0x12345678 = (0, 0x4DAC78) ∧ ∀ out o, livePcs out ≠ [] → (hbmPlace out o).1 ∈ livePcs out) ∧
  (∀ (hs : Fin 32) (off parity retries ch : Nat) (s : State), Quiet s.dev → s.dev.stackState hs = 2 →
    s.dev.usable (hs * 2 ^ 36 + off % 2 ^ 36) 1 = true → ch = (hbmPlace (s.dev.rdN .hbmChOut hs) (off % 2 ^ 36)).1 / 2 →
    (16 < SMap.getD s.dev.chanErr (hs * 32 + ch) 0 + parity ∨
        s.dev.rdF .hbmCfg hs 23 16 < SMap.getD s.dev.chanRetry (hs * 32 + ch) 0 + retries →
      Completes (.channelFail hs ⟨off, parity, retries⟩) s fun t =>
        t.dev.stackState hs = 4 ∧ t.dev.rd .hbmStackSize hs = 0 ∧ t.dev.rd .hbmFenceInfo hs = word (2 * 2 ^ 8 + ch) ∧ t.hbm = s.hbm ∧
        SameRegsBut s t fun r i => r == .evrDropIn || (i == hs.val && (r == .hbmStatus || r == .hbmStackSize || r == .hbmFenceInfo))) ∧
    (SMap.getD s.dev.chanErr (hs * 32 + ch) 0 + parity ≤ 16 →
      SMap.getD s.dev.chanRetry (hs * 32 + ch) 0 + retries ≤ s.dev.rdF .hbmCfg hs 23 16 →
      Completes (.channelFail hs ⟨off, parity, retries⟩) s fun t =>
        t.dev.stackState hs = 2 ∧ SMap.getD t.dev.chanErr (hs * 32 + ch) 0 = SMap.getD s.dev.chanErr (hs * 32 + ch) 0 + parity ∧
        SMap.getD t.dev.chanRetry (hs * 32 + ch) 0 = SMap.getD s.dev.chanRetry (hs * 32 + ch) 0 + retries ∧
        t.dev.regs = s.dev.regs ∧ t.hbm = s.hbm)) ∧
  (∀ (who : Partner) (hs : Fin 32) (s : State), Quiet s.dev → s.dev.granted who (regOffset .hbmCtrl hs) = true →
    s.dev.stackState hs = 2 → Completes (.hbmFence who hs) s fun t =>
      t.dev.stackState hs = 4 ∧ t.dev.rd .hbmStackSize hs = 0 ∧ t.dev.rd .hbmFenceInfo hs = word (3 * 2 ^ 8) ∧ t.hbm = s.hbm ∧
      SameRegsBut s t fun r i => r == .evrDropIn || (i == hs.val && (r == .hbmStatus || r == .hbmStackSize || r == .hbmFenceInfo))) ∧
  (∀ (who : Partner) (hs : Fin 32) (s : State), Quiet s.dev → s.dev.granted who (regOffset .hbmCtrl hs) = true →
    s.dev.stackState hs = 2 ∨ s.dev.stackState hs = 4 → Completes (.hbmRetrain who hs) s fun t =>
      t.dev.stackState hs = 1 ∧ t.dev.rd .hbmStackSize hs = 0 ∧ t.hbm = s.hbm ∧
      SameRegsBut s t fun r i => i == hs.val && (r == .hbmStatus || r == .hbmStackSize)) ∧
  (∀ (hs channel : Fin 32) (spares : Nat) (s : State), s.dev.isReady = true → s.dev.stackState hs = 1 → spares < 2 ^ 64 →
    (Completes (.stackTrainingDone hs [] spares) s fun t =>
      t.dev.stackState hs = 2 ∧ t.dev.rd .hbmStackSize hs = 32 ∧ t.dev.rd .hbmChOut hs = 0 ∧ t.dev.rd .hbmFenceInfo hs = 0 ∧
      t.dev.rd64 .hbmSpareLo .hbmSpareHi hs = spares ∧
      (∀ a, a / 2 ^ 36 = hs.val → hbmByte t.hbm a = 0) ∧ (∀ a, a / 2 ^ 36 ≠ hs.val → hbmByte t.hbm a = hbmByte s.hbm a) ∧
      ∀ b ∈ t.dev.ue, b / 2 ^ 31 ≠ hs.val) ∧
    (Quiet s.dev → Completes (.stackTrainingDone hs [channel.val] spares) s fun t =>
      t.dev.rd64 .hbmSpareLo .hbmSpareHi hs = spares ∧
      (if s.dev.rdB .hbmCfg hs 8 then
        t.dev.stackState hs = 2 ∧ t.dev.rd .hbmStackSize hs = 31 ∧ t.dev.rd .hbmChOut hs = word (2 ^ channel.val) ∧
        (∀ a, a / 2 ^ 36 = hs.val → hbmByte t.hbm a = 0)
      else t.dev.stackState hs = 4 ∧ t.dev.rd .hbmFenceInfo hs = word (2 ^ 8 + channel) ∧ t.hbm = s.hbm)))

/-- A control command written by an enabled host, or sent in a RING_DOORBELL that the ring takes, that Table 13-3 does
not list for the ring's state (SUSPEND except in ACTIVE; RESUME except in SUSPENDED, FAULTED or ERROR with reclaimed =
0; CANCEL except in ACTIVE to FAULTED, or in ERROR with all = 1) changes nothing, but that RNG_CTRL_IGN of the die
counts it, saturating. -/
def Obligations.ControlIgnored : Prop :=
  ∀ (who : Partner) (h : Nat) (ring : Fin 16384) (lp : Fin 2048) (p : Pkt) (cmd : Nat) (all : Bool) (i : Instr) (s : State),
    (cmd = 1 ∧ s.dev.rState ring ≠ 1) ∨
      (cmd = 2 ∧ (s.dev.rReclaimed ring = true ∨ (s.dev.rState ring ≠ 3 ∧ s.dev.rState ring ≠ 4 ∧ s.dev.rState ring ≠ 6))) ∨
      (cmd = 3 ∧ (s.dev.rState ring = 0 ∨ 5 ≤ s.dev.rState ring) ∧ ¬ (s.dev.rState ring = 6 ∧ all = true)) →
    s.dev.rValid ring = true →
    ((who.host = some h ∧ s.dev.recovery = false ∧ bit (s.dev.rw ring 0) (20 + h) = true ∧
        (cmd, i) ∈ [(1, Instr.suspend who ring), (2, .resume who ring), (3, .cancel who ring all)]) ∨
      (i = .ringDoorbell lp p ∧ p.opf / 2 ^ 50 % 2 ^ 14 = ring.val ∧ bits p.opf 49 48 = 2 ∧ bits (p.opf % 2 ^ 32) 31 28 = cmd ∧
        bit (p.opf % 2 ^ 32) 0 = all ∧ (p.did = linkLocal ∨ p.did = s.dev.selfDid (lpDie lp)) ∧ s.dev.isReady = true ∧
        bit (s.dev.rw ring 0) 22 = true ∧ p.sid = s.dev.rf ring 6 19 0 ∧ p.tenant = s.dev.rTenant ring)) →
    Completes i s fun t =>
      t.dev.rdN .rngCtrlIgn (ring / 2048) = min 0xFFFFFFFF (s.dev.rdN .rngCtrlIgn (ring / 2048) + 1) ∧
      t.dev.tab = s.dev.tab ∧ t.dev.rng = s.dev.rng ∧ t.dev.col = s.dev.col ∧ t.dev.emb = s.dev.emb ∧ t.hbm = s.hbm ∧
      SameRegsBut s t fun r k => r == .rngCtrlIgn && k == ring.val / 2048

/-- From a host whose bit the valid ring's context has, an SQ word in the range of the model's startedFrom and the
ring's size keeps the tail and makes an IDLE ring that is not reclaimed, and has no record waiting, ACTIVE where it
posts something; one out of that range is counted in RNG_DB_REJECT. A CQ word in range keeps the head of a ring with
no record waiting. SUSPEND of an ACTIVE ring with work in progress makes it SUSPENDING; RESUME of a SUSPENDED, FAULTED
or ERROR ring that is not reclaimed makes it ACTIVE, takes its held work up and writes its waiting records; CANCEL
with a unit in flight makes it CANCELLING with its all bit. A word with an unknown cmd is counted in RNG_CTRL_IGN. Any
doorbell of a partner without the bit, the ring's entry not bad, is counted in RNG_DB_REJECT. A RING_DOORBELL from the
ring's endpoint acts as its word. -/
def Obligations.Doorbells : Prop :=
  (∀ (who : Partner) (ring : Fin 16384) (w : Word) (all : Bool) (i : Instr) (s : State), s.dev.recovery = false →
    i ∈ [Instr.rngDbSq who ring w, .rngDbCq who ring w, .suspend who ring, .resume who ring, .cancel who ring all, .ctrlUnknown who ring w] →
    s.dev.entBad (ring / 2048) 9 0 (ring / 2048) (ring % 2048) = false →
    (∀ h, who.host = some h → s.dev.rValid ring = false ∨ bit (s.dev.rw ring 0) (20 + h) = false) →
    Completes i s fun t => t.dev.rdN .rngDbReject (ring / 2048) = min 0xFFFFFFFF (s.dev.rdN .rngDbReject (ring / 2048) + 1) ∧
      OnlyRegs s t ∧ SameRegsBut s t fun r k => r == .rngDbReject && k == ring.val / 2048) ∧
  (∀ (who : Partner) (h : Nat) (ring : Fin 16384) (w : Word) (n : Nat) (s : State), s.dev.recovery = false → who.host = some h →
    s.dev.rValid ring = true → bit (s.dev.rw ring 0) (20 + h) = true →
    (n = idxSub (w.toNat % 2 ^ 16) (s.dev.postedFrom ring) →
      (n < s.dev.startedFrom ring ∨ 2 ^ s.dev.sqLog2 ring < n → Completes (.rngDbSq who ring w) s fun t =>
        t.dev.rdN .rngDbReject (ring / 2048) = min 0xFFFFFFFF (s.dev.rdN .rngDbReject (ring / 2048) + 1) ∧ OnlyRegs s t) ∧
      (s.dev.startedFrom ring ≤ n → n ≤ 2 ^ s.dev.sqLog2 ring → s.dev.rState ring = 0 → s.dev.rReclaimed ring = false → (s.dev.ring ring).recs = [] →
        idxSub (w.toNat % 2 ^ 16) (s.dev.sqHead ring) ≠ 0 → Completes (.rngDbSq who ring w) s fun t =>
          t.dev.sqTail ring = w.toNat % 2 ^ 16 ∧ t.dev.rState ring = 1 ∧ t.dev.sqHead ring = s.dev.sqHead ring ∧
          t.dev.regs = s.dev.regs ∧ t.hbm = s.hbm)) ∧
    (idxSub (w.toNat % 2 ^ 16) (s.dev.cqHead ring) ≤ idxSub (s.dev.cqTail ring) (s.dev.cqHead ring) → (s.dev.ring ring).recs = [] →
      Completes (.rngDbCq who ring w) s fun t => t.dev.cqHead ring = w.toNat % 2 ^ 16 ∧ t.dev.rState ring = s.dev.rState ring ∧
        t.dev.regs = s.dev.regs ∧ t.dev.rng = s.dev.rng ∧ t.hbm = s.hbm) ∧
    (s.dev.rState ring = 1 → s.dev.started ring ≠ 0 → Completes (.suspend who ring) s fun t =>
      t.dev.rState ring = 2 ∧ t.dev.rng = s.dev.rng ∧ t.dev.regs = s.dev.regs ∧ t.hbm = s.hbm) ∧
    (s.dev.rReclaimed ring = false → s.dev.rState ring = 3 ∨ s.dev.rState ring = 4 ∨ s.dev.rState ring = 6 →
      exec (.resume who ring) s = .next (settle (flushRecs (s.on fun d =>
        ((d.setRState ring 1).resumeEmb ring).beginUnit ring) ring 64) ring)) ∧
    (∀ all : Bool, s.dev.inFlight ring = true →
      Completes (.cancel who ring all) s fun t => t.dev.rState ring = 5 ∧
        t.dev.ring ring = { s.dev.ring ring with cancelAll := all } ∧ t.dev.regs = s.dev.regs ∧ t.hbm = s.hbm) ∧
    (fld w 31 28 ∉ [1, 2, 3] → Completes (.ctrlUnknown who ring w) s fun t => OnlyRegs s t ∧
      t.dev.rdN .rngCtrlIgn (ring / 2048) = min 0xFFFFFFFF (s.dev.rdN .rngCtrlIgn (ring / 2048) + 1))) ∧
  (∀ (lp : Fin 2048) (p : Pkt) (r : Nat) (u s : State), r = p.opf / 2 ^ 50 % 2 ^ 14 → u = { s with dev := (s.dev.take lp p).1 } →
    (p.did = linkLocal ∨ p.did = s.dev.selfDid (lpDie lp)) → s.dev.isReady = true → s.dev.rValid r = true →
    bit (s.dev.rw r 0) 22 = true → p.sid = s.dev.rf r 6 19 0 → p.tenant = s.dev.rTenant r →
    (bits p.opf 49 48 = 0 → exec (.ringDoorbell lp p) s = .next (ringSq u r (p.opf % 2 ^ 32))) ∧
    (bits p.opf 49 48 = 1 → exec (.ringDoorbell lp p) s = .next (ringCq u r (p.opf % 2 ^ 32))) ∧
    (bits p.opf 49 48 = 2 → exec (.ringDoorbell lp p) s = .next (ringCtrl u r (p.opf % 2 ^ 32))))

/-- A transfer descriptor (COPY not from REMOTE, FILL, CHECKSUM, TABLE_LOAD, SCRUB, and IMAGE_STAGE while the staging
area is open) that its ring may start, free of the errors of rule R351, starts at progress 0 with its length or count
not 0, and completes with OK at once where that is 0; a reserved kind completes with INVALID and code KIND, and
IMAGE_STAGE with the area closed with code STATE. A PATTERN_RUN of a pack the device has, on dies that have a Sentinel
with a slot free, starts and keeps the number of its vectors that differed. -/
def Obligations.Descriptors : Prop :=
  ∀ (ring : Fin 16384) (host : HostData) (desc : List Byte) (idx : Nat) (s u : State), s.dev.mayStart ring = true →
    fetchDesc s ring host = (u, .inr desc) → idx = s.dev.nextIdx ring → s.dev.started ring = 0 →
    (∀ i, (dKind desc, i) ∈ [(0x01, Instr.copy ring host), (0x02, .fill ring host), (0x03, .checksum ring host),
        (0x04, .tableLoad ring host), (0x05, .scrub ring host)] → u.dev.descCode ring desc = 0 →
      (dTotal desc = 0 → exec i s = .next (finish u ring idx desc sOk 0 0 0)) ∧
      (dTotal desc ≠ 0 → (dKind desc = 0x01 → dSrcSp desc ≠ 4) → Completes i s fun t =>
        (∃ x : Run, (t.dev.ring ring).run = some x ∧ x.idx = idx ∧ x.desc = desc ∧ x.prog = 0 ∧
          x.acc = if dKind desc = 0x03 then 0xFFFFFFFF else 0) ∧
        t.hbm = u.hbm ∧ t.dev.tab = u.dev.tab)) ∧
    (dKind desc = 0x30 → u.dev.descCode ring desc = 0 →
      (u.dev.stageOpen = false → exec (.imageStage ring host) s = .next (finish u ring idx desc sInvalid cState 0 0)) ∧
      (u.dev.stageOpen = true → dTotal desc ≠ 0 → Completes (.imageStage ring host) s fun t =>
        (∃ x : Run, (t.dev.ring ring).run = some x ∧ x.idx = idx ∧ x.desc = desc ∧ x.prog = 0 ∧ x.acc = 0) ∧ t.hbm = u.hbm)) ∧
    (descMask (dKind desc) = [] → exec (.invalidDescriptor ring host) s = .next (finish u ring idx desc sInvalid cKind 0 0)) ∧
    (∀ (runs : List VectorRun) (env : List (Nat × Nat)) (dies : List Nat) (pack : Nat), dKind desc = 0x31 → u.dev.descCode ring desc = 0 →
      dies = maskBits 8 (bits (dw desc 1) 23 16) → pack = bits (dw desc 1) 15 0 → (SMap.find? u.dev.sen.packs pack).isSome = true →
      dies.any (fun n => (u.dev.sentinel n).isNone || u.dev.packWaits n) = false →
      Completes (.patternRun ring host ⟨runs, env⟩) s fun t => t.dev.sen.pack = some pack ∧ t.hbm = u.hbm ∧
        ∃ x : Run, (t.dev.ring ring).run = some x ∧ x.idx = idx ∧ x.desc = desc ∧ x.prog = 0 ∧
          x.acc = (u.dev.packRun dies pack runs env).1)

/-- A MSG_PUT whose bytes the tenant's pool takes, its tenant under no reclaim, is counted in RNG_MSG_PUT, and one
that the pool refuses, or whose tenant is under reclaim, in RNG_MSG_DROP. A MSG_GET_REQ of a good length answers the
bytes, and another ABORT. A MSG_GET_RSP for no outstanding get is counted in RNG_MSG_DROP; one of the get's length
writes its unit, where its write need not wait; an aborted one, or GET_TIMEOUT, faults its unit with code REMOTE; the
die's next unit is then served. -/
def Obligations.Messages : Prop :=
  (∀ (lp : Fin 2048) (p : Pkt) (die : Nat) (u s : State), die = lpDie lp → u = { s with dev := (s.dev.take lp p).1 } →
    (s.dev.underReclaim p.tenant = true → Completes (.msgPut lp p) s fun t =>
      t.dev.rdN .rngMsgDrop die = min 0xFFFFFFFF (s.dev.rdN .rngMsgDrop die + 1) ∧ t.hbm = s.hbm) ∧
    (∀ v, s.dev.underReclaim p.tenant = false → poolWrite u die p.tenant p.opf p.payload 3 = (v, 0) →
      Completes (.msgPut lp p) s fun t =>
        t.dev.rdN .rngMsgPut die = min 0xFFFFFFFF (v.dev.rdN .rngMsgPut die + 1) ∧ t.hbm = v.hbm) ∧
    (∀ v c, s.dev.underReclaim p.tenant = false → poolWrite u die p.tenant p.opf p.payload 3 = (v, c) → c ≠ 0 → c ≠ cWait →
      Completes (.msgPut lp p) s fun t =>
        t.dev.rdN .rngMsgDrop die = min 0xFFFFFFFF (v.dev.rdN .rngMsgDrop die + 1) ∧ t.hbm = v.hbm) ∧
    (∀ n resv, resv = (s.dev.take lp p).2 → n = leAt p.payload 8 2 →
      (p.payload.length ≠ 16 ∨ n = 0 ∨ 4096 < n → exec (.msgGetReq lp p) s = .next (u.on fun d => d.answerGet die p none resv)) ∧
      (∀ v bs, p.payload.length = 16 → 0 < n → n ≤ 4096 → poolRead u die p.tenant p.opf n 3 = (v, .inr bs) →
        exec (.msgGetReq lp p) s = .next (v.on fun d => d.answerGet die p (some bs) resv)))) ∧
  (∀ (lp : Fin 2048) (p : Pkt) (abort : Bool) (k : Nat) (s : State), k = p.tag / 2 ^ 13 % 8 * 8192 + p.tag % 2 ^ 13 →
    (SMap.find? s.dev.rng.gets k = none → Completes (.msgGetRsp lp p abort) s fun t =>
      t.dev.rdN .rngMsgDrop (k / 8192) = min 0xFFFFFFFF (s.dev.rdN .rngMsgDrop (k / 8192) + 1) ∧ t.dev.rng = s.dev.rng ∧ t.hbm = s.hbm) ∧
    (∀ g x u, SMap.find? s.dev.rng.gets k = some g → (s.dev.ring g.ring).run = some x → x.get = some (k % 8192) →
      u = (s.on fun d => ((d.take lp p).1).endGet k) →
      (abort = false → p.payload.length = g.len →
        (spaceWrite u (g.ring / 2048) (dDstSp x.desc) (u.dev.rTenant g.ring) (dDst x.desc + x.prog) p.payload (u.dev.ringCls g.ring)).2 ≠ cWait →
        exec (.msgGetRsp lp p abort) s = .next (serve (unitWrite u g.ring x (dDstSp x.desc) (dDst x.desc) p.payload) g.ring)) ∧
      (abort = true ∨ p.payload.length ≠ g.len → exec (.msgGetRsp lp p abort) s = .next (serve (unitFault u g.ring cRemote) g.ring)))) ∧
  (∀ (die : Fin 8) (slot : Nat) (g : Get) (x : Run) (s : State), SMap.find? s.dev.rng.gets (die * 8192 + slot) = some g →
    (s.dev.ring g.ring).run = some x → x.get = some slot →
    exec (.getTimeout die slot) s = .next (serve (unitFault (s.on fun d => d.endGet (die * 8192 + slot)) g.ring cRemote) g.ring))

/-- A granted start for a tenant other than 0 and 0xFFFF while none runs sets busy with the tenant and no error and
waits for the bell; while one runs it sets overrun, and for a bad tenant err. At the quiesce bound open requests of
the tenant to peers are refused, at the drain bound units of its rings are abandoned, while the reclaim is not
quiesced. RECLAIM_SCRUB_DONE in phase SCRUB, class P3 of its pages' stacks not paused, ends it with its pages scrubbed
and counted. A granted release of a reclaimed tenant, no reclaim running, clears reclaimed on every valid ring of the
tenant and leaves every ring's state; any other release changes nothing. -/
def Obligations.Reclaims : Prop :=
  (∀ (who : Partner) (w : Word) (s : State), s.dev.granted who 0x200 = true → wbit w 31 = true →
    (s.dev.rdB .hubReclaimStatus 0 31 = true → Completes (.hubReclaimStart who w) s fun t =>
      t.dev.rdB .hubReclaimStatus 0 30 = true ∧ t.dev.rng = s.dev.rng ∧ OnlyRegs s t) ∧
    (s.dev.rdB .hubReclaimStatus 0 31 = false → fld w 15 0 = 0 ∨ fld w 15 0 = 0xFFFF → Completes (.hubReclaimStart who w) s fun t =>
      t.dev.rdF .hubReclaimStatus 0 29 28 = 1 ∧ t.dev.rdB .hubReclaimStatus 0 31 = false ∧ OnlyRegs s t) ∧
    (s.dev.rdB .hubReclaimStatus 0 31 = false → fld w 15 0 ≠ 0 → fld w 15 0 ≠ 0xFFFF → Completes (.hubReclaimStart who w) s fun t =>
      t.dev.rdB .hubReclaimStatus 0 31 = true ∧ t.dev.rdF .hubReclaimStatus 0 15 0 = fld w 15 0 ∧
      t.dev.rdF .hubReclaimStatus 0 29 28 = 0 ∧ t.dev.rng.reclaim = some ⟨fld w 15 0, wbit w 30, false, 0, false⟩ ∧
      t.dev.tab = s.dev.tab ∧ t.hbm = s.hbm)) ∧
  (∀ (x : Reclaim) (s : State), s.dev.rng.reclaim = some x → x.begun = true →
    (x.quiesced = false →
      exec .reclaimQuiesceBound s = .next (s.on fun d => (d.memReclaim x.tenant).reclaimTick) ∧
      exec .reclaimDrainBound s = .next (((s.dev.ringsOf x.tenant).foldl abandon s).on fun d => d.reclaimTick)) ∧
    (∀ u n, s.dev.reclaimPhase = 3 → (scrubPages s x.tenant).all (fun p => !s.dev.classPaused (p / 2 ^ 15) 3) = true →
      scrubTenant s x.tenant = (u, n) → u.dev.rng.reclaim = some x →
      Completes .reclaimScrubDone s fun t => t.dev.rng.reclaim = none ∧ t.dev.rdN .hubReclaimScrub 0 = n % 2 ^ 32 ∧
        t.dev.rdB .hubReclaimStatus 0 31 = false ∧ t.hbm = u.hbm)) ∧
  (∀ (who : Partner) (w : Word) (s : State), s.dev.granted who 0x214 = true →
    (s.dev.rng.reclaim ≠ none ∨ s.dev.rng.reclaimed.contains (fld w 15 0) = false → exec (.hubReclaimRel who w) s = .next s) ∧
    (s.dev.rng.reclaim = none → s.dev.rng.reclaimed.contains (fld w 15 0) = true → Completes (.hubReclaimRel who w) s fun t =>
      (∀ r, s.dev.rValid r = true → s.dev.rTenant r = fld w 15 0 → r < 16384 → t.dev.rReclaimed r = false) ∧
      (∀ r, t.dev.rState r = s.dev.rState r) ∧ t.dev.rng.reclaimed.contains (fld w 15 0) = false ∧
      t.dev.regs = s.dev.regs ∧ t.hbm = s.hbm))

/-- A sweep that reached the ring's peak takes an ACQUIRE ring to VERIFY with its heater setting; one that did not is
a wrong-line event: counted, and relocked from ACQUIRE, or FENCED at the third in a row. A RETUNE ring goes to VERIFY
where its stored setting finds a line and to ACQUIRE otherwise. VERIFY ends in LOCKED where the tone found is the
line's or the fibre's source shows no tones; another tone is a wrong-line event, but after a retune takes the ring to
ACQUIRE uncounted. A LOCKED ring of an ACTIVE port has its count cleared after 1 s; LOCK_LOSS takes it to ACQUIRE and
counts it. Calibration marks the Lantern calibrated, a granted unfence marks the fibre for its next retrain, and
SPARE_MAP of one of the port's positions, outside ACTIVE, gives the free facing spare that position. -/
def Obligations.LanternRings : Prop :=
  (∀ (fp : Fin 256) (dir : Fin 2) (lane : Fin 9) (peaks : Nat) (heater : Fin 65536) (ok : Bool) (tone : Option (Fin 16)) (r n : Nat) (s : State),
    r = (fp.val * 2 + dir.val) * 9 + lane.val → n = s.dev.rdF .lanLaneStatus r 17 16 + 1 →
    (s.dev.ringSt r = 1 → 16 - s.dev.rdF .lanLaneStatus r 27 24 ≤ peaks → Completes (.acquireDone fp dir lane peaks heater) s fun t =>
      t.dev.ringSt r = 3 ∧ t.dev.rdF .lanLaneStatus r 15 0 = heater.val ∧ t.dev.rdF .lanLaneStatus r 17 16 = n - 1 ∧ t.hbm = s.hbm) ∧
    (s.dev.ringSt r = 1 → peaks < 16 - s.dev.rdF .lanLaneStatus r 27 24 → Completes (.acquireDone fp dir lane peaks heater) s fun t =>
      t.dev.ringSt r = (if 3 ≤ n then 5 else 1) ∧ t.dev.rdF .lanLaneStatus r 17 16 = min 3 n ∧
      t.dev.rdN .lanWrongLine fp = min 0xFFFFFFFF (s.dev.rdN .lanWrongLine fp + 1) ∧ t.hbm = s.hbm) ∧
    (s.dev.ringSt r = 2 → Completes (.retuneDone fp dir lane ok heater) s fun t =>
      t.dev.ringSt r = (if ok then 3 else 1) ∧ t.dev.rdF .lanLaneStatus r 15 0 = heater.val ∧
      SameRegsBut s t fun q k => q == .lanLaneStatus && k == r) ∧
    (s.dev.ringSt r = 3 → ok = (!s.dev.rdB .lanElsStatus (s.dev.srcUsed fp) 27 || tone.map (·.val) == some (s.dev.rdF .lanLaneStatus r 27 24)) →
      (ok = true ∨ s.dev.lan.retuned.contains r = true → Completes (.verifyDone fp dir lane tone) s fun t =>
        t.dev.ringSt r = (if ok then 4 else 1) ∧ SameRegsBut s t fun q k => q == .lanLaneStatus && k == r) ∧
      (ok = false → s.dev.lan.retuned.contains r = false → Completes (.verifyDone fp dir lane tone) s fun t =>
        t.dev.ringSt r = (if 3 ≤ n then 5 else 1) ∧ t.dev.rdF .lanLaneStatus r 17 16 = min 3 n ∧
        t.dev.rdN .lanWrongLine fp = min 0xFFFFFFFF (s.dev.rdN .lanWrongLine fp + 1) ∧ t.hbm = s.hbm)) ∧
    (s.dev.ringSt r = 4 → s.dev.lnkState (s.dev.posLp fp (s.dev.posOf fp dir lane)) = 5 → Completes (.wrongCntReset fp dir lane) s fun t =>
      t.dev.rdF .lanLaneStatus r 17 16 = 0 ∧ t.dev.ringSt r = 4 ∧ OnlyRegs s t ∧ SameRegsBut s t fun q k => q == .lanLaneStatus && k == r) ∧
    (s.dev.ringSt r = 4 → Completes (.lockLoss fp dir lane) s fun t =>
      t.dev.ringSt r = 1 ∧ t.dev.rdN .lanLockLoss fp = min 0xFFFFFFFF (s.dev.rdN .lanLockLoss fp + 1) ∧ OnlyRegs s t)) ∧
  (∀ (l : Fin 16) (settings : List Nat) (s : State), Completes (.lanternCalibration l settings) s fun t =>
    t.dev.lan.calibrated.contains l.val = true ∧ t.dev.rdF .lanStatus l 1 0 = 1 ∧ t.hbm = s.hbm) ∧
  (∀ (who : Partner) (fp : Fin 256) (s : State), s.dev.granted who (regOffset .lanFibCtrl fp) = true →
    Completes (.lanUnfence who fp) s fun t => t.dev.lan.unfence.contains fp.val = true ∧ t.dev.regs = s.dev.regs ∧ t.hbm = s.hbm) ∧
  (∀ (lp : Fin 2048) (dir : Fin 2) (pos : Fin 8) (recSeq : Fin 256) (s : State), s.dev.lnkState lp ≠ 5 →
    (s.dev.positions lp).contains pos.val = true → s.dev.spareFree (lpFp lp) (1 - dir) = true → s.dev.migUses (lpFp lp) (1 - dir) = false →
    Completes (.spareMap lp dir pos recSeq) s fun t =>
      t.dev.sparePos (lpFp lp) (1 - dir) = pos ∧ t.hbm = s.hbm ∧
      (t.dev.port lp).txMnt = (s.dev.port lp).txMnt ++
        [(s.dev.firstLane lp, mntCell 4 (s.dev.firstLane lp) 0 (toBE 4 (5 * 2 ^ 24 + recSeq.val)))])

/-- A MIG_REQ to the spare of an ACTIVE port's position, the spare free, opens the far end's part; MIG_READY moves a
migration that asked to the state that awaits its bell; MIG_DONE marks the migration done; MIG_ABORT of the sending
side and MIG_DONE_TIMEOUT end a migration, count it and keep its position for a retry, and MIG_ABORT of the receiving
side ends that side's part. A retry whose line is still faded starts again, and a granted unspare starts the way back.
HOLD keeps its bell and duration. ELS_FAULT takes a STARTING or READY module to FAULT; a scan that does not find a
module takes it to ABSENT, one that finds an ABSENT module takes it to STARTING where its ELS_EN_N is asserted and to
DISABLED otherwise, and a scan counts its bus's errors; SOURCE_READY takes a STARTING module whose taps all read light
to READY. A monitor reading shows in its register. Loss of light takes an OPEN fibre to PROBE and counts it; a fibre
in PROBE sends its probe word; one that answers a probe opens it. -/
def Obligations.LanternFibres : Prop :=
  (∀ (lp : Fin 2048) (pos : Fin 8) (bell dur fp : Nat) (recSeq : Fin 256) (s : State), fp = lpFp lp →
    (s.dev.lnkState lp = 5 → (s.dev.positions lp).contains pos.val = true → s.dev.spareFree fp 1 = true → SMap.find? s.dev.lan.rxMig fp = none →
      Completes (.migReq lp pos bell recSeq) s fun t =>
        SMap.find? t.dev.lan.rxMig fp = some ⟨lp, pos, bell, false, false, 0, [], [], false⟩ ∧ t.hbm = s.hbm) ∧
    (∀ m, SMap.find? s.dev.lan.rxMig fp = some m → m.lp = lp.val → m.pos = pos.val → Completes (.migAbort lp ⟨0, pos, recSeq⟩) s fun t =>
      SMap.find? t.dev.lan.rxMig fp = none ∧ t.hbm = s.hbm) ∧
    (∀ m, SMap.find? s.dev.lan.mig fp = some m →
      (m.back = false → s.dev.rdF .lanFibStatus fp 18 16 = 1 → Completes (.migReady lp recSeq) s fun t =>
        t.dev.rdF .lanFibStatus fp 18 16 = 2 ∧ t.dev.lan = s.dev.lan ∧ t.hbm = s.hbm) ∧
      (Completes (.migDone lp recSeq) s fun t =>
        SMap.find? t.dev.lan.mig fp = some { m with done := true } ∧ t.dev.regs = s.dev.regs ∧ t.hbm = s.hbm) ∧
      (m.back = false → m.lp = lp.val → m.pos = pos.val → Completes (.migAbort lp ⟨1, pos, recSeq⟩) s fun t =>
        SMap.find? t.dev.lan.mig fp = none ∧ SMap.find? t.dev.lan.retry fp = some m.pos ∧ t.dev.rdF .lanFibStatus fp 18 16 = 0 ∧
        t.dev.rdN .lanMigAbort fp = min 0xFFFFFFFF (s.dev.rdN .lanMigAbort fp + 1) ∧ t.hbm = s.hbm)) ∧
    (Completes (.hold lp bell dur recSeq) s fun t => SMap.find? t.dev.lan.holds lp = some (bell, dur) ∧
      t.dev.regs = s.dev.regs ∧ t.hbm = s.hbm)) ∧
  (∀ (fp : Fin 256) (s : State),
    (∀ m, SMap.find? s.dev.lan.mig fp = some m → m.dual.isSome = true → m.done = false → m.back = false →
      Completes (.migDoneTimeout fp) s fun t =>
        SMap.find? t.dev.lan.mig fp = none ∧ SMap.find? t.dev.lan.retry fp = some m.pos ∧
        t.dev.rdN .lanMigAbort fp = min 0xFFFFFFFF (s.dev.rdN .lanMigAbort fp + 1) ∧ t.hbm = s.hbm) ∧
    (∀ pos, SMap.find? s.dev.lan.retry fp = some pos → s.dev.migCan fp pos = true →
      s.dev.rdB .lanElsFade (s.dev.srcUsed fp) (16 + pos) = true → Completes (.migRetry fp) s fun t =>
        (∃ m, SMap.find? t.dev.lan.mig fp = some m ∧ m.pos = pos ∧ m.back = false ∧ m.done = false ∧ m.dual = none) ∧
        SMap.find? t.dev.lan.retry fp = none ∧ t.dev.rdF .lanFibStatus fp 18 16 = 1 ∧ t.hbm = s.hbm) ∧
    (∀ who pos, s.dev.granted who (regOffset .lanFibCtrl fp) = true → pos = s.dev.sparePos fp 0 → pos ≠ 15 →
      SMap.find? s.dev.lan.mig fp = none → s.dev.ringSt (ringNo fp 0 pos) ≠ 5 → Completes (.lanUnspare who fp) s fun t =>
        (∃ m, SMap.find? t.dev.lan.mig fp = some m ∧ m.pos = pos ∧ m.back = true) ∧ t.dev.rdF .lanFibStatus fp 18 16 = 4 ∧ t.hbm = s.hbm) ∧
    (s.dev.eye fp = 2 → Completes (.eyeRxLoss fp) s fun t => t.dev.eye fp = 1 ∧
      t.dev.rdN .lanEyeTrip fp = min 0xFFFFFFFF (s.dev.rdN .lanEyeTrip fp + 1) ∧ SMap.find? t.dev.lan.mig fp = none ∧ t.hbm = s.hbm) ∧
    (s.dev.eye fp = 1 →
      (Completes (.probe fp) s fun t => t.dev.out = .probe fp (0xE51A0000 + b2n (s.dev.lan.seen.contains fp.val)) :: s.dev.out ∧
        t.dev.regs = s.dev.regs ∧ t.dev.lan = s.dev.lan ∧ t.hbm = s.hbm) ∧
      (∀ seen : Bool, Completes (.probeReceived fp seen) s fun t => t.dev.eye fp = (if seen then 2 else 1) ∧
        t.dev.lan.seen.contains fp.val = true ∧ t.hbm = s.hbm))) ∧
  (∀ (m : Fin 32) (s : State),
    (∀ status, s.dev.srcState m = 2 ∨ s.dev.srcState m = 3 → Completes (.elsFault m status) s fun t =>
      t.dev.srcState m = 4 ∧ t.hbm = s.hbm) ∧
    (∀ (found : Bool) (naks timeouts : Nat), Completes (.moduleAbsent ⟨m, found, naks, timeouts⟩) s fun t =>
      t.dev.srcState m = (if found = false then 0 else if s.dev.srcState m = 0 then if s.dev.lan.elsEn.contains m.val then 2 else 1
        else s.dev.srcState m) ∧
      t.dev.rdF .hubElsBusErr (m / 8) 31 16 = min 65535 (s.dev.rdF .hubElsBusErr (m / 8) 31 16 + naks) ∧
      t.dev.rdF .hubElsBusErr (m / 8) 15 0 = min 65535 (s.dev.rdF .hubElsBusErr (m / 8) 15 0 + timeouts) ∧ t.hbm = s.hbm) ∧
    (∀ tones, s.dev.srcState m = 2 → s.dev.tapsPresent m = true → Completes (.sourceReady m tones) s fun t =>
      t.dev.srcState m = 3 ∧ t.dev.rdB .lanElsStatus m 27 = tones ∧ t.hbm = s.hbm)) ∧
  (∀ (l : Fin 16) (kind : Fin 3) (i : Nat) (code : Fin 65536) (s : State), Completes (.monitorReading l kind i code) s fun t =>
    t.hbm = s.hbm ∧ (if kind.val = 0 then t.dev.rdN .lanMonSrc (l.val * 32 + i % 32)
      else if kind.val = 1 then t.dev.rdN .lanMonTx (l.val * 144 + i % 144) else t.dev.rdN .lanMonRx (l.val * 144 + i % 144)) = code.val)

/-- On a quiet device outside the Recovery Service and PROTECT, with no reset running, a granted write of
HUB_RESET_CMD that asks for no capture shows the domain, cause SOFTWARE and one reset more in HUB_RESET_STATUS and
notes the reset as running. A tile reset of a device without samples or lookups changes no other register but the
fault context; a die compute reset with no capture area counts a skipped capture; a Belfry reset shows Belfry in
reset, counts it, and loses its sessions, queue and packs; a logical port reset of an enabled DOWN port whose lanes
are locked starts its training; a fibre port reset of a fibre with no enabled port relocks every ring that is neither
DARK nor FENCED; a stack reset retrains an ACTIVE stack. Where a capture can be taken, die compute, data-path and warm
chip resets first capture, and HBM and the other registers stand. A cold reset leaves HBM empty and every register at
its reset value, but for the fence log's summary and the next record sequence, and keeps the flash, whose image region
is empty where it cut off an update that had begun to erase. Inside a reset that runs, or a data path held in PROTECT,
the request only counts in HUB_RESET_DROP. -/
def Obligations.ResetsBegin : Prop :=
  (∀ (who : Partner) (s : State), s.dev.granted who 0x310 = true → s.dev.recovery = false → s.dev.flt.running = [] →
    s.dev.protect = false → Quiet s.dev → s.dev.sen.samples = [] → s.dev.emb.lookups = [] →
    (∀ ct : Fin 64, Completes (.tileReset who ct false) s fun t =>
      t.dev.rdF .hubResetStatus 0 27 24 = 1 ∧ t.dev.rdF .hubResetStatus 0 23 16 = 0 ∧
      t.dev.rdF .hubResetStatus 0 15 0 = min 65535 (s.dev.rdF .hubResetStatus 0 15 0 + 1) ∧
      t.dev.flt.running = [⟨1, ct, 0, false, false⟩] ∧ t.hbm = s.hbm ∧
      SameRegsBut s t fun r _ => r == .hubFaultCtx || r == .hubResetStatus) ∧
    (∀ die : Fin 8, s.dev.canCapture = false → s.dev.emb.commits = [] → s.dev.emb.snaps = [] → s.dev.rng.rings = [] →
      Completes (.dieComputeReset who die false) s fun t =>
        t.dev.rdF .hubResetStatus 0 27 24 = 2 ∧ t.dev.rdF .hubResetStatus 0 23 16 = 0 ∧
        t.dev.rdF .hubCapStatus 0 23 16 = min 255 (s.dev.rdF .hubCapStatus 0 23 16 + 1) ∧
        t.dev.flt.running = [⟨2, die, 0, false, true⟩] ∧ t.hbm = s.hbm ∧
        SameRegsBut s t fun r _ => r == .hubFaultCtx || r == .hubResetStatus || r == .hubCapStatus || r == .evrDropIn) ∧
    (s.dev.rdB .hubMbxStatus 0 31 = false → s.dev.rdB .hubMbxStatus 1 31 = false → s.dev.boot.upd.isNone = true →
      Completes (.belfryReset who false) s fun t =>
        t.dev.rdF .hubResetStatus 0 27 24 = 3 ∧ t.dev.rdF .hubResetStatus 0 23 16 = 0 ∧ t.dev.rdB .hubMbxBelfry 0 31 = false ∧
        t.dev.rdB .hubMbxBelfry 0 30 = true ∧
        t.dev.rdF .hubMbxBelfry 0 15 0 = min 65535 (s.dev.rdF .hubMbxBelfry 0 15 0 + 1) ∧ t.dev.mgt.spdm = [] ∧
        t.dev.mgt.queue = [] ∧ t.dev.sen.packs = [] ∧ t.dev.flt.running = [⟨3, 0, 0, false, false⟩] ∧ t.hbm = s.hbm ∧
        SameRegsBut s t fun r _ => r == .hubFaultCtx || r == .hubResetStatus || r == .hubMbxBelfry) ∧
    (∀ lp : Fin 2048, s.dev.created lp = true → s.dev.lan.unfence.contains (lpFp lp) = false → s.dev.lnkState lp = 0 →
      s.dev.canTrain lp = true → Completes (.logicalPortReset who lp false) s fun t =>
        t.dev.rdF .hubResetStatus 0 27 24 = 4 ∧ t.dev.lnkState lp = 1 ∧ t.dev.flt.running = [⟨4, lp, 0, false, false⟩] ∧
        t.hbm = s.hbm) ∧
    (∀ fp : Fin 256, s.dev.lan.unfence.contains fp.val = false → (∀ p < 8, s.dev.lpEnabled (fp * 8 + p) = false) →
      Completes (.fibrePortReset who fp false) s fun t =>
        t.dev.rdF .hubResetStatus 0 27 24 = 5 ∧ t.dev.flt.running = [⟨5, fp, 0, false, false⟩] ∧ t.hbm = s.hbm ∧
        ∀ dir < 2, ∀ lane < 9, t.dev.ringSt (ringNo fp dir lane) = s.dev.ringSt (ringNo fp dir lane) ∧
            (s.dev.ringSt (ringNo fp dir lane) = 0 ∨ s.dev.ringSt (ringNo fp dir lane) = 5) ∨
          s.dev.ringSt (ringNo fp dir lane) ≠ 0 ∧ s.dev.ringSt (ringNo fp dir lane) ≠ 5 ∧
            (t.dev.ringSt (ringNo fp dir lane) = 1 ∨ t.dev.ringSt (ringNo fp dir lane) = 2)) ∧
    (∀ hs : Fin 32, s.dev.stackState hs = 2 → Completes (.hbmStackReset who hs false) s fun t =>
      t.dev.rdF .hubResetStatus 0 27 24 = 6 ∧ t.dev.stackState hs = 1 ∧ t.dev.rd .hbmStackSize hs = 0 ∧
      t.dev.flt.running = [⟨6, hs, 0, false, false⟩] ∧ t.hbm = s.hbm)) ∧
  (∀ (who : Partner) (s : State), s.dev.granted who 0x310 = true → s.dev.recovery = false → s.dev.flt.running = [] →
    s.dev.canCapture = true → s.dev.rdB .grdStatus 0 31 = false → s.dev.protect = false →
    ∀ p ∈ ([(2, 5, .dieComputeReset who 5 false), (7, 0, .dataPathReset who false), (8, 0, .warmChipReset who false)] :
      List (Nat × Nat × Instr)), Completes p.2.2 s fun t =>
        t.dev.rdF .hubResetStatus 0 27 24 = p.1 ∧ t.dev.rdF .hubResetStatus 0 23 16 = 0 ∧
        t.dev.flt.running = [⟨p.1, p.2.1, 0, true, false⟩] ∧ t.dev.rcd.trigger = true ∧ t.hbm = s.hbm ∧
        SameRegsBut s t fun r _ => r == .hubFaultCtx || r == .hubResetStatus) ∧
  (∀ (who : Partner) (capture : Bool) (s : State), s.dev.granted who 0x310 = true → s.dev.flt.running = [] →
    Completes (.coldReset who capture) s fun t =>
      t.hbm = [] ∧ t.pending = s.pending ∧ (t.dev.boot.flash = s.dev.boot.flash ∨
        s.dev.boot.upd.isSome = true ∧ t.dev.boot.flash = { s.dev.boot.flash with image := [] }) ∧ t.dev.sen.log = s.dev.sen.log ∧
      t.dev.time.now = 0 ∧ ∀ r i, r ≠ .hubFenceStatus → r ≠ .evrSeqNext → t.dev.rd r i = regReset r i) ∧
  (∀ (who : Partner) (ct : Fin 64) (capture : Bool) (s : State), s.dev.granted who 0x310 = true → s.dev.recovery = false →
    (∃ r ∈ s.dev.flt.running, r.dom = 2 ∧ r.target = ct.val / 8 ∨ 7 ≤ r.dom ∧ r.dom ≤ 9) ∨ s.dev.protect = true →
    Completes (.tileReset who ct capture) s fun t =>
      OnlyRegs s t ∧ t.dev.rdN .hubResetDrop 0 = min 0xFFFFFFFF (s.dev.rdN .hubResetDrop 0 + 1) ∧
      SameRegsBut s t fun r i => r == .hubResetDrop && i == 0)

/-- CAPTURE_DONE of a tile reset that captures, on a quiet device without samples or lookups, its stack serving class
P1, takes the next capture sequence number, shows the capture valid, and held where HUB_CAP_CTRL.hold stands, and
leaves the reset running with its capture taken; with no section fully written, every byte of HBM outside the first
MiB of the capture area reads as before. Where its stack does not serve that class, the capture is counted as skipped
and writes nothing. While a capture runs before a reset of a die's compute, of the data path or of the chip, the rows
of that die's engines change nothing, its rings' entries not bad. A granted HUB_CAP_CTRL.release clears valid and
held. RESET_DONE ends a tile reset that has captured, and a Belfry reset starts Belfry. ESCALATION of a running tile
reset, outside PROTECT, requests a reset of its die's compute with cause ESCALATION, which captures where it can and
contains the tile's. RESET_N of a device with no flash, with no reset running and no trip, brings the device to the
Recovery Service with fabric time 0, a warm chip reset of cause PIN running, and HBM's bytes unchanged. -/
def Obligations.ResetsEnd : Prop :=
  (∀ (ct : Fin 64) (cause : Nat) (sections : Fin 512) (s : State), s.dev.flt.running = [⟨1, ct, cause, true, false⟩] →
    Quiet s.dev → s.dev.sen.samples = [] → s.dev.emb.lookups = [] →
    (s.dev.capServed = false → Completes (.captureDone 1 ct sections) s fun t =>
      t.dev.rdF .hubCapStatus 0 23 16 = min 255 (s.dev.rdF .hubCapStatus 0 23 16 + 1) ∧ t.hbm = s.hbm ∧
      t.dev.flt.running = [⟨1, ct, cause, false, true⟩]) ∧
    (s.dev.capServed = true → Completes (.captureDone 1 ct sections) s fun t =>
      t.dev.rdF .hubCapStatus 0 15 0 = (s.dev.rdF .hubCapStatus 0 15 0 + 1) % 2 ^ 16 ∧ t.dev.rdB .hubCapStatus 0 31 = true ∧
      t.dev.rdB .hubCapStatus 0 30 = s.dev.rdB .hubCapCtrl 0 0 ∧ t.dev.flt.running = [⟨1, ct, cause, false, true⟩] ∧
      (sections = 0 → ∀ a, (a < s.dev.capBase ∨ s.dev.capBase + 0x100000 ≤ a) → hbmByte t.hbm a = hbmByte s.hbm a))) ∧
  (∀ (who : Partner) (s : State), s.dev.granted who 0x328 = true → Completes (.captureRelease who) s fun t =>
    t.dev.rdB .hubCapStatus 0 31 = false ∧ t.dev.rdB .hubCapStatus 0 30 = false ∧
    t.dev.rdF .hubCapStatus 0 23 16 = s.dev.rdF .hubCapStatus 0 23 16 ∧ t.dev.rdF .hubCapStatus 0 15 0 = s.dev.rdF .hubCapStatus 0 15 0 ∧
    OnlyRegs s t ∧ SameRegsBut s t fun r i => r == .hubCapStatus && i == 0) ∧
  (∀ (die k : Fin 8) (n line : Nat) (upset : Fin 3) (bad : SlotFault) (ct : Fin 64) (ring : Fin 16384) (host : HostData)
    (temp mv load : Nat) (runs : List VectorRun) (r : Running) (s : State), r ∈ s.dev.flt.running →
    r.capture = true → (r.dom = 2 ∧ r.target = die.val ∨ r.dom = 7 ∨ r.dom = 8) → n < 32768 → ct.val / 8 = die.val →
    ring.val / 2048 = die.val → s.dev.entBad die 9 0 die (ring % 2048) = false → ∀ i ∈ [Instr.lookupComplete die n bad, .memAccessDone die n upset, .combineIssue die line,
      .sentinelCompare die k bad temp mv load, .sentinelReplay die k bad, .idlePattern ct ⟨runs, temp, load⟩, .progressUnitDone ring host,
      .copy ring host, .fill ring host, .snapshot ring host, .collectiveDescriptor ring host], exec i s = .next s) ∧
  (∀ (ct : Fin 64) (cause : Nat) (taken : Bool) (s : State), s.dev.flt.running = [⟨1, ct, cause, false, taken⟩] →
    exec (.resetDone 1 ct) s = .next { s with dev := { s.dev with flt := { s.dev.flt with running := [] } } }) ∧
  (∀ (cause : Nat) (taken : Bool) (s : State), s.dev.flt.running = [⟨3, 0, cause, false, taken⟩] → s.dev.recovery = false →
    Completes (.resetDone 3 0) s fun t => t.dev.flt.running = [] ∧ t.dev.rdB .hubMbxBelfry 0 31 = true ∧
      t.dev.rdB .hubMbxBelfry 0 30 = false ∧ SameRegsBut s t fun r i => r == .hubMbxBelfry && i == 0) ∧
  (∀ (ct : Fin 64) (cause : Nat) (s : State), s.dev.flt.running = [⟨1, ct, cause, false, false⟩] → s.dev.canCapture = true →
    s.dev.protect = false →
    Completes (.escalation 1 ct) s fun t => t.dev.flt.running = [⟨2, ct / 8, 5, true, false⟩] ∧
      t.dev.rdF .hubResetStatus 0 27 24 = 2 ∧ t.dev.rdF .hubResetStatus 0 23 16 = 5 ∧ t.hbm = s.hbm ∧
      SameRegsBut s t fun r _ => r == .hubFaultCtx || r == .hubResetStatus) ∧
  (∀ s : State, s.dev.flt.running = [] → s.dev.rdB .grdStatus 0 31 = false → s.dev.rdB .hubFlsStatus 0 31 = false →
    s.dev.boot.flash.forced = false → Completes .resetN s fun t =>
      t.dev.recovery = true ∧ t.dev.time.now = 0 ∧ t.dev.flt.running = [⟨8, 0, 8, false, false⟩] ∧ t.hbm = s.hbm)

/-- TILE_WDT of a tile that holds a lookup, its limit on, on a device with no reset running and not in PROTECT, counts
a trip, and requests a tile reset with cause TILE_WDT. RING_WDT of a running descriptor of an ACTIVE ring with the
limit on and cancel off counts a trip and marks the descriptor tripped; nothing else of the ring changes. HEAD_STALL
of a waiting lossless head, or of a waiting memory request of VC0, with the limit on and retrain off counts a trip and
marks the head tripped. BELFRY_WDT of a running Belfry with no reset running and fewer than two earlier trips within
2^31 bells resets Belfry with cause BELFRY_WDT; the third requests a warm chip reset with cause ESCALATION, which
captures where it can. HUB_BWDT_PET by a partner that may write it changes nothing that the model holds. -/
def Obligations.Watchdogs : Prop :=
  (∀ (ct : Fin 64) (s : State), s.dev.rdF .cupWdtCfg (ct / 8) 15 0 ≠ 0 → s.dev.gathers ct = true → s.dev.flt.running = [] →
    s.dev.protect = false → Quiet s.dev → s.dev.sen.samples = [] → Completes (.tileWdt ct) s fun t =>
      t.dev.rdN .cupWdtTrip (ct / 8) = min 0xFFFFFFFF (s.dev.rdN .cupWdtTrip (ct / 8) + 1) ∧
      t.dev.rdF .hubResetStatus 0 27 24 = 1 ∧ t.dev.rdF .hubResetStatus 0 23 16 = 1 ∧ t.dev.gathers ct = false ∧
      t.dev.flt.running = [⟨1, ct, 1, false, false⟩] ∧ t.hbm = s.hbm) ∧
  (∀ (ring : Fin 16384) (x : Run) (s : State), s.dev.rdF .rngWdtCfg (ring / 2048) 15 0 ≠ 0 → s.dev.rState ring = rActive →
    (s.dev.ring ring).run = some x → x.tripped = false → s.dev.rdB .rngWdtCfg (ring / 2048) 31 = false →
    Completes (.ringWdt ring) s fun t =>
      t.dev.rdN .rngWdtTrip (ring / 2048) = min 0xFFFFFFFF (s.dev.rdN .rngWdtTrip (ring / 2048) + 1) ∧
      t.dev.ring ring = { s.dev.ring ring with run := some { x with tripped := true } } ∧ t.dev.rState ring = rActive ∧ t.hbm = s.hbm ∧
      SameRegsBut s t fun r i => r == .hubFaultCtx || r == .evrDropIn || (r == .rngWdtTrip && i == ring / 2048)) ∧
  (∀ (lp : Fin 2048) (vc : Fin 8) (pid : Nat) (h : Held) (s : State), s.dev.stalledReq lp vc = none →
    s.dev.stalledHead lp vc = some (pid, h) → s.dev.rdF .plnWdtCfg (lpPl lp) 15 0 ≠ 0 → s.dev.rdB .plnWdtCfg (lpPl lp) 31 = false → Completes (.headStall lp vc) s fun t =>
      t.dev.rdN .plnWdtTrip (lpPl lp) = min 0xFFFFFFFF (s.dev.rdN .plnWdtTrip (lpPl lp) + 1) ∧
      t.dev.held pid = some { h with tripped := true } ∧ t.hbm = s.hbm ∧
      SameRegsBut s t fun r i => r == .hubFaultCtx || r == .evrDropIn || (r == .plnWdtTrip && i == lpPl lp)) ∧
  (∀ (lp : Fin 2048) (h : Handed) (s : State), s.dev.stalledReq lp 0 = some h →
    s.dev.rdF .plnWdtCfg (lpPl lp) 15 0 ≠ 0 → s.dev.rdB .plnWdtCfg (lpPl lp) 31 = false → Completes (.headStall lp 0) s fun t =>
      t.dev.rdN .plnWdtTrip (lpPl lp) = min 0xFFFFFFFF (s.dev.rdN .plnWdtTrip (lpPl lp) + 1) ∧
      { h with tripped := true } ∈ t.dev.mem.waiting ∧ t.hbm = s.hbm ∧
      SameRegsBut s t fun r i => r == .hubFaultCtx || r == .evrDropIn || (r == .plnWdtTrip && i == lpPl lp)) ∧
  (∀ s : State, s.dev.rdF .hubBwdtCfg 0 15 0 ≠ 0 → s.dev.rdB .hubMbxBelfry 0 31 = true → s.dev.flt.running = [] →
    ((s.dev.flt.trips.filter fun b => decide (s.dev.time.bell < b + 2 ^ 31)).length < 2 → Completes .belfryWdt s fun t =>
      t.dev.rdF .hubResetStatus 0 27 24 = 3 ∧ t.dev.rdF .hubResetStatus 0 23 16 = 4 ∧ t.dev.rdB .hubMbxBelfry 0 31 = false ∧
      t.dev.rdB .hubMbxBelfry 0 30 = true ∧ t.dev.flt.running = [⟨3, 0, 4, false, false⟩] ∧
      t.dev.flt.trips = s.dev.time.bell :: s.dev.flt.trips.filter fun b => decide (s.dev.time.bell < b + 2 ^ 31)) ∧
    (2 ≤ (s.dev.flt.trips.filter fun b => decide (s.dev.time.bell < b + 2 ^ 31)).length → s.dev.canCapture = true →
      s.dev.rdB .grdStatus 0 31 = false → Completes .belfryWdt s fun t =>
        t.dev.rdF .hubResetStatus 0 27 24 = 8 ∧ t.dev.rdF .hubResetStatus 0 23 16 = 5 ∧
        t.dev.flt.running = [⟨8, 0, 5, true, false⟩] ∧ t.dev.flt.trips = [] ∧ t.hbm = s.hbm)) ∧
  (∀ (who : Partner) (s : State), s.dev.granted who 0x304 = true → exec (.hubBwdtPet who) s = .next s)

/-- SENTINEL_ROTATION gives each die's role to the die's next eligible tile, where it has one that holds no lookup,
taking it from the Sentinel so far; a die without such a tile keeps its role as it is; only CUP_STATUS changes of the
registers. A granted CUP_SEN_CTRL.rotate asks for a rotation at the next bell and changes nothing else. A granted
FENCE of a tile that is neither fenced nor decided for fencing decides it for the next bell; a granted UNFENCE queues
the removal of its log entry and shows HUB_FENCE_STATUS pending. FENCE_LOG_WRITE of a queued entry while Belfry runs
puts the tile into the flash fence log (or takes it out), clears err and shows whether entries remain and the log's
length; a failed write sets err and counts in HUB_FLS_ERR and the entry stays queued. IDLE_PATTERN with idle_en on a
serving tile with an open slot, a pack having run: a pack without vectors changes nothing; the one vector of a pack,
its runs without slot errors, decides no fencing and counts nothing where its result has the vector's CRC, and else
counts PERMANENT and decides the tile for fencing with cause PATTERN. -/
def Obligations.SentinelRole : Prop :=
(∀ s : State, Completes .sentinelRotation s fun t =>
    (∀ (die : Fin 8) (ct : Nat), s.dev.nextRole die = some ct → s.dev.gathers ct = false →
      t.dev.rdB .cupStatus ct 1 = true ∧ SMap.find? t.dev.sen.next die = none ∧
      ∀ old, s.dev.sentinel die = some old → t.dev.rdB .cupStatus old 1 = false) ∧
    (∀ die : Fin 8, s.dev.nextRole die = none → SMap.find? t.dev.sen.next die = SMap.find? s.dev.sen.next die ∧
      ∀ k < 8, t.dev.rd .cupStatus (die * 8 + k) = s.dev.rd .cupStatus (die * 8 + k)) ∧
    t.hbm = s.hbm ∧ SameRegsBut s t fun r _ => r == .cupStatus) ∧
  (∀ (who : Partner) (die : Fin 8) (s : State), s.dev.granted who (regOffset .cupSenCtrl die) = true →
    Completes (.cupSenRotate who die) s fun t =>
      t = { s with dev := { s.dev with sen := { s.dev.sen with rotate := die.val :: s.dev.sen.rotate.filter (· != die.val) } } }) ∧
(∀ (who : Partner) (ct : Fin 64) (s : State), s.dev.granted who 0x500 = true →
    (s.dev.fenced ct = false → SMap.find? s.dev.sen.fences ct = none → exec (.fenceCmd who ct) s =
      .next { s with dev := { s.dev with sen := { s.dev.sen with fences := SMap.insert ct 0 s.dev.sen.fences } } }) ∧
    (Completes (.unfenceCmd who ct) s fun t => t.dev.sen.logQueue = s.dev.sen.logQueue.filter (·.1 != ct.val) ++ [(ct.val, false)] ∧
      t.dev.rdB .hubFenceStatus 0 31 = true ∧ t.dev.fenced ct = s.dev.fenced ct ∧ t.hbm = s.hbm ∧
      SameRegsBut s t fun r i => r == .hubFenceStatus && i == 0)) ∧
  (∀ (ct : Fin 64) (add : Bool) (s : State), s.dev.sen.logQueue = [(ct.val, add)] → s.dev.rdB .hubMbxBelfry 0 30 = false →
    s.dev.sen.log.length < 64 →
    (Completes (.fenceLogWrite ct true) s fun t =>
      t.dev.sen.log = (if add then [ct.val] else []) ++ s.dev.sen.log.filter (· != ct.val) ∧ t.dev.sen.logQueue = [] ∧
      t.dev.rdB .hubFenceStatus 0 31 = false ∧ t.dev.rdB .hubFenceStatus 0 30 = false ∧
      t.dev.rdF .hubFenceStatus 0 6 0 = t.dev.sen.log.length ∧ t.hbm = s.hbm ∧
      SameRegsBut s t fun r i => r == .hubFenceStatus && i == 0) ∧
    (Completes (.fenceLogWrite ct false) s fun t =>
      t.dev.sen = s.dev.sen ∧ t.dev.rdB .hubFenceStatus 0 30 = true ∧
      t.dev.rdF .hubFlsErr 0 15 0 = min 65535 (s.dev.rdF .hubFlsErr 0 15 0 + 1) ∧ t.hbm = s.hbm ∧
      SameRegsBut s t fun r i => i == 0 && (r == .hubFenceStatus || r == .hubFlsErr))) ∧
  (∀ (ct : Fin 64) (pack temp load : Nat) (s : State), s.dev.sen.pack = some pack → s.dev.rdB .cupSenCfg (ct / 8) 10 = true →
    s.dev.serving ct = true → s.dev.openSlots ct ≠ [] → s.dev.frozen (ct / 8) = false →
    (∀ runs, s.dev.packOf pack = [] → exec (.idlePattern ct ⟨runs, temp, load⟩) s = .next s) ∧
    (∀ v, s.dev.packOf pack = [v] → Completes (.idlePattern ct ⟨[], temp, load⟩) s fun t => t.hbm = s.hbm ∧
      if crc32c v.result.1 = v.crc then t.dev.sen = s.dev.sen ∧ t.dev.rdN .cupSenPermanent (ct / 8) = s.dev.rdN .cupSenPermanent (ct / 8)
      else t.dev.rdN .cupSenPermanent (ct / 8) = min 0xFFFFFFFF (s.dev.rdN .cupSenPermanent (ct / 8) + 1) ∧
        (s.dev.fenced ct = false → SMap.find? s.dev.sen.fences ct = none → SMap.find? t.dev.sen.fences ct = some 9)))

/-- SENTINEL_COMPARE of a rounded sample whose Sentinel slot has no uncorrectable error counts it as sampled and in
the bin of temperature and load of its tile; where the Sentinel's result, recomputed from the sample's inputs, equals
the tile's bit for bit its record and the Sentinel's slot are freed; where they differ the mismatch is counted, the
slot freed, and the sample waits for replays with that bin and result. With an uncorrectable error the record and slot
are freed and the error is counted. SENTINEL_REPLAY that can run, its slot without one and the retained inputs' stack
serving class P3, adds its outcome (0 equal to O, 1 to S, 2 to neither) while fewer than three have run; three equal
to S classify TRANSIENT: counted, the record freed, a transient more in the tile's bin, and at trans_limit the tile is
decided for fencing; two equal to O and one to S classify PERMANENT: counted, the record freed and the tile decided
for fencing. REPLAY_WAIT_TIMEOUT of a sample that no tile can replay counts UNRESOLVED and frees the record. -/
def Obligations.SentinelOutcomes : Prop :=
  ∀ (die k : Fin 8) (x : Sample) (s : State), SMap.find? s.dev.sen.samples (die * 8 + k) = some x → s.dev.frozen die = false →
    (∀ (bad : SlotFault) (temp mv load : Nat) (r : List Byte), x.stage = .rounded → r = tileOut bad x.result.1 →
      (bad.unc = false → Completes (.sentinelCompare die k bad temp mv load) s fun t =>
        t.dev.slot x.sct x.slot = none ∧
        t.dev.rdN .cupSenSampled die = min 0xFFFFFFFF (s.dev.rdN .cupSenSampled die + 1) ∧
        t.dev.rdF .cupSenBin (binIdx x.ct (senBin temp load)) 31 8 =
          min (2 ^ 24 - 1) (s.dev.rdF .cupSenBin (binIdx x.ct (senBin temp load)) 31 8 + 1) ∧ t.hbm = s.hbm ∧
        (r = x.o → SMap.find? t.dev.sen.samples (die * 8 + k) = none ∧ t.dev.rdN .cupSenMismatch die = s.dev.rdN .cupSenMismatch die) ∧
        (r ≠ x.o → t.dev.rdN .cupSenMismatch die = min 0xFFFFFFFF (s.dev.rdN .cupSenMismatch die + 1) ∧
          SMap.find? t.dev.sen.samples (die * 8 + k) = some { x with stage := .replaying, bin := senBin temp load, s := r })) ∧
      (bad.unc = true → Completes (.sentinelCompare die k bad temp mv load) s fun t =>
        SMap.find? t.dev.sen.samples (die * 8 + k) = none ∧ t.dev.slot x.sct x.slot = none ∧
        t.dev.rdN .cupEccUnc x.sct = min 0xFFFFFFFF (s.dev.rdN .cupEccUnc x.sct + 1) ∧ t.hbm = s.hbm)) ∧
    (∀ (bad : SlotFault) (r : List Byte) (res : Nat), x.stage = .replaying → (s.dev.replayTile x).isSome = true → bad.unc = false →
      s.dev.classPaused (s.dev.retainAt (die * 8 + k) / 2 ^ 36) 3 = false → r = tileOut bad x.result.1 →
      res = (if r = x.o then 0 else if r = x.s then 1 else 2) →
      (x.outs.length < 2 → Completes (.sentinelReplay die k bad) s fun t =>
        SMap.find? t.dev.sen.samples (die * 8 + k) = some { x with outs := x.outs ++ [res] } ∧ t.hbm = s.hbm) ∧
      (x.outs = [1, 1] → res = 1 → Completes (.sentinelReplay die k bad) s fun t =>
        SMap.find? t.dev.sen.samples (die * 8 + k) = none ∧
        t.dev.rdN .cupSenTransient (x.ct / 8) = min 0xFFFFFFFF (s.dev.rdN .cupSenTransient (x.ct / 8) + 1) ∧
        t.dev.rdF .cupSenBin (binIdx x.ct x.bin) 7 0 = min 255 (s.dev.rdF .cupSenBin (binIdx x.ct x.bin) 7 0 + 1) ∧
        (s.dev.fenced x.ct = false → SMap.find? s.dev.sen.fences x.ct = none → SMap.find? t.dev.sen.fences x.ct =
          if s.dev.rdF .cupSenCfg (x.ct / 8) 31 24 ≤ min 255 (s.dev.rdF .cupSenBin (binIdx x.ct x.bin) 7 0 + 1) then some 7
          else none) ∧ t.hbm = s.hbm) ∧
      (x.outs = [0, 0] → res = 1 → Completes (.sentinelReplay die k bad) s fun t =>
        SMap.find? t.dev.sen.samples (die * 8 + k) = none ∧
        t.dev.rdN .cupSenPermanent (x.ct / 8) = min 0xFFFFFFFF (s.dev.rdN .cupSenPermanent (x.ct / 8) + 1) ∧
        (s.dev.fenced x.ct = false → SMap.find? s.dev.sen.fences x.ct = none → SMap.find? t.dev.sen.fences x.ct = some 7) ∧
        t.hbm = s.hbm)) ∧
    (x.stage = .replaying → (s.dev.replayTile x).isSome = false → Completes (.replayWaitTimeout die k) s fun t =>
      SMap.find? t.dev.sen.samples (die * 8 + k) = none ∧
      t.dev.rdN .cupSenUnresolved (x.ct / 8) = min 0xFFFFFFFF (s.dev.rdN .cupSenUnresolved (x.ct / 8) + 1) ∧
      t.dev.sen.fences = s.dev.sen.fences ∧ t.hbm = s.hbm)

/-- POWER_GOOD of a board without boot flash samples the straps into HUB_STRAPS and the class into GRD_STATUS, shows
SYSCLK good, leaves HBM empty and enters the Recovery Service, where only the lowest stack trains. PWR_GOOD_DEASSERT
leaves the state of a cold reset, the flash with no image where it cut off an update that had begun to erase.
SECTION_STREAM in PRELOAD with no section left enters LINKS with its joint commit started. LINKS_DIE_ENABLE in LINKS
with no commit of the boot under way takes the die's enables off the list and, where it had one, starts a commit of
the die's domain with its ports' enable staged. FIBRE_OPEN_STEP in LINKS starts probing on the die's lowest fibre that
may open, and changes nothing where none may. FORWARD_ENTRY in LINKS enters FORWARD. READY_ENTRY in FORWARD enters
READY, shows the milliseconds, and latches HUB_SUBSYS for both hosts. -/
def Obligations.StartUp : Prop :=
  (∀ (p : PowerUp) (s : State), p.flash = false → s.dev.boot.flash.forced = false → Completes (.powerGood p) s fun t =>
    t.dev.rd .hubStraps 0 = word (b2n p.provision * 2 ^ 16 + p.slot * 2 ^ 8 + p.cls) ∧ t.dev.rdF .grdStatus 0 2 0 = p.cls ∧
    t.dev.rdB .hubClkStatus 0 0 = true ∧ t.hbm = [] ∧ t.dev.recovery = true ∧ t.dev.stackState 0 = 1 ∧
    (∀ hs, 1 ≤ hs → hs < 32 → t.dev.stackState hs = 0) ∧ t.pending = s.pending) ∧
  (∀ s : State, Completes .pwrGoodDeassert s fun t =>
    t.hbm = [] ∧ (t.dev.boot.flash = s.dev.boot.flash ∨
      s.dev.boot.upd.isSome = true ∧ t.dev.boot.flash = { s.dev.boot.flash with image := [] }) ∧ t.dev.sen.log = s.dev.sen.log ∧
    t.dev.time.now = 0 ∧ t.pending = s.pending ∧
    ∀ r i, r ≠ .hubFenceStatus → r ≠ .evrSeqNext → t.dev.rd r i = regReset r i) ∧
  (∀ s : State, s.dev.phase = 3 → s.dev.boot.commit = false → s.dev.protect = false → s.dev.boot.stuck = false →
    s.dev.nextSection.isNone = true → s.dev.time.commits = [] → s.dev.configBytes = [] → Completes .sectionStream s fun t =>
      t.dev.phase = 4 ∧ t.dev.boot.commit = true ∧ t.dev.boot.phases = 3 ∧
      (∃ c, t.dev.time.commits = [c] ∧ c.mask = 0x1FF ∧ c.target = 0) ∧ t.hbm = s.hbm) ∧
  (∀ (die : Fin 8) (s : State), s.dev.phase = 4 → s.dev.boot.commit = false → Completes (.linksDieEnable die) s fun t =>
    t.dev.boot.enables = s.dev.boot.enables.filter (fun lp => lpDie lp != die.val) ∧ t.hbm = s.hbm ∧
    (s.dev.time.commits = [] → (s.dev.boot.enables.any fun lp => lpDie lp == die.val) = true →
      ∃ c, t.dev.time.commits = [c] ∧ c.mask = 2 ^ (1 + die.val) ∧ c.target = 0) ∧
    ((s.dev.boot.enables.any fun lp => lpDie lp == die.val) = false → t.dev.regs = s.dev.regs ∧ t.dev.time = s.dev.time)) ∧
  (∀ (die : Fin 8) (s : State), s.dev.phase = 4 → Completes (.fibreOpenStep die) s fun t =>
    (∀ fp, ((upto 32).map (die.val * 32 + ·)).find? s.dev.canOpen = some fp → t.dev.eye fp = 1) ∧
    (((upto 32).map (die.val * 32 + ·)).find? s.dev.canOpen = none → t = s) ∧ t.hbm = s.hbm) ∧
  (∀ s : State, s.dev.phase = 4 → Completes .forwardEntry s fun t => t.dev.phase = 5 ∧ t.hbm = s.hbm) ∧
  (∀ (ms : Nat) (s : State), s.dev.phase = 5 → Completes (.readyEntry ms) s fun t =>
    t.dev.isReady = true ∧ t.dev.rdF .secBootStatus 0 11 0 = min 4095 ms ∧ t.dev.hostA.subsys = s.dev.rdN .hubSubsys 0 ∧
    t.dev.hostB.subsys = s.dev.rdN .hubSubsys 0 ∧ t.hbm = s.hbm)

/-- A granted VERIFY, VERIFY_WRITE or PROVISION of 1 to 2^27 bytes with no operation running starts it: SEC_UPD_STATUS
shows it running with result and progress 0. While one runs, each of the four commands only sets overrun. A granted
RECOVER_NEXT asks for the Recovery Service at the next boot with result 0. UPDATE_DONE of an operation whose reads of
the staged bytes need not wait ends with STAGE_READ where they fail; of VERIFY or VERIFY_WRITE of staged bytes without
the image's magic with HEADER, and of PROVISION without the record's magic with TOKEN; the flash stays as it is. -/
def Obligations.UpdateCommands : Prop :=
  (∀ (who : Partner) (len : Nat) (s : State), s.dev.granted who 0x90028 = true →
    (s.dev.boot.upd.isNone = true → 1 ≤ len → len ≤ 2 ^ 27 →
      ∀ p ∈ ([(1, .verify who len), (2, .verifyWrite who len), (3, .provision who len)] : List (Nat × Instr)),
        Completes p.2 s fun t => t.dev.boot.upd = some ⟨p.1, len⟩ ∧ t.dev.rdB .secUpdStatus 0 31 = true ∧
          t.dev.rdF .secUpdStatus 0 19 16 = 0 ∧ t.dev.rdF .secUpdStatus 0 15 0 = 0 ∧ t.dev.boot.flash = s.dev.boot.flash ∧
          t.hbm = s.hbm ∧ SameRegsBut s t fun r i => r == .secUpdStatus && i == 0) ∧
    (s.dev.boot.upd.isSome = true →
      ∀ i ∈ ([.verify who len, .verifyWrite who len, .provision who len, .recoverNext who] : List Instr),
        Completes i s fun t => OnlyRegs s t ∧ t.dev.rdB .secUpdStatus 0 30 = true ∧
          (∀ b, b < 32 → b ≠ 30 → t.dev.rdB .secUpdStatus 0 b = s.dev.rdB .secUpdStatus 0 b) ∧
          SameRegsBut s t fun r i => r == .secUpdStatus && i == 0) ∧
    (s.dev.boot.upd.isNone = true → Completes (.recoverNext who) s fun t =>
      t.dev.boot.flash = { s.dev.boot.flash with forced := true } ∧ t.dev.rdF .secUpdStatus 0 19 16 = 0 ∧ t.hbm = s.hbm ∧
      SameRegsBut s t fun r i => r == .secUpdStatus && i == 0)) ∧
  (∀ (fail : Bool) (op len : Nat) (s : State), s.dev.boot.upd = some ⟨op, len⟩ → s.dev.stageWaits len = false →
    ((stagedBytes s len).2 = none → Completes (.updateDone fail) s fun t =>
      t.dev.boot.upd = none ∧ t.dev.rdB .secUpdStatus 0 31 = false ∧ t.dev.rdF .secUpdStatus 0 19 16 = 10 ∧
      t.dev.boot.flash = s.dev.boot.flash ∧ t.hbm = (stagedBytes s len).1.hbm) ∧
    (∀ bs, (stagedBytes s len).2 = some bs →
      (op = 1 ∨ op = 2 → leAt bs 0 4 ≠ 0x4B414D44 → Completes (.updateDone fail) s fun t =>
        t.dev.boot.upd = none ∧ t.dev.rdB .secUpdStatus 0 31 = false ∧ t.dev.rdF .secUpdStatus 0 19 16 = 1 ∧
        t.dev.boot.flash = s.dev.boot.flash ∧ t.hbm = (stagedBytes s len).1.hbm) ∧
      (op = 3 → leAt bs 0 4 ≠ 0x50524F56 → Completes (.updateDone fail) s fun t =>
        t.dev.boot.upd = none ∧ t.dev.rdB .secUpdStatus 0 31 = false ∧ t.dev.rdF .secUpdStatus 0 19 16 = 14 ∧
        t.dev.boot.flash = s.dev.boot.flash ∧ t.hbm = (stagedBytes s len).1.hbm)))

/-- A MGMT_MCTP for Belfry joins its queue and is counted where fewer than 256 wait, and is dropped and counted else.
A host's write of its half's HUB_MBX_CMD with go, the half not busy, makes it busy where Belfry serves, the length is
1 to 4096 and the message type 0x00, 0x01 or 0x7E, and ends the exchange with NOT_READY where Belfry is held in reset.
MBX_RESPONSE of a busy half with its interrupt off puts the message into the response buffer and ends with OK and the
length; MBX_TIMEOUT ends with TIMEOUT. MCTP control is answered, with NOT_READY during ROM; PLDM is answered
Unspecified over DOE and in band, NOT_READY during ROM and Recovery, served from READY and for sensors before it. A
vendor-defined message is answered NOT_READY during ROM and Recovery; a register write over DOE in an established
operator session acts as Belfry's write of that register and is answered; without such a session it is refused and
changes nothing. -/
def Obligations.MailboxAndMessages : Prop :=
  (∀ (lp : Fin 2048) (p : Pkt) (s : State), Completes (.mgmtMctp lp p) s fun t => t.hbm = s.hbm ∧
    (s.dev.mgt.queue.length < 256 → t.dev.mgt.queue = s.dev.mgt.queue ++ [(lp.val, p)] ∧
      t.dev.rdN .hubMbxMctpRx 0 = min 0xFFFFFFFF (s.dev.rdN .hubMbxMctpRx 0 + 1)) ∧
    (256 ≤ s.dev.mgt.queue.length → t.dev.mgt.queue = s.dev.mgt.queue ∧
      t.dev.rdN .hubMbxMctpDrop 0 = min 0xFFFFFFFF (s.dev.rdN .hubMbxMctpDrop 0 + 1))) ∧
  (∀ (who : Partner) (half : Fin 2) (w : Word) (s : State), who.host = some half.val → s.dev.protect = false →
    s.dev.recovery = false → s.dev.link.lost = [] → w.toNat / 2 ^ 31 = 1 → s.dev.rdB .hubMbxStatus half 31 = false →
    (s.dev.rdB .hubMbxBelfry 0 30 = false → s.dev.phase ≠ 0 → 1 ≤ w.toNat % 2 ^ 13 → w.toNat % 2 ^ 13 ≤ 4096 →
      s.dev.rdF .hubMbxReq (half * 1024) 7 0 ∈ [0x00, 0x01, 0x7E] → Completes (.hubMbxCmd who half w) s fun t =>
        t.dev.rdB .hubMbxStatus half 31 = true ∧ t.hbm = s.hbm ∧
        SameRegsBut s t fun r i => i == half.val && (r == .hubMbxStatus || r == .hubMbxCmd)) ∧
    (s.dev.rdB .hubMbxBelfry 0 30 = true → s.dev.rdB .hubMbxIrq half 31 = false → Completes (.hubMbxCmd who half w) s fun t =>
      t.dev.rdB .hubMbxStatus half 31 = false ∧ t.dev.rdB .hubMbxStatus half 30 = true ∧
      t.dev.rdF .hubMbxStatus half 26 24 = 1 ∧ t.hbm = s.hbm ∧
      SameRegsBut s t fun r i => i == half.val && (r == .hubMbxStatus || r == .hubMbxCmd))) ∧
  (∀ (half : Fin 2) (s : State), s.dev.rdB .hubMbxStatus half 31 = true → s.dev.rdB .hubMbxIrq half 31 = false →
    (∀ msg : List Byte, msg.length ≤ 4096 → s.dev.belfryHeld = false → Completes (.mbxResponse half msg) s fun t =>
      t.dev.rdB .hubMbxStatus half 31 = false ∧ t.dev.rdB .hubMbxStatus half 30 = true ∧
      t.dev.rdF .hubMbxStatus half 26 24 = 0 ∧ t.dev.rdF .hubMbxStatus half 12 0 = msg.length ∧
      (∀ w, w * 4 < msg.length → t.dev.rd .hubMbxRsp (half * 1024 + w) = word (leAt msg (4 * w) 4)) ∧ t.hbm = s.hbm ∧
      SameRegsBut s t fun r i => (r == .hubMbxStatus && i == half.val) || (r == .hubMbxRsp && i / 1024 == half.val)) ∧
    (Completes (.mbxTimeout half) s fun t =>
      t.dev.rdB .hubMbxStatus half 31 = false ∧ t.dev.rdB .hubMbxStatus half 30 = true ∧
      t.dev.rdF .hubMbxStatus half 26 24 = 5 ∧ t.dev.rdF .hubMbxStatus half 12 0 = 0 ∧ t.hbm = s.hbm ∧
      SameRegsBut s t fun r i => r == .hubMbxStatus && i == half.val)) ∧
  (∀ (ch : Channel) (s : State), s.dev.chanReady ch = true →
    (Completes (.mctpControl ch) s fun t => Answered s t ch (if s.dev.phase = 0 then 4 else 0)) ∧
    (∀ sensor : Bool, Completes (.pldmRequest ch sensor) s fun t =>
      ((∃ h, ch = .doe h) ∨ ch = .inband → Answered s t ch 1) ∧
      ((∃ h, ch = .mailbox h) ∨ (∃ b, ch = .i3c b) → Answered s t ch (if s.dev.phase = 0 ∨ s.dev.phase = 7 then 4
        else if s.dev.phase = 6 ∨ sensor = true then 0 else 4))) ∧
    (∀ ops : List VdmOp, s.dev.phase = 0 ∨ s.dev.phase = 7 → Completes (.vendorDefinedMessage ch ops) s fun t => Answered s t ch 4)) ∧
  (∀ (h : Fin 2) (off : Nat) (v : Word) (s : State), s.dev.chanReady (.doe h) = true → s.dev.phase ≠ 0 → s.dev.phase ≠ 7 →
    ((s.dev.spdm (.doe h)).session = 2 → (s.dev.spdm (.doe h)).operator = true →
      exec (.vendorDefinedMessage (.doe h) [.write off v]) s =
        .next ((writeAt s .belfry off v).on fun d => { d with out := .mgmt (.doe h) 0 [] [] :: d.out })) ∧
    ((s.dev.spdm (.doe h)).session ≠ 2 → Completes (.vendorDefinedMessage (.doe h) [.write off v]) s fun t =>
      t = { s with dev := { s.dev with out := .mgmt (.doe h) 5 [] [] :: s.dev.out } }))

/-- On the mailbox SPDM requests have no effect. On another channel that reaches Belfry: during ROM GET_VERSION is
answered Busy; after it GET_VERSION starts the connection anew, GET_CAPABILITIES and NEGOTIATE_ALGORITHMS follow in
that order and are answered unexpected else, and unsupported algorithms Unspecified. After the negotiation: a request
for a slot other than 0 is answered Unspecified; GET_DIGESTS, and with no id_fault GET_CERTIFICATE, CHALLENGE and
KEY_EXCHANGE, are served; KEY_EXCHANGE begins a session that a verified FINISH completes, with the requester's rights;
in an established session HEARTBEAT and KEY_UPDATE are served and keep it, END_SESSION ends it; measurement 8 is the
SHA-512 of the operator key, index 10 and above is Unspecified. -/
def Obligations.SpdmSessions : Prop :=
  (∀ (h : Fin 2) (s : State), ∀ i ∈ ([.getVersion (.mailbox h), .getCapabilities (.mailbox h), .challenge (.mailbox h) 0,
    .keyExchange (.mailbox h), .finish (.mailbox h) true true, .heartbeat (.mailbox h)] : List Instr), exec i s = .next s) ∧
  (∀ (ch : Channel) (s : State), s.dev.chanReady ch = true → (∀ h, ch ≠ .mailbox h) →
    (s.dev.phase = 0 → Completes (.getVersion ch) s fun t => Answered s t ch 2) ∧
    (s.dev.phase ≠ 0 →
      (Completes (.getVersion ch) s fun t => Answered s t ch 0 ∧ t.dev.spdm ch = { step := 1 }) ∧
      (Completes (.getCapabilities ch) s fun t => if (s.dev.spdm ch).step = 1 then Answered s t ch 0 ∧ t.dev.spdm ch = { step := 2 }
        else Answered s t ch 3 ∧ t.dev.spdm ch = s.dev.spdm ch) ∧
      (∀ ok : Bool, Completes (.negotiateAlgorithms ch ok) s fun t => if (s.dev.spdm ch).step = 2 then
          (if ok then Answered s t ch 0 ∧ t.dev.spdm ch = { step := 3 } else Answered s t ch 1 ∧ t.dev.spdm ch = s.dev.spdm ch)
        else Answered s t ch 3 ∧ t.dev.spdm ch = s.dev.spdm ch) ∧
      ((s.dev.spdm ch).step = 3 →
        (∀ (i : Instr) (slot : Nat), i ∈ [Instr.getDigests ch slot, .getCertificate ch slot, .challenge ch slot] →
          Completes i s fun t => t.dev.spdm ch = s.dev.spdm ch ∧
            (slot ≠ 0 → Answered s t ch 1) ∧
            (slot = 0 → s.dev.rdB .secStatus 0 7 = false → Answered s t ch 0)) ∧
        (Completes (.getMeasurements ch 8) s fun t => t.dev.out = .mgmt ch 0 [] (sha512 s.dev.boot.opKey) :: s.dev.out) ∧
        (∀ n, 10 ≤ n → Completes (.getMeasurements ch n) s fun t => Answered s t ch 1) ∧
        (s.dev.rdB .secStatus 0 7 = false → Completes (.keyExchange ch) s fun t => Answered s t ch 0 ∧
          t.dev.spdm ch = { step := 3, session := 1 }) ∧
        ((s.dev.spdm ch).session = 1 → ∀ op : Bool, Completes (.finish ch true op) s fun t => Answered s t ch 0 ∧
          t.dev.spdm ch = { step := 3, session := 2, operator := op }) ∧
        ((s.dev.spdm ch).session ≠ 1 → ∀ ok op : Bool, Completes (.finish ch ok op) s fun t => Answered s t ch 3 ∧
          t.dev.spdm ch = s.dev.spdm ch) ∧
        ((s.dev.spdm ch).session = 2 →
          (Completes (.heartbeat ch) s fun t => Answered s t ch 0 ∧ t.dev.spdm ch = s.dev.spdm ch) ∧
          (Completes (.keyUpdate ch) s fun t => Answered s t ch 0 ∧ t.dev.spdm ch = s.dev.spdm ch) ∧
          (Completes (.endSession ch) s fun t => Answered s t ch 0 ∧ t.dev.spdm ch = { step := 3 })))))

/-- UNIT_WAKE of a unit that is not fully on (no fenced tile, no stack out of service) begins its exit to the on
state, marks it used in its tolerance window and ends its idle count, and changes nothing else. UNIT_EXIT_DONE of a
unit in an exit leaves it in the exit's state with no exit under way; a stack in self-refresh whose interface does not
retrain, on a quiet device, is FENCED with reason TRAIN_FAIL. A LAT_TOL that arrives link-local on an ACTIVE native
port sets the port's lane tolerance and its service tolerance as its valid bits say; on a port that is not ACTIVE it
sets none. -/
def Obligations.PowerUnits : Prop :=
  (∀ (unit : PwrUnit) (s : State), s.dev.pwrState (unitNo unit) ≠ 0 → (∀ ct, unit = .tile ct → s.dev.fenced ct = false) →
    (∀ hs, unit = .stack hs → s.dev.stackManaged hs = true) → exec (.unitWake unit) s =
      .next { s with dev := { s.dev with pwr := { s.dev.pwr with idle := SMap.erase s.dev.pwr.idle (unitNo unit), seen := SMap.insert (unitNo unit) 1 s.dev.pwr.seen, exits := SMap.insert (unitNo unit) 0 s.dev.pwr.exits } } }) ∧
  (∀ (unit : PwrUnit) (st : Nat) (ok : Bool) (s : State), SMap.find? s.dev.pwr.exits (unitNo unit) = some st →
    ((∀ hs, unit = .stack hs → s.dev.stackState hs ≠ 3 ∨ ok = true) → Completes (.unitExitDone unit ok) s fun t =>
      t.dev.pwrState (unitNo unit) = st ∧ SMap.find? t.dev.pwr.exits (unitNo unit) = none ∧ t.hbm = s.hbm ∧
      (∀ hs, unit = .stack hs → t.dev.stackState hs = if st = 2 then 3 else 2) ∧
      SameRegsBut s t fun r i => r == .hbmStatus && unitNo unit == 2120 + i) ∧
    (∀ hs, unit = .stack hs → s.dev.stackState hs = 3 → Quiet s.dev → Completes (.unitExitDone unit false) s fun t =>
      t.dev.stackState hs = 4 ∧ t.dev.rd .hbmFenceInfo hs = word (2 ^ 8) ∧ t.dev.rd .hbmStackSize hs = 0 ∧ t.hbm = s.hbm)) ∧
  (∀ (lp : Fin 2048) (p : Pkt) (s : State),
    (s.dev.nativeActive lp = true → p.did = linkLocal → Completes (.latTol lp p) s fun t =>
      (bit p.opf 63 = true → SMap.find? t.dev.pwr.laneTol lp = some (p.opf % 2 ^ 32)) ∧
      (bit p.opf 63 = false → t.dev.pwr.laneTol = s.dev.pwr.laneTol) ∧
      (bit p.opf 62 = true → SMap.find? t.dev.pwr.svcTol lp = some (p.opf % 2 ^ 32)) ∧
      (bit p.opf 62 = false → t.dev.pwr.svcTol = s.dev.pwr.svcTol) ∧ t.dev.regs = s.dev.regs ∧ t.hbm = s.hbm) ∧
    (s.dev.nativeActive lp = false → Completes (.latTol lp p) s fun t =>
      t.dev.pwr = s.dev.pwr ∧ t.dev.regs = s.dev.regs ∧ t.hbm = s.hbm))

/-- A reading of a rail within 10 % shows its voltage and changes nothing else. A switch-die, Lantern or board
sensor's reading below its trip level, with no trip latched, shows in PWR_SENSOR with the highest reading so far and
changes no other register. A reading at or above its trip level, a reading of a rail more than 10 % off its nominal
voltage, and a lost SYSCLK, outside PROTECT, latch the trip, enter PROTECT, count the trip and reset the data path (no
packet is left), and leave HBM's bytes; the rail's fault is latched with its voltage, a lost SYSCLK shows in
HUB_CLK_STATUS. -/
def Obligations.ThermalProtection : Prop :=
  (∀ (k : Fin 96) (temp : Int) (s : State), temp < tripLevel k → s.dev.rdB .grdStatus 0 31 = false →
    Completes (.thermalSensorRead k temp) s fun t =>
      t.dev.rd .pwrSensor k = word (tempCode (max (toSigned 8 (s.dev.rdF .pwrSensor k 15 8)) temp) * 2 ^ 8 + tempCode temp) ∧
      OnlyRegs s t ∧ SameRegsBut s t fun r i => r == .pwrSensor && i == k.val) ∧
  (∀ s : State, s.dev.protect = false →
    (∀ (k : Fin 96) (temp : Int), tripLevel k ≤ temp → Completes (.thermalSensorRead k temp) s fun t =>
      t.dev.protect = true ∧ t.dev.rdB .grdStatus 0 31 = true ∧ t.dev.rdB .grdStatus 0 30 = true ∧
      t.dev.rdN .pwrTripCnt 0 = min 0xFFFFFFFF (s.dev.rdN .pwrTripCnt 0 + 1) ∧ t.dev.keep.pkts = [] ∧ t.hbm = s.hbm) ∧
    (∀ (r : Fin 42) (mv : Fin 65536), s.dev.railNominal r * 9 ≤ mv * 10 → mv * 10 ≤ s.dev.railNominal r * 11 →
      Completes (.railFault r mv) s fun t => t.dev.rdF .pwrRail r 15 0 = mv.val ∧ t.dev.rdB .pwrRail r 31 = s.dev.rdB .pwrRail r 31 ∧
        OnlyRegs s t ∧ SameRegsBut s t fun q i => q == .pwrRail && i == r.val) ∧
    (∀ (r : Fin 42) (mv : Fin 65536), mv * 10 < s.dev.railNominal r * 9 ∨ s.dev.railNominal r * 11 < mv * 10 →
      Completes (.railFault r mv) s fun t =>
      t.dev.rd .pwrRail r = word (2 ^ 31 + mv) ∧
      t.dev.protect = true ∧ t.dev.rdB .grdStatus 0 31 = true ∧ t.dev.rdB .grdStatus 0 30 = true ∧
      t.dev.rdN .pwrTripCnt 0 = min 0xFFFFFFFF (s.dev.rdN .pwrTripCnt 0 + 1) ∧ t.dev.keep.pkts = [] ∧ t.hbm = s.hbm) ∧
    (Completes .sysclkLost s fun t =>
      t.dev.rdB .hubClkStatus 0 1 = true ∧ t.dev.rdB .hubClkStatus 0 0 = false ∧
      t.dev.protect = true ∧ t.dev.rdB .grdStatus 0 31 = true ∧ t.dev.rdB .grdStatus 0 30 = true ∧
      t.dev.rdN .pwrTripCnt 0 = min 0xFFFFFFFF (s.dev.rdN .pwrTripCnt 0 + 1) ∧ t.dev.keep.pkts = [] ∧ t.hbm = s.hbm))

/-- A read of a width other than four bytes, or not aligned, gives 0, and a write of one changes nothing. READ_CLEAR
and LOW_HALF_READ at an aligned offset that decodes and names no register complete with 0 and change nothing else. A
read of a register that its reader has no latched value of completes with the value it shows, but for its RSV bits,
which are free; its RC bits, and nothing else of the registers, are then 0. A read of the low half of a 64-bit value
latches for its reader the high half as it stands; a read that finds a latched value completes with it and uses it up.
A granted write of a register with no command behind it puts its RW bits, clears the W1C bits written 1 (of
HUB_OWN_STATUS a host clears only its own two), keeps every other bit in force, and stages its STG bits in the shadow,
where a commit finds them; no other register changes. A write of TIM_STEP_LO or TIM_CMT_TGT_LO is held and changes no
register; the write of its high half puts both halves in force. A write to a hole by a partner that may write controls
changes nothing; a host that does not hold ownership changes nothing but its violation registers. -/
def Obligations.RegisterReads : Prop :=
  (∀ (who : Partner) (s : State),
    (∀ off width v, width ≠ 4 ∨ off % 4 ≠ 0 → exec (.registerWrite who ⟨off, width⟩ v) s = .next s ∧
      ∀ i ∈ ([.readClear who ⟨off, width⟩, .lowHalfRead who ⟨off, width⟩] : List Instr),
        exec i s = .next { s with dev := { s.dev with out := .read who off 0 :: s.dev.out } }) ∧
    (∀ off, off < 2 ^ 26 → off % 4 = 0 → s.dev.decodes who off = true → regAt off = none →
      ∀ i ∈ ([.readClear who ⟨off, 4⟩, .lowHalfRead who ⟨off, 4⟩] : List Instr),
        exec i s = .next { s with dev := { s.dev with out := .read who off 0 :: s.dev.out } }) ∧
    (∀ (off i : Nat) (e : RegDef), off < 2 ^ 26 → off % 4 = 0 → s.dev.decodes who off = true → regAt off = some (e, i) →
      SMap.find? s.dev.latch (latchKey who (rk e.reg i)) = none →
      ∀ c ∈ ([.readClear who ⟨off, 4⟩, .lowHalfRead who ⟨off, 4⟩] : List Instr), Completes c s fun t =>
        (∃ v, t.dev.out = .read who off v :: s.dev.out ∧ v &&& ~~~(rsvMask e) = s.dev.view who e.reg i &&& ~~~(rsvMask e)) ∧
        t.dev.rd e.reg i = s.dev.rd e.reg i &&& ~~~(word e.rc) ∧ t.hbm = s.hbm ∧
        (∀ h, highHalf e.reg = some h → e.reg ≠ .timNowSecLo → e.reg ≠ .timPpsSecLo → e.reg ≠ .ocuCntLo →
          SMap.find? t.dev.latch (latchKey who (rk h i)) = some (s.dev.view who h i)) ∧
        SameRegsBut s t fun r j => r == e.reg && j == i) ∧
    (∀ (off i : Nat) (e : RegDef) (w : Word), off < 2 ^ 26 → off % 4 = 0 → s.dev.decodes who off = true → regAt off = some (e, i) →
      SMap.find? s.dev.latch (latchKey who (rk e.reg i)) = some w →
      ∀ c ∈ ([.readClear who ⟨off, 4⟩, .lowHalfRead who ⟨off, 4⟩] : List Instr), Completes c s fun t =>
        (∃ v, t.dev.out = .read who off v :: s.dev.out ∧ v &&& ~~~(rsvMask e) = w &&& ~~~(rsvMask e)) ∧
        SMap.find? t.dev.latch (latchKey who (rk e.reg i)) = none ∧ t.hbm = s.hbm)) ∧
(∀ (who : Partner) (v : Word) (s : State), s.dev.link.lost = [] →
    ∀ r ∈ ([.evrCfg, .timBellCfg, .hubBwdtCfg, .pwrThrCfg, .hubOwnStatus, .timHoldCfg, .hubCapBaseLo] : List Reg),
      ∀ e w, rowOf r = some e → s.dev.granted who e.base = true →
      w = (if r = .hubOwnStatus then (match who.host with | some h => v &&& word (5 * 2 ^ h) | none => v) else v) →
      Completes (.registerWrite who ⟨e.base, 4⟩ v) s fun t =>
        t.dev.rd r 0 = ((v &&& word e.rw) ||| (s.dev.rd r 0 &&& ~~~(word e.rw))) &&& ~~~(w &&& word e.w1c) ∧
        (e.stg ≠ 0 → SMap.find? t.dev.shadow (rk r 0) = some ((v &&& word e.stg) ||| (t.dev.rd r 0 &&& ~~~(word e.stg)))) ∧
        (e.stg = 0 → t.dev.shadow = s.dev.shadow) ∧ t.hbm = s.hbm ∧ SameRegsBut s t fun q i => q == r && i == 0) ∧
  (∀ (who : Partner) (v : Word) (s : State), s.dev.link.lost = [] →
    ∀ p ∈ ([(.timStepLo, .timStepHi), (.timCmtTgtLo, .timCmtTgtHi)] : List (Reg × Reg)),
      (∀ e, rowOf p.1 = some e → s.dev.granted who e.base = true → Completes (.registerWrite who ⟨e.base, 4⟩ v) s fun t =>
        SMap.find? t.dev.halves (rk p.1 0) = some ((v &&& word e.rw) ||| (s.dev.rd p.1 0 &&& ~~~(word e.rw))) ∧
        t.dev.regs = s.dev.regs ∧ t.hbm = s.hbm) ∧
      (∀ e, rowOf p.2 = some e → s.dev.granted who e.base = true → Completes (.registerWrite who ⟨e.base, 4⟩ v) s fun t =>
        t.dev.rd p.1 0 = (SMap.find? s.dev.halves (rk p.1 0)).getD (s.dev.rd p.1 0) ∧
        t.dev.rd p.2 0 = ((v &&& word e.rw) ||| (s.dev.rd p.2 0 &&& ~~~(word e.rw))) ∧
        SMap.find? t.dev.halves (rk p.1 0) = none ∧ t.hbm = s.hbm ∧ SameRegsBut s t fun q i => (q == p.1 || q == p.2) && i == 0)) ∧
  (∀ (who : Partner) (off : Nat) (v : Word) (s : State), off < 2 ^ 26 → regAt off = none → s.dev.granted who off = true →
    exec (.registerWrite who ⟨off, 4⟩ v) s = .next s) ∧
  (∀ (who : Partner) (off h : Nat) (v : Word) (s : State), off < 2 ^ 26 → who.host = some h → ownBlock h off = false →
    s.dev.owns h = false → s.dev.recovery = false → s.dev.protect = false →
    (∀ e i, regAt off = some (e, i) → privateHost e.reg i = none) → off % 4 = 0 → Completes (.registerWrite who ⟨off, 4⟩ v) s fun t =>
      t.dev.rdB .hubOwnStatus 0 h = true ∧
      t.dev.rdF .hubOwnViol h 31 26 = min 63 (s.dev.rdF .hubOwnViol h 31 26 + 1) ∧ OnlyRegs s t ∧
      SameRegsBut s t fun r j => (r == .hubOwnStatus && j == 0) || (r == .hubOwnViol && j == h))
end

