-- ==== Sys2Proof/Laws/Map.lean ====
section
/-! SUPPORT. Laws of the sparse maps that registers, tables and memory are kept in. -/

namespace Sys2Proof.Machine

variable {α : Type}

@[simp] theorem SMap.find?_nil (i : Nat) : SMap.find? ([] : SMap α) i = none := rfl

theorem SMap.find?_insert_same (m : SMap α) (i : Nat) (a : α) : SMap.find? (SMap.insert i a m) i = some a := by
  induction m with
  | nil => simp [SMap.insert, SMap.find?]
  | cons e t ih =>
    obtain ⟨k, v⟩ := e
    simp only [SMap.insert]
    split
    · simp [SMap.find?]
    · split
      · simp [SMap.find?]
      · rename_i h; simp [SMap.find?, h, ih]

theorem SMap.find?_insert_other (m : SMap α) {i j : Nat} (a : α) (h : j ≠ i) :
    SMap.find? (SMap.insert i a m) j = SMap.find? m j := by
  induction m with
  | nil => simp [SMap.insert, SMap.find?, h]
  | cons e t ih =>
    obtain ⟨k, v⟩ := e
    simp only [SMap.insert]
    split
    · simp [SMap.find?, h]
    · split
      · rename_i hk; subst hk; simp [SMap.find?, h]
      · simp [SMap.find?, ih]

theorem SMap.find?_filter (m : SMap α) (p : Nat → Bool) (j : Nat) :
    SMap.find? (m.filter fun e => p e.1) j = if p j then SMap.find? m j else none := by
  induction m with
  | nil => simp
  | cons e t ih =>
    obtain ⟨k, v⟩ := e
    by_cases hk : p k
    · simp only [List.filter_cons, hk, if_true, SMap.find?, ih]
      by_cases hj : j = k
      · simp [hj, hk]
      · simp [hj]
    · simp only [List.filter_cons, hk, SMap.find?]
      by_cases hj : j = k
      · subst hj; simp [ih, hk]
      · simp [ih, hj]

theorem SMap.find?_erase_same (m : SMap α) (i : Nat) : SMap.find? (SMap.erase m i) i = none := by
  have h := SMap.find?_filter m (fun k => k != i) i
  simpa [SMap.erase] using h

theorem SMap.find?_erase_other (m : SMap α) {i j : Nat} (h : j ≠ i) : SMap.find? (SMap.erase m i) j = SMap.find? m j := by
  have h' := SMap.find?_filter m (fun k => k != i) j
  simpa [SMap.erase, h] using h'

theorem SMap.find?_keep (m : SMap α) (p : Nat → Bool) (j : Nat) :
    SMap.find? (SMap.keep m p) j = if p j then SMap.find? m j else none := SMap.find?_filter m p j

theorem SMap.getD_keep (m : SMap α) (p : Nat → Bool) (j : Nat) (d : α) :
    SMap.getD (SMap.keep m p) j d = if p j then SMap.getD m j d else d := by
  simp only [SMap.getD, SMap.find?_keep]
  split <;> simp

section
variable [DecidableEq α]

/-- A key reads what was put. -/
@[simp] theorem SMap.getD_put_same (m : SMap α) (i : Nat) (d a : α) : SMap.getD (SMap.put m i d a) i d = a := by
  simp only [SMap.getD, SMap.put]
  split
  · rename_i h; simp [SMap.find?_erase_same, h]
  · simp [SMap.find?_insert_same]

/-- Another key reads what it read before. -/
theorem SMap.find?_put_other (m : SMap α) {i j : Nat} (d a : α) (h : j ≠ i) :
    SMap.find? (SMap.put m i d a) j = SMap.find? m j := by
  simp only [SMap.put]
  split
  · exact SMap.find?_erase_other m h
  · exact SMap.find?_insert_other m a h

theorem SMap.getD_put_other (m : SMap α) {i j : Nat} (d a e : α) (h : j ≠ i) :
    SMap.getD (SMap.put m i d a) j e = SMap.getD m j e := by simp [SMap.getD, SMap.find?_put_other m d a h]

end

/-! Rising keys. -/

/-- Keys rise strictly, said pairwise. -/
theorem SMap.rising_iff (m : SMap α) : SMap.rising m = true ↔ m.Pairwise (fun a b => a.1 < b.1) := by
  induction m with
  | nil => simp [SMap.rising]
  | cons a t ih =>
    cases t with
    | nil => simp [SMap.rising]
    | cons b t =>
      simp only [SMap.rising, Bool.and_eq_true, decide_eq_true_eq, ih, List.pairwise_cons, List.mem_cons]
      constructor
      · rintro ⟨hab, hb, ht⟩
        refine ⟨?_, hb, ht⟩
        rintro x (rfl | hx)
        · exact hab
        · exact hab.trans (hb x hx)
      · rintro ⟨ha, hb, ht⟩
        exact ⟨ha b (Or.inl rfl), hb, ht⟩

theorem SMap.mem_insert {i : Nat} {a : α} {m : SMap α} {x : Nat × α} (h : x ∈ SMap.insert i a m) : x = (i, a) ∨ x ∈ m := by
  induction m with
  | nil => simpa [SMap.insert] using h
  | cons e t ih =>
    obtain ⟨k, v⟩ := e
    simp only [SMap.insert] at h
    split at h
    · simpa using h
    · split at h
      · rcases List.mem_cons.mp h with h | h
        · exact Or.inl h
        · exact Or.inr (List.mem_cons_of_mem _ h)
      · rcases List.mem_cons.mp h with h | h
        · exact Or.inr (h ▸ List.mem_cons_self)
        · exact (ih h).imp id (List.mem_cons_of_mem _)

theorem SMap.pairwise_insert (m : SMap α) (i : Nat) (a : α) (h : m.Pairwise (fun x y => x.1 < y.1)) :
    (SMap.insert i a m).Pairwise (fun x y => x.1 < y.1) := by
  induction m with
  | nil => simp [SMap.insert]
  | cons e t ih =>
    obtain ⟨k, v⟩ := e
    obtain ⟨hk, ht⟩ := List.pairwise_cons.mp h
    simp only [SMap.insert]
    split
    · rename_i hik
      refine List.pairwise_cons.mpr ⟨?_, h⟩
      rintro x hx
      rcases List.mem_cons.mp hx with rfl | hx
      · exact hik
      · exact hik.trans (hk x hx)
    · split
      · rename_i hik
        subst hik
        exact List.pairwise_cons.mpr ⟨hk, ht⟩
      · rename_i h1 h2
        refine List.pairwise_cons.mpr ⟨?_, ih ht⟩
        intro x hx
        rcases SMap.mem_insert hx with rfl | hx
        · show k < i
          omega
        · exact hk x hx

/-- The canonical form, said with membership. -/
theorem SMap.canon_iff [DecidableEq α] (m : SMap α) (d : α) :
    SMap.canon m d = true ↔ m.Pairwise (fun a b => a.1 < b.1) ∧ ∀ e ∈ m, e.2 ≠ d := by
  simp [SMap.canon, SMap.rising_iff]

/-- Putting an entry keeps the canonical form. -/
theorem SMap.canon_put [DecidableEq α] (m : SMap α) (i : Nat) (d a : α) (h : SMap.canon m d = true) :
    SMap.canon (SMap.put m i d a) d = true := by
  rw [SMap.canon_iff] at h ⊢
  simp only [SMap.put]
  split
  · exact ⟨h.1.filter _, fun e he => h.2 e (List.mem_filter.mp he).1⟩
  · rename_i hne
    refine ⟨SMap.pairwise_insert m i a h.1, ?_⟩
    intro e he
    rcases SMap.mem_insert he with rfl | he
    · exact hne
    · exact h.2 e he

/-- Dropping entries keeps the canonical form. -/
theorem SMap.canon_keep [DecidableEq α] (m : SMap α) (p : Nat → Bool) (d : α) (h : SMap.canon m d = true) :
    SMap.canon (SMap.keep m p) d = true := by
  rw [SMap.canon_iff] at h ⊢
  exact ⟨h.1.filter _, fun e he => h.2 e (List.mem_filter.mp he).1⟩

end Sys2Proof.Machine
end

