-- ==== Sys2Proof/Laws/State.lean ====
section
/-! SUPPORT. What each update of the state leaves alone: one lemma per field, true by definition. -/

namespace Sys2Proof.Machine

/-! A register written. -/

@[simp] theorem Dev.wr_shadow (d : Dev) (r : Reg) (i : Nat) (v : Word) : (d.wr r i v).shadow = d.shadow := rfl
@[simp] theorem Dev.wr_latch (d : Dev) (r : Reg) (i : Nat) (v : Word) : (d.wr r i v).latch = d.latch := rfl
@[simp] theorem Dev.wr_freeCtr (d : Dev) (r : Reg) (i : Nat) (v : Word) : (d.wr r i v).freeCtr = d.freeCtr := rfl
@[simp] theorem Dev.wr_out (d : Dev) (r : Reg) (i : Nat) (v : Word) : (d.wr r i v).out = d.out := rfl
@[simp] theorem Dev.wr_ocuFresh (d : Dev) (r : Reg) (i : Nat) (v : Word) : (d.wr r i v).ocuFresh = d.ocuFresh := rfl
@[simp] theorem Dev.wr_bwFresh (d : Dev) (r : Reg) (i : Nat) (v : Word) : (d.wr r i v).bwFresh = d.bwFresh := rfl
@[simp] theorem Dev.wr_bwOpen (d : Dev) (r : Reg) (i : Nat) (v : Word) : (d.wr r i v).bwOpen = d.bwOpen := rfl
@[simp] theorem Dev.wr_pages (d : Dev) (r : Reg) (i : Nat) (v : Word) : (d.wr r i v).pages = d.pages := rfl
@[simp] theorem Dev.wr_time (d : Dev) (r : Reg) (i : Nat) (v : Word) : (d.wr r i v).time = d.time := rfl
@[simp] theorem Dev.wr_rcd (d : Dev) (r : Reg) (i : Nat) (v : Word) : (d.wr r i v).rcd = d.rcd := rfl
@[simp] theorem Dev.wr_link (d : Dev) (r : Reg) (i : Nat) (v : Word) : (d.wr r i v).link = d.link := rfl
@[simp] theorem Dev.wr_lan (d : Dev) (r : Reg) (i : Nat) (v : Word) : (d.wr r i v).lan = d.lan := rfl
@[simp] theorem Dev.wr_keep (d : Dev) (r : Reg) (i : Nat) (v : Word) : (d.wr r i v).keep = d.keep := rfl
@[simp] theorem Dev.wr_fwd (d : Dev) (r : Reg) (i : Nat) (v : Word) : (d.wr r i v).fwd = d.fwd := rfl
@[simp] theorem Dev.wr_tab (d : Dev) (r : Reg) (i : Nat) (v : Word) : (d.wr r i v).tab = d.tab := rfl
@[simp] theorem Dev.wr_sch (d : Dev) (r : Reg) (i : Nat) (v : Word) : (d.wr r i v).sch = d.sch := rfl
@[simp] theorem Dev.wr_col (d : Dev) (r : Reg) (i : Nat) (v : Word) : (d.wr r i v).col = d.col := rfl
@[simp] theorem Dev.wr_sen (d : Dev) (r : Reg) (i : Nat) (v : Word) : (d.wr r i v).sen = d.sen := rfl
@[simp] theorem Dev.wr_rng (d : Dev) (r : Reg) (i : Nat) (v : Word) : (d.wr r i v).rng = d.rng := rfl
@[simp] theorem Dev.wr_mem (d : Dev) (r : Reg) (i : Nat) (v : Word) : (d.wr r i v).mem = d.mem := rfl
@[simp] theorem Dev.wr_emb (d : Dev) (r : Reg) (i : Nat) (v : Word) : (d.wr r i v).emb = d.emb := rfl
@[simp] theorem Dev.wr_flt (d : Dev) (r : Reg) (i : Nat) (v : Word) : (d.wr r i v).flt = d.flt := rfl
@[simp] theorem Dev.wr_boot (d : Dev) (r : Reg) (i : Nat) (v : Word) : (d.wr r i v).boot = d.boot := rfl
@[simp] theorem Dev.wr_mgt (d : Dev) (r : Reg) (i : Nat) (v : Word) : (d.wr r i v).mgt = d.mgt := rfl
@[simp] theorem Dev.wr_pwr (d : Dev) (r : Reg) (i : Nat) (v : Word) : (d.wr r i v).pwr = d.pwr := rfl
@[simp] theorem Dev.wr_ue (d : Dev) (r : Reg) (i : Nat) (v : Word) : (d.wr r i v).ue = d.ue := rfl
@[simp] theorem Dev.wr_halves (d : Dev) (r : Reg) (i : Nat) (v : Word) : (d.wr r i v).halves = d.halves := rfl
@[simp] theorem Dev.wr_ce (d : Dev) (r : Reg) (i : Nat) (v : Word) : (d.wr r i v).ce = d.ce := rfl
@[simp] theorem Dev.wr_chanErr (d : Dev) (r : Reg) (i : Nat) (v : Word) : (d.wr r i v).chanErr = d.chanErr := rfl
@[simp] theorem Dev.wr_chanRetry (d : Dev) (r : Reg) (i : Nat) (v : Word) : (d.wr r i v).chanRetry = d.chanRetry := rfl
@[simp] theorem Dev.wr_hostA (d : Dev) (r : Reg) (i : Nat) (v : Word) : (d.wr r i v).hostA = d.hostA := rfl
@[simp] theorem Dev.wr_hostB (d : Dev) (r : Reg) (i : Nat) (v : Word) : (d.wr r i v).hostB = d.hostB := rfl

/-! A field of a register written. -/

@[simp] theorem Dev.wrF_shadow (d : Dev) (r : Reg) (i hi lo v : Nat) : (d.wrF r i hi lo v).shadow = d.shadow := rfl
@[simp] theorem Dev.wrF_latch (d : Dev) (r : Reg) (i hi lo v : Nat) : (d.wrF r i hi lo v).latch = d.latch := rfl
@[simp] theorem Dev.wrF_freeCtr (d : Dev) (r : Reg) (i hi lo v : Nat) : (d.wrF r i hi lo v).freeCtr = d.freeCtr := rfl
@[simp] theorem Dev.wrF_out (d : Dev) (r : Reg) (i hi lo v : Nat) : (d.wrF r i hi lo v).out = d.out := rfl
@[simp] theorem Dev.wrF_ocuFresh (d : Dev) (r : Reg) (i hi lo v : Nat) : (d.wrF r i hi lo v).ocuFresh = d.ocuFresh := rfl
@[simp] theorem Dev.wrF_bwFresh (d : Dev) (r : Reg) (i hi lo v : Nat) : (d.wrF r i hi lo v).bwFresh = d.bwFresh := rfl
@[simp] theorem Dev.wrF_bwOpen (d : Dev) (r : Reg) (i hi lo v : Nat) : (d.wrF r i hi lo v).bwOpen = d.bwOpen := rfl
@[simp] theorem Dev.wrF_pages (d : Dev) (r : Reg) (i hi lo v : Nat) : (d.wrF r i hi lo v).pages = d.pages := rfl
@[simp] theorem Dev.wrF_time (d : Dev) (r : Reg) (i hi lo v : Nat) : (d.wrF r i hi lo v).time = d.time := rfl
@[simp] theorem Dev.wrF_rcd (d : Dev) (r : Reg) (i hi lo v : Nat) : (d.wrF r i hi lo v).rcd = d.rcd := rfl
@[simp] theorem Dev.wrF_link (d : Dev) (r : Reg) (i hi lo v : Nat) : (d.wrF r i hi lo v).link = d.link := rfl
@[simp] theorem Dev.wrF_lan (d : Dev) (r : Reg) (i hi lo v : Nat) : (d.wrF r i hi lo v).lan = d.lan := rfl
@[simp] theorem Dev.wrF_keep (d : Dev) (r : Reg) (i hi lo v : Nat) : (d.wrF r i hi lo v).keep = d.keep := rfl
@[simp] theorem Dev.wrF_fwd (d : Dev) (r : Reg) (i hi lo v : Nat) : (d.wrF r i hi lo v).fwd = d.fwd := rfl
@[simp] theorem Dev.wrF_tab (d : Dev) (r : Reg) (i hi lo v : Nat) : (d.wrF r i hi lo v).tab = d.tab := rfl
@[simp] theorem Dev.wrF_sch (d : Dev) (r : Reg) (i hi lo v : Nat) : (d.wrF r i hi lo v).sch = d.sch := rfl
@[simp] theorem Dev.wrF_col (d : Dev) (r : Reg) (i hi lo v : Nat) : (d.wrF r i hi lo v).col = d.col := rfl
@[simp] theorem Dev.wrF_sen (d : Dev) (r : Reg) (i hi lo v : Nat) : (d.wrF r i hi lo v).sen = d.sen := rfl
@[simp] theorem Dev.wrF_rng (d : Dev) (r : Reg) (i hi lo v : Nat) : (d.wrF r i hi lo v).rng = d.rng := rfl
@[simp] theorem Dev.wrF_mem (d : Dev) (r : Reg) (i hi lo v : Nat) : (d.wrF r i hi lo v).mem = d.mem := rfl
@[simp] theorem Dev.wrF_emb (d : Dev) (r : Reg) (i hi lo v : Nat) : (d.wrF r i hi lo v).emb = d.emb := rfl
@[simp] theorem Dev.wrF_flt (d : Dev) (r : Reg) (i hi lo v : Nat) : (d.wrF r i hi lo v).flt = d.flt := rfl
@[simp] theorem Dev.wrF_boot (d : Dev) (r : Reg) (i hi lo v : Nat) : (d.wrF r i hi lo v).boot = d.boot := rfl
@[simp] theorem Dev.wrF_mgt (d : Dev) (r : Reg) (i hi lo v : Nat) : (d.wrF r i hi lo v).mgt = d.mgt := rfl
@[simp] theorem Dev.wrF_pwr (d : Dev) (r : Reg) (i hi lo v : Nat) : (d.wrF r i hi lo v).pwr = d.pwr := rfl
@[simp] theorem Dev.wrF_ue (d : Dev) (r : Reg) (i hi lo v : Nat) : (d.wrF r i hi lo v).ue = d.ue := rfl
@[simp] theorem Dev.wrF_halves (d : Dev) (r : Reg) (i hi lo v : Nat) : (d.wrF r i hi lo v).halves = d.halves := rfl
@[simp] theorem Dev.wrF_ce (d : Dev) (r : Reg) (i hi lo v : Nat) : (d.wrF r i hi lo v).ce = d.ce := rfl
@[simp] theorem Dev.wrF_chanErr (d : Dev) (r : Reg) (i hi lo v : Nat) : (d.wrF r i hi lo v).chanErr = d.chanErr := rfl
@[simp] theorem Dev.wrF_chanRetry (d : Dev) (r : Reg) (i hi lo v : Nat) : (d.wrF r i hi lo v).chanRetry = d.chanRetry := rfl
@[simp] theorem Dev.wrF_hostA (d : Dev) (r : Reg) (i hi lo v : Nat) : (d.wrF r i hi lo v).hostA = d.hostA := rfl
@[simp] theorem Dev.wrF_hostB (d : Dev) (r : Reg) (i hi lo v : Nat) : (d.wrF r i hi lo v).hostB = d.hostB := rfl

/-! A bit of a register written. -/

@[simp] theorem Dev.wrB_shadow (d : Dev) (r : Reg) (i b : Nat) (v : Bool) : (d.wrB r i b v).shadow = d.shadow := rfl
@[simp] theorem Dev.wrB_latch (d : Dev) (r : Reg) (i b : Nat) (v : Bool) : (d.wrB r i b v).latch = d.latch := rfl
@[simp] theorem Dev.wrB_freeCtr (d : Dev) (r : Reg) (i b : Nat) (v : Bool) : (d.wrB r i b v).freeCtr = d.freeCtr := rfl
@[simp] theorem Dev.wrB_out (d : Dev) (r : Reg) (i b : Nat) (v : Bool) : (d.wrB r i b v).out = d.out := rfl
@[simp] theorem Dev.wrB_ocuFresh (d : Dev) (r : Reg) (i b : Nat) (v : Bool) : (d.wrB r i b v).ocuFresh = d.ocuFresh := rfl
@[simp] theorem Dev.wrB_bwFresh (d : Dev) (r : Reg) (i b : Nat) (v : Bool) : (d.wrB r i b v).bwFresh = d.bwFresh := rfl
@[simp] theorem Dev.wrB_bwOpen (d : Dev) (r : Reg) (i b : Nat) (v : Bool) : (d.wrB r i b v).bwOpen = d.bwOpen := rfl
@[simp] theorem Dev.wrB_pages (d : Dev) (r : Reg) (i b : Nat) (v : Bool) : (d.wrB r i b v).pages = d.pages := rfl
@[simp] theorem Dev.wrB_time (d : Dev) (r : Reg) (i b : Nat) (v : Bool) : (d.wrB r i b v).time = d.time := rfl
@[simp] theorem Dev.wrB_rcd (d : Dev) (r : Reg) (i b : Nat) (v : Bool) : (d.wrB r i b v).rcd = d.rcd := rfl
@[simp] theorem Dev.wrB_link (d : Dev) (r : Reg) (i b : Nat) (v : Bool) : (d.wrB r i b v).link = d.link := rfl
@[simp] theorem Dev.wrB_lan (d : Dev) (r : Reg) (i b : Nat) (v : Bool) : (d.wrB r i b v).lan = d.lan := rfl
@[simp] theorem Dev.wrB_keep (d : Dev) (r : Reg) (i b : Nat) (v : Bool) : (d.wrB r i b v).keep = d.keep := rfl
@[simp] theorem Dev.wrB_fwd (d : Dev) (r : Reg) (i b : Nat) (v : Bool) : (d.wrB r i b v).fwd = d.fwd := rfl
@[simp] theorem Dev.wrB_tab (d : Dev) (r : Reg) (i b : Nat) (v : Bool) : (d.wrB r i b v).tab = d.tab := rfl
@[simp] theorem Dev.wrB_sch (d : Dev) (r : Reg) (i b : Nat) (v : Bool) : (d.wrB r i b v).sch = d.sch := rfl
@[simp] theorem Dev.wrB_col (d : Dev) (r : Reg) (i b : Nat) (v : Bool) : (d.wrB r i b v).col = d.col := rfl
@[simp] theorem Dev.wrB_sen (d : Dev) (r : Reg) (i b : Nat) (v : Bool) : (d.wrB r i b v).sen = d.sen := rfl
@[simp] theorem Dev.wrB_rng (d : Dev) (r : Reg) (i b : Nat) (v : Bool) : (d.wrB r i b v).rng = d.rng := rfl
@[simp] theorem Dev.wrB_mem (d : Dev) (r : Reg) (i b : Nat) (v : Bool) : (d.wrB r i b v).mem = d.mem := rfl
@[simp] theorem Dev.wrB_emb (d : Dev) (r : Reg) (i b : Nat) (v : Bool) : (d.wrB r i b v).emb = d.emb := rfl
@[simp] theorem Dev.wrB_flt (d : Dev) (r : Reg) (i b : Nat) (v : Bool) : (d.wrB r i b v).flt = d.flt := rfl
@[simp] theorem Dev.wrB_boot (d : Dev) (r : Reg) (i b : Nat) (v : Bool) : (d.wrB r i b v).boot = d.boot := rfl
@[simp] theorem Dev.wrB_mgt (d : Dev) (r : Reg) (i b : Nat) (v : Bool) : (d.wrB r i b v).mgt = d.mgt := rfl
@[simp] theorem Dev.wrB_pwr (d : Dev) (r : Reg) (i b : Nat) (v : Bool) : (d.wrB r i b v).pwr = d.pwr := rfl
@[simp] theorem Dev.wrB_ue (d : Dev) (r : Reg) (i b : Nat) (v : Bool) : (d.wrB r i b v).ue = d.ue := rfl
@[simp] theorem Dev.wrB_halves (d : Dev) (r : Reg) (i b : Nat) (v : Bool) : (d.wrB r i b v).halves = d.halves := rfl
@[simp] theorem Dev.wrB_ce (d : Dev) (r : Reg) (i b : Nat) (v : Bool) : (d.wrB r i b v).ce = d.ce := rfl
@[simp] theorem Dev.wrB_chanErr (d : Dev) (r : Reg) (i b : Nat) (v : Bool) : (d.wrB r i b v).chanErr = d.chanErr := rfl
@[simp] theorem Dev.wrB_chanRetry (d : Dev) (r : Reg) (i b : Nat) (v : Bool) : (d.wrB r i b v).chanRetry = d.chanRetry := rfl
@[simp] theorem Dev.wrB_hostA (d : Dev) (r : Reg) (i b : Nat) (v : Bool) : (d.wrB r i b v).hostA = d.hostA := rfl
@[simp] theorem Dev.wrB_hostB (d : Dev) (r : Reg) (i b : Nat) (v : Bool) : (d.wrB r i b v).hostB = d.hostB := rfl

/-! A counter raised. -/

@[simp] theorem Dev.bumpN_shadow (d : Dev) (r : Reg) (i n : Nat) : (d.bumpN r i n).shadow = d.shadow := rfl
@[simp] theorem Dev.bumpN_latch (d : Dev) (r : Reg) (i n : Nat) : (d.bumpN r i n).latch = d.latch := rfl
@[simp] theorem Dev.bumpN_freeCtr (d : Dev) (r : Reg) (i n : Nat) : (d.bumpN r i n).freeCtr = d.freeCtr := rfl
@[simp] theorem Dev.bumpN_out (d : Dev) (r : Reg) (i n : Nat) : (d.bumpN r i n).out = d.out := rfl
@[simp] theorem Dev.bumpN_ocuFresh (d : Dev) (r : Reg) (i n : Nat) : (d.bumpN r i n).ocuFresh = d.ocuFresh := rfl
@[simp] theorem Dev.bumpN_bwFresh (d : Dev) (r : Reg) (i n : Nat) : (d.bumpN r i n).bwFresh = d.bwFresh := rfl
@[simp] theorem Dev.bumpN_bwOpen (d : Dev) (r : Reg) (i n : Nat) : (d.bumpN r i n).bwOpen = d.bwOpen := rfl
@[simp] theorem Dev.bumpN_pages (d : Dev) (r : Reg) (i n : Nat) : (d.bumpN r i n).pages = d.pages := rfl
@[simp] theorem Dev.bumpN_time (d : Dev) (r : Reg) (i n : Nat) : (d.bumpN r i n).time = d.time := rfl
@[simp] theorem Dev.bumpN_rcd (d : Dev) (r : Reg) (i n : Nat) : (d.bumpN r i n).rcd = d.rcd := rfl
@[simp] theorem Dev.bumpN_link (d : Dev) (r : Reg) (i n : Nat) : (d.bumpN r i n).link = d.link := rfl
@[simp] theorem Dev.bumpN_lan (d : Dev) (r : Reg) (i n : Nat) : (d.bumpN r i n).lan = d.lan := rfl
@[simp] theorem Dev.bumpN_keep (d : Dev) (r : Reg) (i n : Nat) : (d.bumpN r i n).keep = d.keep := rfl
@[simp] theorem Dev.bumpN_fwd (d : Dev) (r : Reg) (i n : Nat) : (d.bumpN r i n).fwd = d.fwd := rfl
@[simp] theorem Dev.bumpN_tab (d : Dev) (r : Reg) (i n : Nat) : (d.bumpN r i n).tab = d.tab := rfl
@[simp] theorem Dev.bumpN_sch (d : Dev) (r : Reg) (i n : Nat) : (d.bumpN r i n).sch = d.sch := rfl
@[simp] theorem Dev.bumpN_col (d : Dev) (r : Reg) (i n : Nat) : (d.bumpN r i n).col = d.col := rfl
@[simp] theorem Dev.bumpN_sen (d : Dev) (r : Reg) (i n : Nat) : (d.bumpN r i n).sen = d.sen := rfl
@[simp] theorem Dev.bumpN_rng (d : Dev) (r : Reg) (i n : Nat) : (d.bumpN r i n).rng = d.rng := rfl
@[simp] theorem Dev.bumpN_mem (d : Dev) (r : Reg) (i n : Nat) : (d.bumpN r i n).mem = d.mem := rfl
@[simp] theorem Dev.bumpN_emb (d : Dev) (r : Reg) (i n : Nat) : (d.bumpN r i n).emb = d.emb := rfl
@[simp] theorem Dev.bumpN_flt (d : Dev) (r : Reg) (i n : Nat) : (d.bumpN r i n).flt = d.flt := rfl
@[simp] theorem Dev.bumpN_boot (d : Dev) (r : Reg) (i n : Nat) : (d.bumpN r i n).boot = d.boot := rfl
@[simp] theorem Dev.bumpN_mgt (d : Dev) (r : Reg) (i n : Nat) : (d.bumpN r i n).mgt = d.mgt := rfl
@[simp] theorem Dev.bumpN_pwr (d : Dev) (r : Reg) (i n : Nat) : (d.bumpN r i n).pwr = d.pwr := rfl
@[simp] theorem Dev.bumpN_ue (d : Dev) (r : Reg) (i n : Nat) : (d.bumpN r i n).ue = d.ue := rfl
@[simp] theorem Dev.bumpN_halves (d : Dev) (r : Reg) (i n : Nat) : (d.bumpN r i n).halves = d.halves := rfl
@[simp] theorem Dev.bumpN_ce (d : Dev) (r : Reg) (i n : Nat) : (d.bumpN r i n).ce = d.ce := rfl
@[simp] theorem Dev.bumpN_chanErr (d : Dev) (r : Reg) (i n : Nat) : (d.bumpN r i n).chanErr = d.chanErr := rfl
@[simp] theorem Dev.bumpN_chanRetry (d : Dev) (r : Reg) (i n : Nat) : (d.bumpN r i n).chanRetry = d.chanRetry := rfl
@[simp] theorem Dev.bumpN_hostA (d : Dev) (r : Reg) (i n : Nat) : (d.bumpN r i n).hostA = d.hostA := rfl
@[simp] theorem Dev.bumpN_hostB (d : Dev) (r : Reg) (i n : Nat) : (d.bumpN r i n).hostB = d.hostB := rfl

/-! A counter raised by one. -/

@[simp] theorem Dev.bump_shadow (d : Dev) (r : Reg) (i : Nat) : (d.bump r i).shadow = d.shadow := rfl
@[simp] theorem Dev.bump_latch (d : Dev) (r : Reg) (i : Nat) : (d.bump r i).latch = d.latch := rfl
@[simp] theorem Dev.bump_freeCtr (d : Dev) (r : Reg) (i : Nat) : (d.bump r i).freeCtr = d.freeCtr := rfl
@[simp] theorem Dev.bump_out (d : Dev) (r : Reg) (i : Nat) : (d.bump r i).out = d.out := rfl
@[simp] theorem Dev.bump_ocuFresh (d : Dev) (r : Reg) (i : Nat) : (d.bump r i).ocuFresh = d.ocuFresh := rfl
@[simp] theorem Dev.bump_bwFresh (d : Dev) (r : Reg) (i : Nat) : (d.bump r i).bwFresh = d.bwFresh := rfl
@[simp] theorem Dev.bump_bwOpen (d : Dev) (r : Reg) (i : Nat) : (d.bump r i).bwOpen = d.bwOpen := rfl
@[simp] theorem Dev.bump_pages (d : Dev) (r : Reg) (i : Nat) : (d.bump r i).pages = d.pages := rfl
@[simp] theorem Dev.bump_time (d : Dev) (r : Reg) (i : Nat) : (d.bump r i).time = d.time := rfl
@[simp] theorem Dev.bump_rcd (d : Dev) (r : Reg) (i : Nat) : (d.bump r i).rcd = d.rcd := rfl
@[simp] theorem Dev.bump_link (d : Dev) (r : Reg) (i : Nat) : (d.bump r i).link = d.link := rfl
@[simp] theorem Dev.bump_lan (d : Dev) (r : Reg) (i : Nat) : (d.bump r i).lan = d.lan := rfl
@[simp] theorem Dev.bump_keep (d : Dev) (r : Reg) (i : Nat) : (d.bump r i).keep = d.keep := rfl
@[simp] theorem Dev.bump_fwd (d : Dev) (r : Reg) (i : Nat) : (d.bump r i).fwd = d.fwd := rfl
@[simp] theorem Dev.bump_tab (d : Dev) (r : Reg) (i : Nat) : (d.bump r i).tab = d.tab := rfl
@[simp] theorem Dev.bump_sch (d : Dev) (r : Reg) (i : Nat) : (d.bump r i).sch = d.sch := rfl
@[simp] theorem Dev.bump_col (d : Dev) (r : Reg) (i : Nat) : (d.bump r i).col = d.col := rfl
@[simp] theorem Dev.bump_sen (d : Dev) (r : Reg) (i : Nat) : (d.bump r i).sen = d.sen := rfl
@[simp] theorem Dev.bump_rng (d : Dev) (r : Reg) (i : Nat) : (d.bump r i).rng = d.rng := rfl
@[simp] theorem Dev.bump_mem (d : Dev) (r : Reg) (i : Nat) : (d.bump r i).mem = d.mem := rfl
@[simp] theorem Dev.bump_emb (d : Dev) (r : Reg) (i : Nat) : (d.bump r i).emb = d.emb := rfl
@[simp] theorem Dev.bump_flt (d : Dev) (r : Reg) (i : Nat) : (d.bump r i).flt = d.flt := rfl
@[simp] theorem Dev.bump_boot (d : Dev) (r : Reg) (i : Nat) : (d.bump r i).boot = d.boot := rfl
@[simp] theorem Dev.bump_mgt (d : Dev) (r : Reg) (i : Nat) : (d.bump r i).mgt = d.mgt := rfl
@[simp] theorem Dev.bump_pwr (d : Dev) (r : Reg) (i : Nat) : (d.bump r i).pwr = d.pwr := rfl
@[simp] theorem Dev.bump_ue (d : Dev) (r : Reg) (i : Nat) : (d.bump r i).ue = d.ue := rfl
@[simp] theorem Dev.bump_halves (d : Dev) (r : Reg) (i : Nat) : (d.bump r i).halves = d.halves := rfl
@[simp] theorem Dev.bump_ce (d : Dev) (r : Reg) (i : Nat) : (d.bump r i).ce = d.ce := rfl
@[simp] theorem Dev.bump_chanErr (d : Dev) (r : Reg) (i : Nat) : (d.bump r i).chanErr = d.chanErr := rfl
@[simp] theorem Dev.bump_chanRetry (d : Dev) (r : Reg) (i : Nat) : (d.bump r i).chanRetry = d.chanRetry := rfl
@[simp] theorem Dev.bump_hostA (d : Dev) (r : Reg) (i : Nat) : (d.bump r i).hostA = d.hostA := rfl
@[simp] theorem Dev.bump_hostB (d : Dev) (r : Reg) (i : Nat) : (d.bump r i).hostB = d.hostB := rfl

/-! A register range cleared. -/

@[simp] theorem Dev.clearRange_shadow (d : Dev) (r : Reg) (lo n : Nat) : (d.clearRange r lo n).shadow = d.shadow := rfl
@[simp] theorem Dev.clearRange_latch (d : Dev) (r : Reg) (lo n : Nat) : (d.clearRange r lo n).latch = d.latch := rfl
@[simp] theorem Dev.clearRange_freeCtr (d : Dev) (r : Reg) (lo n : Nat) : (d.clearRange r lo n).freeCtr = d.freeCtr := rfl
@[simp] theorem Dev.clearRange_out (d : Dev) (r : Reg) (lo n : Nat) : (d.clearRange r lo n).out = d.out := rfl
@[simp] theorem Dev.clearRange_ocuFresh (d : Dev) (r : Reg) (lo n : Nat) : (d.clearRange r lo n).ocuFresh = d.ocuFresh := rfl
@[simp] theorem Dev.clearRange_bwFresh (d : Dev) (r : Reg) (lo n : Nat) : (d.clearRange r lo n).bwFresh = d.bwFresh := rfl
@[simp] theorem Dev.clearRange_bwOpen (d : Dev) (r : Reg) (lo n : Nat) : (d.clearRange r lo n).bwOpen = d.bwOpen := rfl
@[simp] theorem Dev.clearRange_pages (d : Dev) (r : Reg) (lo n : Nat) : (d.clearRange r lo n).pages = d.pages := rfl
@[simp] theorem Dev.clearRange_time (d : Dev) (r : Reg) (lo n : Nat) : (d.clearRange r lo n).time = d.time := rfl
@[simp] theorem Dev.clearRange_rcd (d : Dev) (r : Reg) (lo n : Nat) : (d.clearRange r lo n).rcd = d.rcd := rfl
@[simp] theorem Dev.clearRange_link (d : Dev) (r : Reg) (lo n : Nat) : (d.clearRange r lo n).link = d.link := rfl
@[simp] theorem Dev.clearRange_lan (d : Dev) (r : Reg) (lo n : Nat) : (d.clearRange r lo n).lan = d.lan := rfl
@[simp] theorem Dev.clearRange_keep (d : Dev) (r : Reg) (lo n : Nat) : (d.clearRange r lo n).keep = d.keep := rfl
@[simp] theorem Dev.clearRange_fwd (d : Dev) (r : Reg) (lo n : Nat) : (d.clearRange r lo n).fwd = d.fwd := rfl
@[simp] theorem Dev.clearRange_tab (d : Dev) (r : Reg) (lo n : Nat) : (d.clearRange r lo n).tab = d.tab := rfl
@[simp] theorem Dev.clearRange_sch (d : Dev) (r : Reg) (lo n : Nat) : (d.clearRange r lo n).sch = d.sch := rfl
@[simp] theorem Dev.clearRange_col (d : Dev) (r : Reg) (lo n : Nat) : (d.clearRange r lo n).col = d.col := rfl
@[simp] theorem Dev.clearRange_sen (d : Dev) (r : Reg) (lo n : Nat) : (d.clearRange r lo n).sen = d.sen := rfl
@[simp] theorem Dev.clearRange_rng (d : Dev) (r : Reg) (lo n : Nat) : (d.clearRange r lo n).rng = d.rng := rfl
@[simp] theorem Dev.clearRange_mem (d : Dev) (r : Reg) (lo n : Nat) : (d.clearRange r lo n).mem = d.mem := rfl
@[simp] theorem Dev.clearRange_emb (d : Dev) (r : Reg) (lo n : Nat) : (d.clearRange r lo n).emb = d.emb := rfl
@[simp] theorem Dev.clearRange_flt (d : Dev) (r : Reg) (lo n : Nat) : (d.clearRange r lo n).flt = d.flt := rfl
@[simp] theorem Dev.clearRange_boot (d : Dev) (r : Reg) (lo n : Nat) : (d.clearRange r lo n).boot = d.boot := rfl
@[simp] theorem Dev.clearRange_mgt (d : Dev) (r : Reg) (lo n : Nat) : (d.clearRange r lo n).mgt = d.mgt := rfl
@[simp] theorem Dev.clearRange_pwr (d : Dev) (r : Reg) (lo n : Nat) : (d.clearRange r lo n).pwr = d.pwr := rfl
@[simp] theorem Dev.clearRange_ue (d : Dev) (r : Reg) (lo n : Nat) : (d.clearRange r lo n).ue = d.ue := rfl
@[simp] theorem Dev.clearRange_halves (d : Dev) (r : Reg) (lo n : Nat) : (d.clearRange r lo n).halves = d.halves := rfl
@[simp] theorem Dev.clearRange_ce (d : Dev) (r : Reg) (lo n : Nat) : (d.clearRange r lo n).ce = d.ce := rfl
@[simp] theorem Dev.clearRange_chanErr (d : Dev) (r : Reg) (lo n : Nat) : (d.clearRange r lo n).chanErr = d.chanErr := rfl
@[simp] theorem Dev.clearRange_chanRetry (d : Dev) (r : Reg) (lo n : Nat) : (d.clearRange r lo n).chanRetry = d.chanRetry := rfl
@[simp] theorem Dev.clearRange_hostA (d : Dev) (r : Reg) (lo n : Nat) : (d.clearRange r lo n).hostA = d.hostA := rfl
@[simp] theorem Dev.clearRange_hostB (d : Dev) (r : Reg) (lo n : Nat) : (d.clearRange r lo n).hostB = d.hostB := rfl

/-! Something driven. -/

@[simp] theorem Dev.emit_regs (d : Dev) (o : Out) : (d.emit o).regs = d.regs := rfl
@[simp] theorem Dev.emit_shadow (d : Dev) (o : Out) : (d.emit o).shadow = d.shadow := rfl
@[simp] theorem Dev.emit_latch (d : Dev) (o : Out) : (d.emit o).latch = d.latch := rfl
@[simp] theorem Dev.emit_freeCtr (d : Dev) (o : Out) : (d.emit o).freeCtr = d.freeCtr := rfl
@[simp] theorem Dev.emit_ocuFresh (d : Dev) (o : Out) : (d.emit o).ocuFresh = d.ocuFresh := rfl
@[simp] theorem Dev.emit_bwFresh (d : Dev) (o : Out) : (d.emit o).bwFresh = d.bwFresh := rfl
@[simp] theorem Dev.emit_bwOpen (d : Dev) (o : Out) : (d.emit o).bwOpen = d.bwOpen := rfl
@[simp] theorem Dev.emit_pages (d : Dev) (o : Out) : (d.emit o).pages = d.pages := rfl
@[simp] theorem Dev.emit_time (d : Dev) (o : Out) : (d.emit o).time = d.time := rfl
@[simp] theorem Dev.emit_rcd (d : Dev) (o : Out) : (d.emit o).rcd = d.rcd := rfl
@[simp] theorem Dev.emit_link (d : Dev) (o : Out) : (d.emit o).link = d.link := rfl
@[simp] theorem Dev.emit_lan (d : Dev) (o : Out) : (d.emit o).lan = d.lan := rfl
@[simp] theorem Dev.emit_keep (d : Dev) (o : Out) : (d.emit o).keep = d.keep := rfl
@[simp] theorem Dev.emit_fwd (d : Dev) (o : Out) : (d.emit o).fwd = d.fwd := rfl
@[simp] theorem Dev.emit_tab (d : Dev) (o : Out) : (d.emit o).tab = d.tab := rfl
@[simp] theorem Dev.emit_sch (d : Dev) (o : Out) : (d.emit o).sch = d.sch := rfl
@[simp] theorem Dev.emit_col (d : Dev) (o : Out) : (d.emit o).col = d.col := rfl
@[simp] theorem Dev.emit_sen (d : Dev) (o : Out) : (d.emit o).sen = d.sen := rfl
@[simp] theorem Dev.emit_rng (d : Dev) (o : Out) : (d.emit o).rng = d.rng := rfl
@[simp] theorem Dev.emit_mem (d : Dev) (o : Out) : (d.emit o).mem = d.mem := rfl
@[simp] theorem Dev.emit_emb (d : Dev) (o : Out) : (d.emit o).emb = d.emb := rfl
@[simp] theorem Dev.emit_flt (d : Dev) (o : Out) : (d.emit o).flt = d.flt := rfl
@[simp] theorem Dev.emit_boot (d : Dev) (o : Out) : (d.emit o).boot = d.boot := rfl
@[simp] theorem Dev.emit_mgt (d : Dev) (o : Out) : (d.emit o).mgt = d.mgt := rfl
@[simp] theorem Dev.emit_pwr (d : Dev) (o : Out) : (d.emit o).pwr = d.pwr := rfl
@[simp] theorem Dev.emit_ue (d : Dev) (o : Out) : (d.emit o).ue = d.ue := rfl
@[simp] theorem Dev.emit_halves (d : Dev) (o : Out) : (d.emit o).halves = d.halves := rfl
@[simp] theorem Dev.emit_ce (d : Dev) (o : Out) : (d.emit o).ce = d.ce := rfl
@[simp] theorem Dev.emit_chanErr (d : Dev) (o : Out) : (d.emit o).chanErr = d.chanErr := rfl
@[simp] theorem Dev.emit_chanRetry (d : Dev) (o : Out) : (d.emit o).chanRetry = d.chanRetry := rfl
@[simp] theorem Dev.emit_hostA (d : Dev) (o : Out) : (d.emit o).hostA = d.hostA := rfl
@[simp] theorem Dev.emit_hostB (d : Dev) (o : Out) : (d.emit o).hostB = d.hostB := rfl

/-! A free value taken. -/

@[simp] theorem Dev.free_regs (d : Dev) : (d.free.2).regs = d.regs := rfl
@[simp] theorem Dev.free_shadow (d : Dev) : (d.free.2).shadow = d.shadow := rfl
@[simp] theorem Dev.free_latch (d : Dev) : (d.free.2).latch = d.latch := rfl
@[simp] theorem Dev.free_out (d : Dev) : (d.free.2).out = d.out := rfl
@[simp] theorem Dev.free_ocuFresh (d : Dev) : (d.free.2).ocuFresh = d.ocuFresh := rfl
@[simp] theorem Dev.free_bwFresh (d : Dev) : (d.free.2).bwFresh = d.bwFresh := rfl
@[simp] theorem Dev.free_bwOpen (d : Dev) : (d.free.2).bwOpen = d.bwOpen := rfl
@[simp] theorem Dev.free_pages (d : Dev) : (d.free.2).pages = d.pages := rfl
@[simp] theorem Dev.free_time (d : Dev) : (d.free.2).time = d.time := rfl
@[simp] theorem Dev.free_rcd (d : Dev) : (d.free.2).rcd = d.rcd := rfl
@[simp] theorem Dev.free_link (d : Dev) : (d.free.2).link = d.link := rfl
@[simp] theorem Dev.free_lan (d : Dev) : (d.free.2).lan = d.lan := rfl
@[simp] theorem Dev.free_keep (d : Dev) : (d.free.2).keep = d.keep := rfl
@[simp] theorem Dev.free_fwd (d : Dev) : (d.free.2).fwd = d.fwd := rfl
@[simp] theorem Dev.free_tab (d : Dev) : (d.free.2).tab = d.tab := rfl
@[simp] theorem Dev.free_sch (d : Dev) : (d.free.2).sch = d.sch := rfl
@[simp] theorem Dev.free_col (d : Dev) : (d.free.2).col = d.col := rfl
@[simp] theorem Dev.free_sen (d : Dev) : (d.free.2).sen = d.sen := rfl
@[simp] theorem Dev.free_rng (d : Dev) : (d.free.2).rng = d.rng := rfl
@[simp] theorem Dev.free_mem (d : Dev) : (d.free.2).mem = d.mem := rfl
@[simp] theorem Dev.free_emb (d : Dev) : (d.free.2).emb = d.emb := rfl
@[simp] theorem Dev.free_flt (d : Dev) : (d.free.2).flt = d.flt := rfl
@[simp] theorem Dev.free_boot (d : Dev) : (d.free.2).boot = d.boot := rfl
@[simp] theorem Dev.free_mgt (d : Dev) : (d.free.2).mgt = d.mgt := rfl
@[simp] theorem Dev.free_pwr (d : Dev) : (d.free.2).pwr = d.pwr := rfl
@[simp] theorem Dev.free_ue (d : Dev) : (d.free.2).ue = d.ue := rfl
@[simp] theorem Dev.free_halves (d : Dev) : (d.free.2).halves = d.halves := rfl
@[simp] theorem Dev.free_ce (d : Dev) : (d.free.2).ce = d.ce := rfl
@[simp] theorem Dev.free_chanErr (d : Dev) : (d.free.2).chanErr = d.chanErr := rfl
@[simp] theorem Dev.free_chanRetry (d : Dev) : (d.free.2).chanRetry = d.chanRetry := rfl
@[simp] theorem Dev.free_hostA (d : Dev) : (d.free.2).hostA = d.hostA := rfl
@[simp] theorem Dev.free_hostB (d : Dev) : (d.free.2).hostB = d.hostB := rfl

@[simp] theorem Dev.emit_out (d : Dev) (o : Out) : (d.emit o).out = o :: d.out := rfl
@[simp] theorem Dev.free_freeCtr (d : Dev) : d.free.2.freeCtr = d.freeCtr + 1 := rfl

/-! A function of the device leaves the rest of the state alone. -/

@[simp] theorem State.on_hbm (s : State) (f : Dev → Dev) : (s.on f).hbm = s.hbm := rfl
@[simp] theorem State.on_pending (s : State) (f : Dev → Dev) : (s.on f).pending = s.pending := rfl
@[simp] theorem State.on_dev (s : State) (f : Dev → Dev) : (s.on f).dev = f s.dev := rfl

/-! Hosts. -/

@[simp] theorem Dev.setHost_regs (d : Dev) (h : Nat) (x : HostSt) : (d.setHost h x).regs = d.regs := by
  simp only [Dev.setHost]; split <;> rfl
@[simp] theorem Dev.host_setHost (d : Dev) (h : Nat) (x : HostSt) : (d.setHost h x).host h = x := by
  simp only [Dev.setHost, Dev.host]; split <;> rfl

end Sys2Proof.Machine
end

