-- ==== Sys2Proof/Laws/Memory.lean ====
section
/-! SUPPORT. Laws of HBM: a read after a write, other bytes untouched, and every operation keeps the canonical form. -/

namespace Sys2Proof.Machine

/-! One byte. -/

/-- A written byte reads back. -/
theorem hbmByte_hbmPut_same (m : List Host.Cell) (a : Nat) (b : Byte) (h : a < 2 ^ 41) : hbmByte (hbmPut m a b) a = b := by
  simp only [hbmByte, hbmPut, if_pos h]
  exact SMap.getD_put_same m a 0 b

/-- A write leaves every other byte alone. -/
theorem hbmByte_hbmPut_other (m : List Host.Cell) {a c : Nat} (b : Byte) (h : c ≠ a) :
    hbmByte (hbmPut m a b) c = hbmByte m c := by
  simp only [hbmByte, hbmPut]
  split
  · exact SMap.getD_put_other m 0 b 0 h
  · rfl

theorem hbmByte_hbmClear (m : List Host.Cell) (lo n c : Nat) :
    hbmByte (hbmClear m lo n) c = if lo ≤ c ∧ c < lo + n then 0 else hbmByte m c := by
  simp only [hbmByte, hbmClear, SMap.getD_keep]
  by_cases h : lo ≤ c ∧ c < lo + n
  · simp [h.1, h.2]
  · simp only [if_neg h]
    have : (decide (lo ≤ c) && decide (c < lo + n)) = false := by simpa using h
    simp [this]

/-! Runs of bytes. -/

/-- Bytes outside a written run read as before. -/
theorem hbmByte_hbmPutBytes_other (m : List Host.Cell) (a : Nat) (bs : List Byte) (c : Nat)
    (h : c < a ∨ a + bs.length ≤ c) : hbmByte (hbmPutBytes m a bs) c = hbmByte m c := by
  induction bs generalizing m a with
  | nil => rfl
  | cons b bs ih =>
    simp only [List.length_cons] at h
    rw [hbmPutBytes, ih _ _ (by omega), hbmByte_hbmPut_other _ _ (by omega)]

/-- A written run reads back. -/
theorem hbmBytes_hbmPutBytes_same (m : List Host.Cell) (a : Nat) (bs : List Byte) (h : a + bs.length ≤ 2 ^ 41) :
    hbmBytes (hbmPutBytes m a bs) a bs.length = bs := by
  induction bs generalizing m a with
  | nil => rfl
  | cons b bs ih =>
    simp only [List.length_cons] at h ⊢
    rw [hbmBytes, hbmPutBytes, ih _ _ (by omega), hbmByte_hbmPutBytes_other _ _ _ _ (by omega),
      hbmByte_hbmPut_same _ _ _ (by omega)]

/-- A run that the written bytes do not touch reads as before. -/
theorem hbmBytes_hbmPutBytes_other (m : List Host.Cell) (a : Nat) (bs : List Byte) (c n : Nat)
    (h : c + n ≤ a ∨ a + bs.length ≤ c) : hbmBytes (hbmPutBytes m a bs) c n = hbmBytes m c n := by
  induction n generalizing c with
  | zero => rfl
  | succ n ih => rw [hbmBytes, hbmBytes, ih _ (by omega), hbmByte_hbmPutBytes_other _ _ _ _ (by omega)]

@[simp] theorem length_hbmBytes (m : List Host.Cell) (a n : Nat) : (hbmBytes m a n).length = n := by
  induction n generalizing a with
  | zero => rfl
  | succ n ih => simp [hbmBytes, ih]

/-! The canonical form. -/

theorem hbmPut_wf (m : List Host.Cell) (a : Nat) (b : Byte) (h : Memory.wf m = true) : Memory.wf (hbmPut m a b) = true := by
  simp only [hbmPut]
  split
  · rename_i ha
    simp only [Memory.wf, Bool.and_eq_true, List.all_eq_true, decide_eq_true_eq] at h ⊢
    refine ⟨SMap.canon_put m a 0 b h.1, ?_⟩
    intro e he
    simp only [SMap.put] at he
    split at he
    · exact h.2 e (List.mem_filter.mp he).1
    · rcases SMap.mem_insert he with rfl | he
      · exact ha
      · exact h.2 e he
  · exact h

theorem hbmPutBytes_wf (m : List Host.Cell) (a : Nat) (bs : List Byte) (h : Memory.wf m = true) :
    Memory.wf (hbmPutBytes m a bs) = true := by
  induction bs generalizing m a with
  | nil => exact h
  | cons b bs ih => exact ih _ _ (hbmPut_wf m a b h)

theorem hbmPutWords_wf (m : List Host.Cell) (a : Nat) (ws : List Nat) (h : Memory.wf m = true) :
    Memory.wf (hbmPutWords m a ws) = true := hbmPutBytes_wf m a _ h

theorem filter_wf (m : List Host.Cell) (p : Nat → Bool) (h : Memory.wf m = true) : Memory.wf (SMap.keep m p) = true := by
  simp only [Memory.wf, Bool.and_eq_true, List.all_eq_true, decide_eq_true_eq] at h ⊢
  exact ⟨SMap.canon_keep m p 0 h.1, fun e he => h.2 e (List.mem_filter.mp he).1⟩

theorem hbmClear_wf (m : List Host.Cell) (lo n : Nat) (h : Memory.wf m = true) : Memory.wf (hbmClear m lo n) = true :=
  filter_wf m _ h

/-- What a fold over memory keeps, if each of its steps does. -/
theorem foldl_wf {β : Type} (f : List Host.Cell → β → List Host.Cell) (hf : ∀ m x, Memory.wf m = true → Memory.wf (f m x) = true)
    (xs : List β) (m : List Host.Cell) (h : Memory.wf m = true) : Memory.wf (xs.foldl f m) = true := by
  induction xs generalizing m with
  | nil => exact h
  | cons x xs ih => exact ih _ (hf m x h)

theorem capRegs_wf (d : Dev) (m : List Host.Cell) (a lo n : Nat) (h : Memory.wf m = true) : Memory.wf (d.capRegs m a lo n) = true :=
  foldl_wf _ (fun m _ hm => hbmPutBytes_wf m _ _ hm) _ _ h

theorem capTables_wf (s : State) (die base : Nat) (h : Memory.wf s.hbm = true) : Memory.wf (capTables s die base) = true := by
  have hp : ∀ (m : List Host.Cell) (t n size off : Nat), Memory.wf m = true → Memory.wf
      ((upto n).foldl (fun m i => hbmPutWords m (base + off + i * size) ((s.dev.readEnt die t 0 die i).map (·.toNat))) m) = true :=
    fun m t n size off hm => foldl_wf _ (fun m _ hm => hbmPutWords_wf m _ _ hm) _ m hm
  exact hp _ _ _ _ _ (hp _ _ _ _ _ (hp _ _ _ _ _ h))

theorem capDie_wf (s : State) (a die : Nat) (h : Memory.wf s.hbm = true) : Memory.wf (capDie s a die) = true := by
  refine foldl_wf _ (fun m _ hm => hbmPutBytes_wf m _ _ hm) _ _ ?_
  exact capTables_wf _ _ _ (capRegs_wf _ _ _ _ _ h)

/-- HBM after power-good: nothing listed. -/
theorem nil_wf : Memory.wf ([] : List Host.Cell) = true := rfl

/-! State operations: what they leave of HBM. -/

/-- A read changes no byte. -/
theorem hbmRead_hbm (s : State) (a n cls : Nat) : (hbmRead s a n cls).1.hbm = s.hbm := by
  simp only [hbmRead, State.on_hbm]

/-- A read that finds no uncorrectable block answers the bytes that stand there. -/
theorem hbmRead_bytes (s : State) (a n cls : Nat) (bs : List Byte) (h : (hbmRead s a n cls).2 = some bs) :
    bs = hbmBytes s.hbm a n := by
  simp only [hbmRead] at h
  split at h
  · simpa using h.symm
  · simp at h

/-- Everything a write can do to HBM: its bytes, or nothing where it fails. -/
theorem hbmWrite_hbm (s : State) (a : Nat) (bs : List Byte) (cls : Nat) :
    ((hbmWrite s a bs cls).2 = true ∧ (hbmWrite s a bs cls).1.hbm = hbmPutBytes s.hbm a bs) ∨
    ((hbmWrite s a bs cls).2 = false ∧ (hbmWrite s a bs cls).1.hbm = s.hbm) := by
  simp only [hbmWrite]
  split
  · exact Or.inl ⟨rfl, rfl⟩
  · exact Or.inr ⟨rfl, rfl⟩

theorem hbmWrite_wf (s : State) (a : Nat) (bs : List Byte) (cls : Nat) (h : Memory.wf s.hbm = true) :
    Memory.wf (hbmWrite s a bs cls).1.hbm = true := by
  rcases hbmWrite_hbm s a bs cls with ⟨_, e⟩ | ⟨_, e⟩
  · rw [e]; exact hbmPutBytes_wf _ _ _ h
  · rw [e]; exact h

/-- The same, with a name for the state that it leaves. -/
theorem hbmWrite_put (s t : State) (a : Nat) (bs : List Byte) (cls : Nat) (e : (hbmWrite s a bs cls).1 = t) :
    t.hbm = hbmPutBytes s.hbm a bs ∨ t.hbm = s.hbm := by
  rw [← e]
  rcases hbmWrite_hbm s a bs cls with ⟨_, q⟩ | ⟨_, q⟩
  · exact Or.inl q
  · exact Or.inr q

theorem writeParts_wf (cls : Nat) (parts : List (Nat × Nat)) (s : State) (bs : List Byte) (h : Memory.wf s.hbm = true) :
    Memory.wf (writeParts cls s bs parts).1.hbm = true := by
  induction parts generalizing s bs with
  | nil => exact h
  | cons x t ih =>
    obtain ⟨a, n⟩ := x
    simp only [writeParts]
    have hw := hbmWrite_wf s a (bs.take n) cls h
    split <;> rename_i hs <;> rw [hs] at hw
    · exact hw
    · exact ih _ _ hw

theorem readParts_hbm (cls : Nat) (parts : List (Nat × Nat)) (s : State) : (readParts cls s parts).1.hbm = s.hbm := by
  induction parts generalizing s with
  | nil => rfl
  | cons x t ih =>
    obtain ⟨a, n⟩ := x
    simp only [readParts]
    have hr := hbmRead_hbm s a n cls
    split <;> rename_i hs <;> rw [hs] at hr
    · exact hr
    · have := ih (s := ‹State›)
      split <;> rename_i h2 <;> rw [h2] at this <;> exact this.trans hr

theorem poolAt_hbm (s : State) (die tenant a : Nat) (write : Bool) : (poolAt s die tenant a write).1.hbm = s.hbm := by
  simp only [poolAt]
  split
  · rfl
  · split <;> rfl

theorem poolParts_hbm (parts : List (Nat × Nat)) (s : State) (die tenant : Nat) (write : Bool) :
    (poolParts s die tenant write parts).1.hbm = s.hbm := by
  induction parts generalizing s with
  | nil => rfl
  | cons x t ih =>
    obtain ⟨a, n⟩ := x
    simp only [poolParts]
    have hr := poolAt_hbm s die tenant a write
    split <;> rename_i hs <;> rw [hs] at hr
    · exact hr
    · have := ih (s := ‹State›)
      split <;> rename_i h2 <;> rw [h2] at this <;> exact this.trans hr

/-- A read of pool bytes changes no byte. -/
theorem poolRead_hbm (s : State) (die tenant a n cls : Nat) : (poolRead s die tenant a n cls).1.hbm = s.hbm := by
  simp only [poolRead]
  have hp := poolParts_hbm (pageParts a n) s die tenant false
  split <;> rename_i hs <;> rw [hs] at hp
  · exact hp
  · split
    · rfl
    · exact (readParts_hbm _ _ _).trans hp

theorem poolWrite_wf (s : State) (die tenant a : Nat) (bs : List Byte) (cls : Nat) (h : Memory.wf s.hbm = true) :
    Memory.wf (poolWrite s die tenant a bs cls).1.hbm = true := by
  simp only [poolWrite]
  have hp := poolParts_hbm (pageParts a bs.length) s die tenant true
  split <;> rename_i hs <;> rw [hs] at hp
  · rw [hp]; exact h
  · split
    · exact h
    · exact writeParts_wf _ _ _ _ (hp ▸ h)

theorem letPut_wf (s : State) (pl slot : Nat) (ws : List Nat) (h : Memory.wf s.hbm = true) :
    Memory.wf (letPut s pl slot ws).hbm = true := hbmWrite_wf _ _ _ _ h

theorem pmapPut_wf (s : State) (die slot : Nat) (ws : List Nat) (h : Memory.wf s.hbm = true) :
    Memory.wf (pmapPut s die slot ws).1.hbm = true := hbmWrite_wf _ _ _ _ h

/-- What a fold over states keeps of HBM's form, if each of its steps does. -/
theorem foldl_state_wf {β : Type} (f : State → β → State) (hf : ∀ s x, Memory.wf s.hbm = true → Memory.wf (f s x).hbm = true)
    (xs : List β) (s : State) (h : Memory.wf s.hbm = true) : Memory.wf (xs.foldl f s).hbm = true := by
  induction xs generalizing s with
  | nil => exact h
  | cons x xs ih => exact ih _ (hf s x h)

/-- The same, with a name for what a step answers. -/
theorem foldl_state_wf' {β : Type} (f : State → β → State)
    (hf : ∀ s x t, f s x = t → Memory.wf s.hbm = true → Memory.wf t.hbm = true) (xs : List β) (s : State)
    (h : Memory.wf s.hbm = true) : Memory.wf (xs.foldl f s).hbm = true :=
  foldl_state_wf f (fun s x hs => hf s x _ rfl hs) xs s h

theorem capFree_wf (s : State) (a n : Nat) (h : Memory.wf s.hbm = true) : Memory.wf (capFree s a n).hbm = true :=
  hbmPutBytes_wf _ _ _ h

theorem capQueues_wf (s : State) (a die : Nat) (h : Memory.wf s.hbm = true) : Memory.wf (capQueues s a die).hbm = true := by
  rw [capQueues]
  generalize s.dev.capDflts die capNodes = q
  exact hbmPutBytes_wf _ _ _ h

theorem capSection_wf (s : State) (base die : Nat) (h : Memory.wf s.hbm = true) :
    Memory.wf (capSection s base die).hbm = true := by
  rw [capSection]
  refine capFree_wf _ _ _ (capQueues_wf _ _ _ ?_)
  simp only
  exact capDie_wf _ _ _ (hbmClear_wf _ _ _ h)

theorem capSections_wf (s : State) (base sections : Nat) (xs : List Nat) (h : Memory.wf s.hbm = true) :
    Memory.wf (xs.foldl (fun s n => if bit sections (1 + n) then capSection s base n else s) s).hbm = true := by
  refine foldl_state_wf _ ?_ xs s h
  intro s x hs
  split
  · exact capSection_wf s base x hs
  · exact hs

theorem capWrite_wf (s : State) (seq dom cause sections : Nat) (h : Memory.wf s.hbm = true) :
    Memory.wf (capWrite s seq dom cause sections).hbm = true := by
  rw [capWrite, State.on_hbm]
  refine capSections_wf _ _ _ _ (hbmPutBytes_wf _ _ _ ?_)
  split
  · exact capRegs_wf _ _ _ _ _ (hbmClear_wf _ _ _ h)
  · exact hbmClear_wf _ _ _ h

/-- A write that may have to wait for its class: the bytes stand, or nothing changes yet. -/
theorem hbmPost_wf (s : State) (a : Nat) (bs : List Byte) (cls : Nat) (h : Memory.wf s.hbm = true) :
    Memory.wf (hbmPost s a bs cls).hbm = true := by
  simp only [hbmPost]
  split
  · exact h
  · exact hbmWrite_wf _ _ _ _ h

theorem spillPut_wf (s : State) (die : Nat) (bs : List Byte) (cs : List Nat) (h : Memory.wf s.hbm = true) :
    Memory.wf (spillPut s die bs cs).hbm = true := by
  rw [spillPut]
  exact foldl_state_wf _ (fun _ _ hs => hbmWrite_wf _ _ _ _ hs) _ _ h

theorem scrubPage_wf (s : State) (page : Nat) (h : Memory.wf s.hbm = true) : Memory.wf (scrubPage s page).hbm = true := by
  rw [scrubPage]
  simp only
  rw [State.on_hbm]
  exact hbmClear_wf _ _ _ h

theorem letCleared_wf (s : State) (pl : Nat) (h : Memory.wf s.hbm = true) : Memory.wf (letCleared s pl).hbm = true := by
  rw [letCleared]
  refine foldl_state_wf' _ ?_ _ _ h
  intro s x t e hs
  have e' : letPut s pl x (setAt (letWords s pl x) 0 (putBits ((letWords s pl x).getD 0 0) 29 29 0)) = t := e
  rw [← e']
  exact letPut_wf _ _ _ _ hs

theorem pmapCleared_wf (s : State) (die : Nat) (h : Memory.wf s.hbm = true) : Memory.wf (pmapCleared s die).hbm = true := by
  rw [pmapCleared]
  refine foldl_state_wf' _ ?_ _ _ h
  intro s x t e hs
  rcases hbmWrite_put s t _ _ _ e with q | q
  all_goals rw [q]
  · exact hbmPutBytes_wf _ _ _ hs
  · exact hs

theorem tablesCleared_wf (s : State) (h : Memory.wf s.hbm = true) : Memory.wf (tablesCleared s).hbm = true := by
  rw [tablesCleared, State.on_hbm]
  exact foldl_state_wf _ (fun _ _ hs => pmapCleared_wf _ _ hs) _ _ (foldl_state_wf _ (fun _ _ hs => letCleared_wf _ _ hs) _ _ h)

theorem newTablesCleared_wf (s : State) (old : Dev) (h : Memory.wf s.hbm = true) :
    Memory.wf (newTablesCleared s old).hbm = true :=
  foldl_state_wf _ (fun _ _ hs => pmapCleared_wf _ _ hs) _ _ (foldl_state_wf _ (fun _ _ hs => letCleared_wf _ _ hs) _ _ h)

theorem zeroStack_wf (s : State) (hs : Nat) (h : Memory.wf s.hbm = true) : Memory.wf (zeroStack s hs).hbm = true :=
  hbmClear_wf _ _ _ h

end Sys2Proof.Machine
end

