-- ==== Sys2Proof/Laws/Regs.lean ====
section
/-! SUPPORT. Laws of registers: a read after a write, other registers untouched, fields and counters. -/

namespace Sys2Proof.Machine

/-! Keys. -/

theorem Reg.ctorIdx_lt (r : Reg) : r.ctorIdx < 512 := by cases r <;> decide

/-- A key names one register and one index. -/
theorem rk_inj {r q : Reg} {i j : Nat} : rk r i = rk q j ↔ r = q ∧ i = j := by
  constructor
  · intro h
    have hr := Reg.ctorIdx_lt r
    have hq := Reg.ctorIdx_lt q
    simp only [rk] at h
    have hc : r.ctorIdx = q.ctorIdx := by omega
    refine ⟨?_, by omega⟩
    rw [← Reg.ofNat_ctorIdx r, hc, Reg.ofNat_ctorIdx]
  · rintro ⟨rfl, rfl⟩
    rfl

/-! Whole registers. -/

@[simp] theorem Dev.rd_wr_same (d : Dev) (r : Reg) (i : Nat) (v : Word) : (d.wr r i v).rd r i = v := by
  simp [Dev.rd, Dev.wr]

theorem Dev.rd_wr_other (d : Dev) {r q : Reg} {i j : Nat} (v : Word) (h : ¬(q = r ∧ j = i)) :
    (d.wr r i v).rd q j = d.rd q j := by
  simp only [Dev.rd, Dev.wr]
  exact SMap.getD_put_other d.regs _ v _ (fun e => h (rk_inj.mp e))

/-- Every read after a write. -/
theorem Dev.rd_wr (d : Dev) (r q : Reg) (i j : Nat) (v : Word) :
    (d.wr r i v).rd q j = if q = r ∧ j = i then v else d.rd q j := by
  split
  · rename_i h; rw [h.1, h.2, Dev.rd_wr_same]
  · rename_i h; exact Dev.rd_wr_other d v h

@[simp] theorem Dev.rd_emit (d : Dev) (o : Out) (r : Reg) (i : Nat) : (d.emit o).rd r i = d.rd r i := rfl
@[simp] theorem Dev.rd_free (d : Dev) (r : Reg) (i : Nat) : d.free.2.rd r i = d.rd r i := rfl

/-! A register reads the same whatever else of the device changes. -/

/-- A read looks at the registers only. -/
theorem Dev.rd_congr {d e : Dev} (h : d.regs = e.regs) (r : Reg) (i : Nat) : d.rd r i = e.rd r i := by rw [Dev.rd, Dev.rd, h]

@[simp] theorem Dev.rd_with_shadow (d : Dev) (x) (r : Reg) (i : Nat) : ({ d with shadow := x } : Dev).rd r i = d.rd r i := rfl
@[simp] theorem Dev.rd_with_latch (d : Dev) (x) (r : Reg) (i : Nat) : ({ d with latch := x } : Dev).rd r i = d.rd r i := rfl
@[simp] theorem Dev.rd_with_freeCtr (d : Dev) (x) (r : Reg) (i : Nat) : ({ d with freeCtr := x } : Dev).rd r i = d.rd r i := rfl
@[simp] theorem Dev.rd_with_out (d : Dev) (x) (r : Reg) (i : Nat) : ({ d with out := x } : Dev).rd r i = d.rd r i := rfl
@[simp] theorem Dev.rd_with_ocuFresh (d : Dev) (x) (r : Reg) (i : Nat) : ({ d with ocuFresh := x } : Dev).rd r i = d.rd r i := rfl
@[simp] theorem Dev.rd_with_bwFresh (d : Dev) (x) (r : Reg) (i : Nat) : ({ d with bwFresh := x } : Dev).rd r i = d.rd r i := rfl
@[simp] theorem Dev.rd_with_bwOpen (d : Dev) (x) (r : Reg) (i : Nat) : ({ d with bwOpen := x } : Dev).rd r i = d.rd r i := rfl
@[simp] theorem Dev.rd_with_pages (d : Dev) (x) (r : Reg) (i : Nat) : ({ d with pages := x } : Dev).rd r i = d.rd r i := rfl
@[simp] theorem Dev.rd_with_time (d : Dev) (x) (r : Reg) (i : Nat) : ({ d with time := x } : Dev).rd r i = d.rd r i := rfl
@[simp] theorem Dev.rd_with_rcd (d : Dev) (x) (r : Reg) (i : Nat) : ({ d with rcd := x } : Dev).rd r i = d.rd r i := rfl
@[simp] theorem Dev.rd_with_link (d : Dev) (x) (r : Reg) (i : Nat) : ({ d with link := x } : Dev).rd r i = d.rd r i := rfl
@[simp] theorem Dev.rd_with_lan (d : Dev) (x) (r : Reg) (i : Nat) : ({ d with lan := x } : Dev).rd r i = d.rd r i := rfl
@[simp] theorem Dev.rd_with_keep (d : Dev) (x) (r : Reg) (i : Nat) : ({ d with keep := x } : Dev).rd r i = d.rd r i := rfl
@[simp] theorem Dev.rd_with_fwd (d : Dev) (x) (r : Reg) (i : Nat) : ({ d with fwd := x } : Dev).rd r i = d.rd r i := rfl
@[simp] theorem Dev.rd_with_tab (d : Dev) (x) (r : Reg) (i : Nat) : ({ d with tab := x } : Dev).rd r i = d.rd r i := rfl
@[simp] theorem Dev.rd_with_sch (d : Dev) (x) (r : Reg) (i : Nat) : ({ d with sch := x } : Dev).rd r i = d.rd r i := rfl
@[simp] theorem Dev.rd_with_col (d : Dev) (x) (r : Reg) (i : Nat) : ({ d with col := x } : Dev).rd r i = d.rd r i := rfl
@[simp] theorem Dev.rd_with_sen (d : Dev) (x) (r : Reg) (i : Nat) : ({ d with sen := x } : Dev).rd r i = d.rd r i := rfl
@[simp] theorem Dev.rd_with_rng (d : Dev) (x) (r : Reg) (i : Nat) : ({ d with rng := x } : Dev).rd r i = d.rd r i := rfl
@[simp] theorem Dev.rd_with_mem (d : Dev) (x) (r : Reg) (i : Nat) : ({ d with mem := x } : Dev).rd r i = d.rd r i := rfl
@[simp] theorem Dev.rd_with_emb (d : Dev) (x) (r : Reg) (i : Nat) : ({ d with emb := x } : Dev).rd r i = d.rd r i := rfl
@[simp] theorem Dev.rd_with_flt (d : Dev) (x) (r : Reg) (i : Nat) : ({ d with flt := x } : Dev).rd r i = d.rd r i := rfl
@[simp] theorem Dev.rd_with_boot (d : Dev) (x) (r : Reg) (i : Nat) : ({ d with boot := x } : Dev).rd r i = d.rd r i := rfl
@[simp] theorem Dev.rd_with_mgt (d : Dev) (x) (r : Reg) (i : Nat) : ({ d with mgt := x } : Dev).rd r i = d.rd r i := rfl
@[simp] theorem Dev.rd_with_pwr (d : Dev) (x) (r : Reg) (i : Nat) : ({ d with pwr := x } : Dev).rd r i = d.rd r i := rfl
@[simp] theorem Dev.rd_with_ue (d : Dev) (x) (r : Reg) (i : Nat) : ({ d with ue := x } : Dev).rd r i = d.rd r i := rfl
@[simp] theorem Dev.rd_with_hostA (d : Dev) (x) (r : Reg) (i : Nat) : ({ d with hostA := x } : Dev).rd r i = d.rd r i := rfl
@[simp] theorem Dev.rd_with_hostB (d : Dev) (x) (r : Reg) (i : Nat) : ({ d with hostB := x } : Dev).rd r i = d.rd r i := rfl

/-! Fields. -/

/-- Bits [hi:lo] by the part of the number below bit hi + 1. -/
theorem bits_eq_mod (n : Nat) {hi lo : Nat} (h : lo ≤ hi + 1) : bits n hi lo = n % 2 ^ (hi + 1) / 2 ^ lo := by
  have e : 2 ^ (hi + 1) = 2 ^ lo * 2 ^ (hi + 1 - lo) := by rw [← pow_add]; congr 1; omega
  rw [bits, e, Nat.mod_mul_right_div_self]

/-- What is put below bit hi + 1 does not reach it. -/
theorem putBits_low_lt (n v : Nat) {hi lo : Nat} (h : lo ≤ hi + 1) :
    v % 2 ^ (hi + 1 - lo) * 2 ^ lo + n % 2 ^ lo < 2 ^ (hi + 1) := by
  have e : 2 ^ (hi + 1) = 2 ^ (hi + 1 - lo) * 2 ^ lo := by rw [← pow_add]; congr 1; omega
  have h1 : v % 2 ^ (hi + 1 - lo) < 2 ^ (hi + 1 - lo) := Nat.mod_lt _ (by positivity)
  have h2 : n % 2 ^ lo < 2 ^ lo := Nat.mod_lt _ (by positivity)
  rw [e]
  calc v % 2 ^ (hi + 1 - lo) * 2 ^ lo + n % 2 ^ lo < v % 2 ^ (hi + 1 - lo) * 2 ^ lo + 2 ^ lo := by omega
    _ = (v % 2 ^ (hi + 1 - lo) + 1) * 2 ^ lo := by ring
    _ ≤ 2 ^ (hi + 1 - lo) * 2 ^ lo := Nat.mul_le_mul_right _ h1

/-- The bits put read back. -/
theorem bits_putBits_same (n v : Nat) {hi lo : Nat} (h : lo ≤ hi) :
    bits (putBits n hi lo v) hi lo = v % 2 ^ (hi + 1 - lo) := by
  have hl := putBits_low_lt n v (hi := hi) (lo := lo) (by omega)
  have hr : n % 2 ^ lo < 2 ^ lo := Nat.mod_lt _ (by positivity)
  rw [bits_eq_mod _ (by omega), putBits, Nat.add_assoc, Nat.mul_comm (n / 2 ^ (hi + 1)), Nat.mul_add_mod, Nat.mod_eq_of_lt hl, Nat.mul_comm _ (2 ^ lo),
    Nat.mul_add_div (by positivity), Nat.div_eq_of_lt hr, Nat.add_zero]

/-- Bits above the field read as before. -/
theorem bits_putBits_above (n v : Nat) {hi lo h l : Nat} (hl : lo ≤ hi) (h2 : hi < l) :
    bits (putBits n hi lo v) h l = bits n h l := by
  have hlt := putBits_low_lt n v (hi := hi) (lo := lo) (by omega)
  have e : 2 ^ l = 2 ^ (hi + 1) * 2 ^ (l - (hi + 1)) := by rw [← pow_add]; congr 1; omega
  have hd : putBits n hi lo v / 2 ^ (hi + 1) = n / 2 ^ (hi + 1) := by
    rw [putBits, Nat.add_assoc, Nat.mul_comm, Nat.mul_add_div (by positivity), Nat.div_eq_of_lt hlt, Nat.add_zero]
  rw [bits, bits, e, ← Nat.div_div_eq_div_mul, ← Nat.div_div_eq_div_mul, hd]

/-- Bits below the field read as before. -/
theorem bits_putBits_below (n v : Nat) {hi lo h l : Nat} (hl : lo ≤ hi) (h2 : h < lo) (h3 : l ≤ h) :
    bits (putBits n hi lo v) h l = bits n h l := by
  rw [bits_eq_mod _ (by omega), bits_eq_mod _ (by omega)]
  congr 1
  have e1 : (2 : Nat) ^ (h + 1) ∣ 2 ^ (hi + 1) := pow_dvd_pow 2 (by omega)
  have e2 : (2 : Nat) ^ (h + 1) ∣ 2 ^ lo := pow_dvd_pow 2 (by omega)
  rw [putBits, Nat.add_assoc, Nat.add_mod, Nat.mod_eq_zero_of_dvd (Dvd.dvd.mul_left e1 _), Nat.zero_add, Nat.mod_mod,
    Nat.add_mod, Nat.mod_eq_zero_of_dvd (Dvd.dvd.mul_left e2 _), Nat.zero_add, Nat.mod_mod, Nat.mod_mod_of_dvd _ e2]

/-- A field put into a word stays a word. -/
theorem putBits_lt (n v : Nat) {hi lo : Nat} (h : lo ≤ hi) (h2 : hi < 32) (hn : n < 2 ^ 32) : putBits n hi lo v < 2 ^ 32 := by
  have hlt := putBits_low_lt n v (hi := hi) (lo := lo) (by omega)
  have e : 2 ^ 32 = 2 ^ (31 - hi) * 2 ^ (hi + 1) := by rw [← pow_add]; congr 1; omega
  have hq : n / 2 ^ (hi + 1) < 2 ^ (31 - hi) := Nat.div_lt_of_lt_mul (by rw [Nat.mul_comm, ← e]; exact hn)
  rw [putBits, Nat.add_assoc, e]
  calc _ < n / 2 ^ (hi + 1) * 2 ^ (hi + 1) + 2 ^ (hi + 1) := by omega
    _ = (n / 2 ^ (hi + 1) + 1) * 2 ^ (hi + 1) := by ring
    _ ≤ _ := Nat.mul_le_mul_right _ hq

theorem toNat_word (n : Nat) (h : n < 2 ^ 32) : (word n).toNat = n := by simpa [word] using Nat.mod_eq_of_lt h

theorem toNat_putFld (w : Word) (hi lo v : Nat) (h : lo ≤ hi) (h2 : hi < 32) :
    (putFld w hi lo v).toNat = putBits w.toNat hi lo v := toNat_word _ (putBits_lt _ _ h h2 w.isLt)

/-- A field reads what was put. -/
theorem fld_putFld_same (w : Word) (hi lo v : Nat) (h : lo ≤ hi) (h2 : hi < 32) :
    fld (putFld w hi lo v) hi lo = v % 2 ^ (hi + 1 - lo) := by
  rw [fld, toNat_putFld w hi lo v h h2, bits_putBits_same _ _ h]

/-- Fields apart from the one put read as before. -/
theorem fld_putFld_other (w : Word) (hi lo v x y : Nat) (h : lo ≤ hi) (h2 : hi < 32) (h3 : y ≤ x) (h4 : hi < y ∨ x < lo) :
    fld (putFld w hi lo v) x y = fld w x y := by
  rw [fld, toNat_putFld w hi lo v h h2, fld]
  rcases h4 with h4 | h4
  · exact bits_putBits_above _ _ h h4
  · exact bits_putBits_below _ _ h h4 h3

/-- A bit is the field of one bit. -/
theorem wbit_iff (w : Word) (b : Nat) : wbit w b = (fld w b b == 1) := by simp [wbit, bit, fld, bits]

theorem wbit_putBit_same (w : Word) (b : Nat) (v : Bool) (h : b < 32) : wbit (putBit w b v) b = v := by
  rw [wbit_iff, putBit, fld_putFld_same w b b _ (le_refl b) h]
  cases v <;> simp [b2n]

theorem wbit_putBit_other (w : Word) (b c : Nat) (v : Bool) (h : b < 32) (hc : c ≠ b) : wbit (putBit w b v) c = wbit w c := by
  rw [wbit_iff, wbit_iff, putBit, fld_putFld_other w b b _ c c (le_refl b) h (le_refl c) (by omega)]

theorem wbit_putFld_other (w : Word) (hi lo v c : Nat) (h : lo ≤ hi) (h2 : hi < 32) (h3 : hi < c ∨ c < lo) :
    wbit (putFld w hi lo v) c = wbit w c := by
  rw [wbit_iff, wbit_iff, fld_putFld_other w hi lo v c c h h2 (le_refl c) h3]

theorem fld_putBit_other (w : Word) (b x y : Nat) (v : Bool) (h : b < 32) (h2 : y ≤ x) (h3 : b < y ∨ x < b) :
    fld (putBit w b v) x y = fld w x y := fld_putFld_other w b b _ x y (le_refl b) h h2 h3

/-! Fields of registers. -/

theorem Dev.rdF_wrF_same (d : Dev) (r : Reg) (i hi lo v : Nat) (h : lo ≤ hi) (h2 : hi < 32) :
    (d.wrF r i hi lo v).rdF r i hi lo = v % 2 ^ (hi + 1 - lo) := by
  rw [Dev.rdF, Dev.wrF, Dev.rd_wr_same, fld_putFld_same _ _ _ _ h h2]

theorem Dev.rdB_wrB_same (d : Dev) (r : Reg) (i b : Nat) (v : Bool) (h : b < 32) : (d.wrB r i b v).rdB r i b = v := by
  rw [Dev.rdB, Dev.wrB, Dev.rd_wr_same, wbit_putBit_same _ _ _ h]

theorem Dev.rdB_wrB_other (d : Dev) (r : Reg) (i b c : Nat) (v : Bool) (h : b < 32) (hc : c ≠ b) :
    (d.wrB r i b v).rdB r i c = d.rdB r i c := by
  rw [Dev.rdB, Dev.wrB, Dev.rd_wr_same, wbit_putBit_other _ _ _ _ h hc, Dev.rdB]

theorem Dev.rd_wrF (d : Dev) (r q : Reg) (i j hi lo v : Nat) :
    (d.wrF r i hi lo v).rd q j = if q = r ∧ j = i then putFld (d.rd r i) hi lo v else d.rd q j := Dev.rd_wr d r q i j _

theorem Dev.rd_wrB (d : Dev) (r q : Reg) (i j b : Nat) (v : Bool) :
    (d.wrB r i b v).rd q j = if q = r ∧ j = i then putBit (d.rd r i) b v else d.rd q j := Dev.rd_wr d r q i j _

/-! Counters: they saturate (00 R4). -/

theorem Dev.rdN_bumpN_same (d : Dev) (r : Reg) (i n : Nat) : (d.bumpN r i n).rdN r i = min 0xFFFFFFFF (d.rdN r i + n) := by
  rw [Dev.rdN, Dev.bumpN, Dev.rd_wr_same]
  exact toNat_word _ (by omega)

theorem Dev.rd_bumpN_other (d : Dev) {r q : Reg} {i j : Nat} (n : Nat) (h : ¬(q = r ∧ j = i)) :
    (d.bumpN r i n).rd q j = d.rd q j := Dev.rd_wr_other d _ h

theorem Dev.rdN_bump_same (d : Dev) (r : Reg) (i : Nat) : (d.bump r i).rdN r i = min 0xFFFFFFFF (d.rdN r i + 1) :=
  Dev.rdN_bumpN_same d r i 1

theorem Dev.rd_bump_other (d : Dev) {r q : Reg} {i j : Nat} (h : ¬(q = r ∧ j = i)) : (d.bump r i).rd q j = d.rd q j :=
  Dev.rd_bumpN_other d 1 h

end Sys2Proof.Machine
end

