-- ==== Sys2Proof/Laws/Ops.lean ====
section
/-! SUPPORT. What the shared operations do, said once: events, control writes, link-layer records and units of power. -/

namespace Sys2Proof.Machine

/-! Offering an event (17 R434, R440). -/

/-- Everything that offering an event can do: nothing, count a refusal, count a loss, or queue it. -/
theorem Dev.raise_cases (d : Dev) (origin code sev : Nat) (w : List Nat) :
    (d.raise origin code sev w = d) ∨
    (∃ r, d.raise origin code sev w = { d with rcd := r }) ∨
    (d.raise origin code sev w = d.bump .evrDropIn 0) := by
  simp only [Dev.raise]
  split
  · exact Or.inl rfl
  · split
    · exact Or.inr (Or.inl ⟨_, rfl⟩)
    · split
      · exact Or.inr (Or.inr rfl)
      · exact Or.inr (Or.inl ⟨_, rfl⟩)

/-- An event offered changes no register but the count of events lost at the origins. -/
theorem Dev.rd_raise (d : Dev) (origin code sev : Nat) (w : List Nat) {q : Reg} {j : Nat} (h : q ≠ .evrDropIn) :
    (d.raise origin code sev w).rd q j = d.rd q j := by
  rcases Dev.raise_cases d origin code sev w with e | ⟨r, e⟩ | e
  · rw [e]
  · rw [e]; rfl
  · rw [e]; exact Dev.rd_bump_other d (fun x => h x.1)

@[simp] theorem Dev.raise_shadow (d : Dev) (origin code sev : Nat) (w : List Nat) : (d.raise origin code sev w).shadow = d.shadow := by
  rcases Dev.raise_cases d origin code sev w with e | ⟨r, e⟩ | e
  all_goals rw [e]
  all_goals rfl
@[simp] theorem Dev.raise_latch (d : Dev) (origin code sev : Nat) (w : List Nat) : (d.raise origin code sev w).latch = d.latch := by
  rcases Dev.raise_cases d origin code sev w with e | ⟨r, e⟩ | e
  all_goals rw [e]
  all_goals rfl
@[simp] theorem Dev.raise_freeCtr (d : Dev) (origin code sev : Nat) (w : List Nat) : (d.raise origin code sev w).freeCtr = d.freeCtr := by
  rcases Dev.raise_cases d origin code sev w with e | ⟨r, e⟩ | e
  all_goals rw [e]
  all_goals rfl
@[simp] theorem Dev.raise_out (d : Dev) (origin code sev : Nat) (w : List Nat) : (d.raise origin code sev w).out = d.out := by
  rcases Dev.raise_cases d origin code sev w with e | ⟨r, e⟩ | e
  all_goals rw [e]
  all_goals rfl
@[simp] theorem Dev.raise_ocuFresh (d : Dev) (origin code sev : Nat) (w : List Nat) : (d.raise origin code sev w).ocuFresh = d.ocuFresh := by
  rcases Dev.raise_cases d origin code sev w with e | ⟨r, e⟩ | e
  all_goals rw [e]
  all_goals rfl
@[simp] theorem Dev.raise_bwFresh (d : Dev) (origin code sev : Nat) (w : List Nat) : (d.raise origin code sev w).bwFresh = d.bwFresh := by
  rcases Dev.raise_cases d origin code sev w with e | ⟨r, e⟩ | e
  all_goals rw [e]
  all_goals rfl
@[simp] theorem Dev.raise_bwOpen (d : Dev) (origin code sev : Nat) (w : List Nat) : (d.raise origin code sev w).bwOpen = d.bwOpen := by
  rcases Dev.raise_cases d origin code sev w with e | ⟨r, e⟩ | e
  all_goals rw [e]
  all_goals rfl
@[simp] theorem Dev.raise_pages (d : Dev) (origin code sev : Nat) (w : List Nat) : (d.raise origin code sev w).pages = d.pages := by
  rcases Dev.raise_cases d origin code sev w with e | ⟨r, e⟩ | e
  all_goals rw [e]
  all_goals rfl
@[simp] theorem Dev.raise_time (d : Dev) (origin code sev : Nat) (w : List Nat) : (d.raise origin code sev w).time = d.time := by
  rcases Dev.raise_cases d origin code sev w with e | ⟨r, e⟩ | e
  all_goals rw [e]
  all_goals rfl
@[simp] theorem Dev.raise_link (d : Dev) (origin code sev : Nat) (w : List Nat) : (d.raise origin code sev w).link = d.link := by
  rcases Dev.raise_cases d origin code sev w with e | ⟨r, e⟩ | e
  all_goals rw [e]
  all_goals rfl
@[simp] theorem Dev.raise_lan (d : Dev) (origin code sev : Nat) (w : List Nat) : (d.raise origin code sev w).lan = d.lan := by
  rcases Dev.raise_cases d origin code sev w with e | ⟨r, e⟩ | e
  all_goals rw [e]
  all_goals rfl
@[simp] theorem Dev.raise_keep (d : Dev) (origin code sev : Nat) (w : List Nat) : (d.raise origin code sev w).keep = d.keep := by
  rcases Dev.raise_cases d origin code sev w with e | ⟨r, e⟩ | e
  all_goals rw [e]
  all_goals rfl
@[simp] theorem Dev.raise_fwd (d : Dev) (origin code sev : Nat) (w : List Nat) : (d.raise origin code sev w).fwd = d.fwd := by
  rcases Dev.raise_cases d origin code sev w with e | ⟨r, e⟩ | e
  all_goals rw [e]
  all_goals rfl
@[simp] theorem Dev.raise_tab (d : Dev) (origin code sev : Nat) (w : List Nat) : (d.raise origin code sev w).tab = d.tab := by
  rcases Dev.raise_cases d origin code sev w with e | ⟨r, e⟩ | e
  all_goals rw [e]
  all_goals rfl
@[simp] theorem Dev.raise_sch (d : Dev) (origin code sev : Nat) (w : List Nat) : (d.raise origin code sev w).sch = d.sch := by
  rcases Dev.raise_cases d origin code sev w with e | ⟨r, e⟩ | e
  all_goals rw [e]
  all_goals rfl
@[simp] theorem Dev.raise_col (d : Dev) (origin code sev : Nat) (w : List Nat) : (d.raise origin code sev w).col = d.col := by
  rcases Dev.raise_cases d origin code sev w with e | ⟨r, e⟩ | e
  all_goals rw [e]
  all_goals rfl
@[simp] theorem Dev.raise_sen (d : Dev) (origin code sev : Nat) (w : List Nat) : (d.raise origin code sev w).sen = d.sen := by
  rcases Dev.raise_cases d origin code sev w with e | ⟨r, e⟩ | e
  all_goals rw [e]
  all_goals rfl
@[simp] theorem Dev.raise_rng (d : Dev) (origin code sev : Nat) (w : List Nat) : (d.raise origin code sev w).rng = d.rng := by
  rcases Dev.raise_cases d origin code sev w with e | ⟨r, e⟩ | e
  all_goals rw [e]
  all_goals rfl
@[simp] theorem Dev.raise_mem (d : Dev) (origin code sev : Nat) (w : List Nat) : (d.raise origin code sev w).mem = d.mem := by
  rcases Dev.raise_cases d origin code sev w with e | ⟨r, e⟩ | e
  all_goals rw [e]
  all_goals rfl
@[simp] theorem Dev.raise_emb (d : Dev) (origin code sev : Nat) (w : List Nat) : (d.raise origin code sev w).emb = d.emb := by
  rcases Dev.raise_cases d origin code sev w with e | ⟨r, e⟩ | e
  all_goals rw [e]
  all_goals rfl
@[simp] theorem Dev.raise_flt (d : Dev) (origin code sev : Nat) (w : List Nat) : (d.raise origin code sev w).flt = d.flt := by
  rcases Dev.raise_cases d origin code sev w with e | ⟨r, e⟩ | e
  all_goals rw [e]
  all_goals rfl
@[simp] theorem Dev.raise_boot (d : Dev) (origin code sev : Nat) (w : List Nat) : (d.raise origin code sev w).boot = d.boot := by
  rcases Dev.raise_cases d origin code sev w with e | ⟨r, e⟩ | e
  all_goals rw [e]
  all_goals rfl
@[simp] theorem Dev.raise_mgt (d : Dev) (origin code sev : Nat) (w : List Nat) : (d.raise origin code sev w).mgt = d.mgt := by
  rcases Dev.raise_cases d origin code sev w with e | ⟨r, e⟩ | e
  all_goals rw [e]
  all_goals rfl
@[simp] theorem Dev.raise_pwr (d : Dev) (origin code sev : Nat) (w : List Nat) : (d.raise origin code sev w).pwr = d.pwr := by
  rcases Dev.raise_cases d origin code sev w with e | ⟨r, e⟩ | e
  all_goals rw [e]
  all_goals rfl
@[simp] theorem Dev.raise_ue (d : Dev) (origin code sev : Nat) (w : List Nat) : (d.raise origin code sev w).ue = d.ue := by
  rcases Dev.raise_cases d origin code sev w with e | ⟨r, e⟩ | e
  all_goals rw [e]
  all_goals rfl
@[simp] theorem Dev.raise_halves (d : Dev) (origin code sev : Nat) (w : List Nat) : (d.raise origin code sev w).halves = d.halves := by
  rcases Dev.raise_cases d origin code sev w with e | ⟨r, e⟩ | e
  all_goals rw [e]
  all_goals rfl
@[simp] theorem Dev.raise_ce (d : Dev) (origin code sev : Nat) (w : List Nat) : (d.raise origin code sev w).ce = d.ce := by
  rcases Dev.raise_cases d origin code sev w with e | ⟨r, e⟩ | e
  all_goals rw [e]
  all_goals rfl
@[simp] theorem Dev.raise_chanErr (d : Dev) (origin code sev : Nat) (w : List Nat) : (d.raise origin code sev w).chanErr = d.chanErr := by
  rcases Dev.raise_cases d origin code sev w with e | ⟨r, e⟩ | e
  all_goals rw [e]
  all_goals rfl
@[simp] theorem Dev.raise_chanRetry (d : Dev) (origin code sev : Nat) (w : List Nat) : (d.raise origin code sev w).chanRetry = d.chanRetry := by
  rcases Dev.raise_cases d origin code sev w with e | ⟨r, e⟩ | e
  all_goals rw [e]
  all_goals rfl
@[simp] theorem Dev.raise_hostA (d : Dev) (origin code sev : Nat) (w : List Nat) : (d.raise origin code sev w).hostA = d.hostA := by
  rcases Dev.raise_cases d origin code sev w with e | ⟨r, e⟩ | e
  all_goals rw [e]
  all_goals rfl
@[simp] theorem Dev.raise_hostB (d : Dev) (origin code sev : Nat) (w : List Nat) : (d.raise origin code sev w).hostB = d.hostB := by
  rcases Dev.raise_cases d origin code sev w with e | ⟨r, e⟩ | e
  all_goals rw [e]
  all_goals rfl

/-! Control writes (19 R471). -/

/-- A control write that is granted is performed. -/
theorem Dev.ctl_granted (d : Dev) (who : Partner) (off : Nat) (f : Dev → Dev) (h : d.granted who off = true) :
    d.ctl who off f = f d := by
  rw [Dev.granted, Bool.and_eq_true] at h
  simp [Dev.ctl, h.1, h.2]

/-- A control write that reaches its register and is not allowed is dropped, with its violation recorded for the host. -/
theorem Dev.ctl_refused (d : Dev) (who : Partner) (off h : Nat) (f : Dev → Dev) (hr : d.reaches who off = true)
    (hn : d.mayWrite who off = false) (hh : who.host = some h) : d.ctl who off f = d.violation h off := by
  simp [Dev.ctl, hr, hn, hh]

/-! The link layer of a port. -/

@[simp] theorem Dev.port_setPort_same (d : Dev) (lp : Nat) (p : Port) : (d.setPort lp p).port lp = p := by
  simp [Dev.port, Dev.setPort, SMap.getD, SMap.find?_insert_same]

theorem Dev.port_setPort_other (d : Dev) {lp x : Nat} (p : Port) (h : x ≠ lp) : (d.setPort lp p).port x = d.port x := by
  simp [Dev.port, Dev.setPort, SMap.getD, SMap.find?_insert_other _ _ h]

@[simp] theorem Dev.rd_setPort (d : Dev) (lp : Nat) (p : Port) (r : Reg) (i : Nat) : (d.setPort lp p).rd r i = d.rd r i := rfl
@[simp] theorem Dev.port_wr (d : Dev) (r : Reg) (i : Nat) (v : Word) (lp : Nat) : (d.wr r i v).port lp = d.port lp := rfl

end Sys2Proof.Machine
end

