-- ==== Sys2Proof/WellFormed.lean ====
section
/-! DEFINITION. Which commands are well formed: their operands are as wide as the spec makes them. The device's meanings do
not rest on it: a field that is too wide cannot stand in any register, packet or record that the spec describes. -/

namespace Sys2Proof

/-- A packet whose header fields fit Table 3-4 and whose payload is not longer than its length says (03 R74). -/
def pktOk (p : Pkt) : Bool :=
  decide (p.op < 2 ^ 8) && decide (p.hops < 2 ^ 4) && decide (p.tclass < 2 ^ 3) && decide (p.gen < 2) && decide (p.rsvA < 2) &&
    decide (p.len ≤ 4096) && decide (p.did < 2 ^ 20) && decide (p.sid < 2 ^ 20) && decide (p.tenant < 2 ^ 16) &&
    decide (p.rsvB < 2 ^ 8) && decide (p.flow < 2 ^ 16) && decide (p.tag < 2 ^ 16) && decide (p.opf < 2 ^ 64) &&
    decide (p.vc < 8) && decide (p.payload.length ≤ p.len)

/-- A TS_IDENT whose fields fit Table 3-12. -/
def identOk (r : Ident) : Bool :=
  decide (r.lane < 9) && decide (r.named < 16) && decide (r.version < 2 ^ 16) && decide (r.devId < 2 ^ 64) &&
    decide (r.word16 < 2 ^ 32) && decide (r.word20 < 2 ^ 32)

/-- What a host's memory answers: at most one progress unit (13 Table 13-9). -/
def hostOk (h : HostData) : Bool :=
  match h with
  | some bs => decide (bs.length ≤ 4096)
  | none => true

/-- An offset that a register access can name: in BAR0 or in BAR2 behind it (19 R467), a multiple of 4. -/
def offOk (off : Nat) : Bool := decide (off < 2 ^ 26 + 2 ^ 28) && decide (off % 4 = 0)

/-- An access to register space (00 R3): 1 to 8 bytes at an offset in BAR0 or BAR2. -/
def accessOk (off width : Nat) : Bool :=
  decide (off < 2 ^ 26 + 2 ^ 28) && decide (1 ≤ width) && decide (width ≤ 8)

/-- The runs of a pattern vector on a die of the device: one and at most two repeats. -/
def runOk (x : VectorRun) : Bool := decide (x.die < 8) && decide (x.bad.length ≤ 3)

/-- An operation of a vendor-defined message that names a register, or bytes inside the staging area (16 R422). -/
def vdmOk (o : VdmOp) : Bool :=
  match o with
  | .read off => offOk off
  | .write off _ => offOk off
  | .stage off bs => decide (off + bs.length ≤ 2 ^ 27)
  | .memory p => pktOk p
  | .hostRead _ addr n _ => decide (addr + n ≤ 2 ^ 64)
  | .hostWrite _ addr bs => decide (addr + bs.length ≤ 2 ^ 64)
  | .protect off n => decide (0x8000000 ≤ off) && decide (1 ≤ n) && decide (off + n ≤ 0x8040000)

/-- A configuration request with a size that BAR4 offers (19 Table 19-2). -/
def cfgOk (r : CfgReq) : Bool :=
  match r with
  | .bar4Size log => decide (30 ≤ log) && decide (log ≤ 36)
  | _ => true

/-- A command is well formed. -/
def Instr.wellFormed (i : Instr) : Bool :=
  match i with
  | .bell _ => true
  | .timIncHiWrite _ _ => true
  | .step _ => true
  | .holdoverSet _ => true
  | .holdoverTimeout => true
  | .timCommit _ _ => true
  | .commitValidation _ => true
  | .timCmtCancel _ _ => true
  | .timCmtDiscard _ _ => true
  | .ppsInEdge => true
  | .ppsOutPulse => true
  | .ppsOutEnd => true
  | .belfryPtpSend _ p => pktOk p
  | .groupReceived _ _ pair => decide (pair.length = 1160)
  | .sendGroup _ => true
  | .replay _ => true
  | .ackStallTimeout _ => true
  | .tsAlign _ _ named version _ skew => decide (named < 16) && decide (version < 2 ^ 16) && decide (skew < 2 ^ 16)
  | .tsIdent _ r _ => identOk r
  | .tsParam _ version _ credits => decide (version < 2 ^ 16) && (decide (credits.length = 8) && credits.all fun c => decide (c < 2 ^ 16))
  | .tsAck _ version _ _ => decide (version < 2 ^ 16)
  | .linkDown _ version _ => decide (version < 2 ^ 16)
  | .trainingResend _ => true
  | .trainingTimeout _ => true
  | .fecAlignTimeout _ => true
  | .heartbeatTimeout _ => true
  | .holdoffEnd _ => true
  | .leaveDown _ => true
  | .lnkCtrlDown _ _ => true
  | .lnkCtrlRetrain _ _ => true
  | .clrCounters _ off => offOk off
  | .ethFrameHead _ _ => true
  | .ethFrameEnd _ _ => true
  | .pcsAligned _ => true
  | .pcsAlignLost _ => true
  | .headLookup _ _ => true
  | .genDrainEnd _ => true
  | .rejoin _ => true
  | .flushFlowlets _ _ => true
  | .tapRead _ _ _ => true
  | .tapWrite _ _ _ => true
  | .tapInsert _ _ _ => true
  | .tapDelete _ _ _ => true
  | .tapSearch _ _ _ => true
  | .tapAgeScan _ _ _ => true
  | .tapFlush _ _ _ => true
  | .tapBadOp _ _ _ => true
  | .tapDone _ => true
  | .tableScrub _ _ _ _ _ _ => true
  | .letAger _ _ => true
  | .learnInsert _ => true
  | .letCacheFill _ => true
  | .admissionRecheck _ _ => true
  | .schedulerSelect _ _ => true
  | .cellTransmit _ _ => true
  | .depthExchange => true
  | .congEcho _ p => pktOk p
  | .echoInterval _ => true
  | .limiterIncrease _ _ => true
  | .spillWrite _ _ => true
  | .spillReadback _ _ => true
  | .meshFence _ _ => true
  | .d2dRetrain _ _ _ ok => decide (ok < 2 ^ 8)
  | .collUp _ p => pktOk p.pkt
  | .chunkClose _ seq chunk _ => decide (seq < 2 ^ 24) && decide (chunk < 2 ^ 24)
  | .collDown _ p => pktOk p
  | .collAbort _ p => pktOk p
  | .faultBeacon _ p => pktOk p
  | .skewTimeout _ seq chunk => decide (seq < 2 ^ 24) && decide (chunk < 2 ^ 24)
  | .groupActivate _ host => hostOk host
  | .groupDeactivate _ host => hostOk host
  | .collectiveDescriptor _ host => hostOk host
  | .collectiveArm _ host => hostOk host
  | .embLookup _ p => pktOk p
  | .lookupComplete _ _ _ => true
  | .embAdd _ p => pktOk p
  | .embUpdateCommit _ p => pktOk p
  | .embDiscard _ p => pktOk p
  | .commitDone _ => true
  | .snapshot _ host => hostOk host
  | .snapshotGranule _ => true
  | .mirrorGranule _ => true
  | .restore _ host => hostOk host
  | .embCommit _ host => hostOk host
  | .memRd _ p => pktOk p
  | .memRdNarrow _ p => pktOk p
  | .memWr _ p => pktOk p
  | .memWrNarrow _ p => pktOk p
  | .memAtomic _ p => pktOk p
  | .memRed _ p => pktOk p
  | .memFence _ p => pktOk p
  | .memRspData _ p => pktOk p
  | .memRspDone _ p => pktOk p
  | .memNak _ p => pktOk p
  | .memAccessDone _ _ _ => true
  | .combineIssue _ line => decide (line < 2 ^ 47)
  | .orderHoldRelease _ => true
  | .memPeerTimeout _ _ => true
  | .quarantineEnd _ _ => true
  | .patrolScrub _ block _ _ => decide (block < 2 ^ 31)
  | .hbmTempRead _ _ => true
  | .stackTrainingDone _ bad spares => (bad.all fun c => decide (c < 32)) && decide (spares < 2 ^ 64)
  | .channelFail _ e => decide (e.off < 2 ^ 36)
  | .hbmFence _ _ => true
  | .hbmRetrain _ _ => true
  | .rngDbSq _ _ _ => true
  | .rngDbCq _ _ _ => true
  | .suspend _ _ => true
  | .resume _ _ => true
  | .cancel _ _ _ => true
  | .ctrlUnknown _ _ _ => true
  | .ringDoorbell _ p => pktOk p
  | .copy _ host => hostOk host
  | .fill _ host => hostOk host
  | .checksum _ host => hostOk host
  | .tableLoad _ host => hostOk host
  | .scrub _ host => hostOk host
  | .imageStage _ host => hostOk host
  | .patternRun _ host x => hostOk host && x.runs.all runOk && decide (x.env.length ≤ 8)
  | .invalidDescriptor _ host => hostOk host
  | .progressUnitDone _ host => hostOk host
  | .msgPut _ p => pktOk p
  | .msgGetReq _ p => pktOk p
  | .msgGetRsp _ p _ => pktOk p
  | .getTimeout _ _ => true
  | .hubReclaimStart _ _ => true
  | .reclaimQuiesceBound => true
  | .reclaimDrainBound => true
  | .reclaimScrubDone => true
  | .hubReclaimRel _ _ => true
  | .elsFault _ _ => true
  | .sourceReady _ _ => true
  | .acquireDone _ _ _ peaks _ => decide (peaks < 2 ^ 8)
  | .retuneDone _ _ _ _ _ => true
  | .verifyDone _ _ _ _ => true
  | .wrongCntReset _ _ _ => true
  | .lockLoss _ _ _ => true
  | .lanternCalibration _ settings => (settings.all fun c => decide (c < 2 ^ 16))
  | .monitorReading _ _ _ _ => true
  | .migReq _ _ b _ => decide (b < 2 ^ 64)
  | .migReady _ _ => true
  | .migDone _ _ => true
  | .migAbort _ _ => true
  | .spareMap _ _ _ _ => true
  | .hold _ b dur _ => decide (b < 2 ^ 64) && decide (dur < 2 ^ 16)
  | .migDoneTimeout _ => true
  | .migRetry _ => true
  | .lanUnspare _ _ => true
  | .lanUnfence _ _ => true
  | .eyeRxLoss _ => true
  | .probe _ => true
  | .probeReceived _ _ => true
  | .tileWdt _ => true
  | .ringWdt _ => true
  | .headStall _ _ => true
  | .belfryWdt => true
  | .hubBwdtPet _ => true
  | .tileReset _ _ _ => true
  | .dieComputeReset _ _ _ => true
  | .belfryReset _ _ => true
  | .logicalPortReset _ _ _ => true
  | .fibrePortReset _ _ _ => true
  | .hbmStackReset _ _ _ => true
  | .dataPathReset _ _ => true
  | .warmChipReset _ _ => true
  | .coldReset _ _ => true
  | .resetDone _ target => decide (target < 2 ^ 11)
  | .escalation _ target => decide (target < 2 ^ 11)
  | .captureDone _ target _ => decide (target < 2 ^ 11)
  | .captureRelease _ => true
  | .sentinelRotation => true
  | .cupSenRotate _ _ => true
  | .sentinelCompare _ _ _ _ _ _ => true
  | .sentinelReplay _ _ _ => true
  | .replayWaitTimeout _ _ => true
  | .fenceCmd _ _ => true
  | .unfenceCmd _ _ => true
  | .fenceLogWrite _ _ => true
  | .idlePattern _ x => x.runs.all runOk
  | .powerGood p => decide (p.flashId < 2 ^ 24) && decide (p.storeId < 2 ^ 24)
  | .pwrGoodDeassert => true
  | .sectionStream => true
  | .linksDieEnable _ => true
  | .fibreOpenStep _ => true
  | .forwardEntry => true
  | .readyEntry ms => decide (ms < 2 ^ 32)
  | .verify _ len => decide (len < 2 ^ 28)
  | .verifyWrite _ len => decide (len < 2 ^ 28)
  | .provision _ len => decide (len < 2 ^ 28)
  | .recoverNext _ => true
  | .updateDone _ => true
  | .mgmtMctp _ p => pktOk p
  | .hubMbxCmd _ _ _ => true
  | .mbxResponse _ msg => decide (msg.length ≤ 4096)
  | .mbxTimeout _ => true
  | .mctpControl _ => true
  | .pldmRequest _ _ => true
  | .vendorDefinedMessage _ ops => ops.all vdmOk
  | .getVersion _ => true
  | .getCapabilities _ => true
  | .negotiateAlgorithms _ _ => true
  | .getDigests _ slot => decide (slot < 2 ^ 8)
  | .getCertificate _ slot => decide (slot < 2 ^ 8)
  | .challenge _ slot => decide (slot < 2 ^ 8)
  | .getMeasurements _ index => decide (index < 2 ^ 8)
  | .keyExchange _ => true
  | .finish _ _ _ => true
  | .heartbeat _ => true
  | .keyUpdate _ => true
  | .endSession _ => true
  | .claim _ _ => true
  | .release _ _ => true
  | .forceRelease _ => true
  | .hostPortReset _ _ => true
  | .bar4Read _ off n => decide (off < 2 ^ 36) && decide (1 ≤ n) && decide (n ≤ 4096)
  | .bar4Write _ off data _ => decide (off < 2 ^ 36) && decide (1 ≤ data.length) && decide (data.length ≤ 4096)
  | .registerWrite _ x _ => accessOk x.off x.width
  | .readClear _ x => accessOk x.off x.width
  | .lowHalfRead _ x => accessOk x.off x.width
  | .msixUnmask _ _ => true
  | .resetN => true
  | .sysclkLost => true
  | .recordWrite _ => true
  | .flush => true
  | .flushMsExpiry => true
  | .evrFlush _ => true
  | .pwrWarnN => true
  | .pwrWarnDeassert => true
  | .evrFindSeq _ _ => true
  | .ocuPeakClr _ _ _ => true
  | .peakClrAll _ _ => true
  | .clrFixed _ _ => true
  | .clrProg _ _ => true
  | .unitWake _ => true
  | .unitExitDone _ _ => true
  | .latTol _ p => pktOk p
  | .hostLtr _ _ => true
  | .thermalSensorRead _ _ => true
  | .railFault _ _ => true
  | .collNak _ p => pktOk p
  | .moduleAbsent _ => true
  | .configurationRequest _ r => cfgOk r
  | .hostLinkUp _ _ _ => true
  | .dynamicAddressAssignment _ _ => true

end Sys2Proof
end

