-- ==== Sys2Proof/Tests/Slice0.lean ====
section
/-! SUPPORT. Tests of the model against the worked examples of the spec, the checks of well-formedness, and for every
statement with hypotheses a state and operands that meet them. -/

set_option maxRecDepth 20000

namespace Sys2Proof.Tests

open Sys2Proof Sys2Proof.Machine

/-! Small states. -/

/-- Ring 0 ACTIVE, of group 0 and tenant 0, its queues in host 0's memory, one descriptor posted; host 0's link is up. -/
def ringDev : Dev :=
  (State.reset.dev.putEnt 9 0 0 0 [word (2 ^ 31 + 2 * 2 ^ 28 + 2 * 2 ^ 25 + 2 ^ 23 + 2 ^ 20), word (2 ^ 27 + 2 ^ 22), 0, 0, 0,
    0, 0, 0, 0, word (2 ^ 28), word (2 ^ 16)]).setHost 0 { State.reset.dev.host 0 with up := true }

/-- The 64 bytes of a descriptor from its first words. -/
def descBytes (ws : List Nat) : List Byte := ((upto 16).map fun i => toLE 4 (ws.getD i 0)).flatten

/-- Group 0 of ring 0 in a state, a leaf below port 3 with the child port 5, tile 0 and two slots. -/
def groupDev (st : Nat) : Dev :=
  (ringDev.putEnt 8 0 0 0 [word (2 ^ 31 + 2 ^ 17), word (3 * 2 ^ 16), 0, 1, word (2 * 2 ^ 16 + 1), 0, 0, 0, word (st * 2 ^ 28)]).setGrp 0
    { kids := [5] }

/-- An operation of one chunk of 32 elements, seq 0. -/
def oneChunk (op : Nat) : CollOp :=
  { idx := 0, op := op, tclass := 0, chunkElems := 32, cw := 0, elems := 32, seq := 0, sel := none, first := 0, n := 0 }

/-- Stack 0 in service, and die 0's page map in it with one entry: page 0 of tenant 0's pool lies at HPA 10 MiB. -/
def poolState : State :=
  (pmapInsert (State.reset.on fun d => ((d.wrF .hbmStatus 0 2 0 2).wr .hbmStackSize 0 32).wrB .memPmapBaseHi 0 31 true) 0 0 0 5 false).1

/-- A READY device with table 0 in that page: eight FP32 elements, one row, 16 staging entries, snapshots on. -/
def tableState : State :=
  poolState.on fun d => (d.putEnt 10 0 0 0 [word (2 ^ 31), 8, 0, 0, 0, 4096, word (4 * 2 ^ 27), 8192, word (2 ^ 31), 131072]).wrF
    .secBootStatus 0 31 28 6

/-! Worked examples and tables of the spec. -/

/-- 03, "a MSG_SEND head and tail": the packet. -/
def sendPkt : Pkt :=
  { op := 0x10, tclass := 2, gen := 1, spray := true, len := 1000, did := 0x02A31, sid := 0x01F07, tenant := 0x42,
    flow := 0x9C15, vc := 2, payload := List.replicate 1000 0 }

/-- 03, "a MSG_SEND head and tail": 18 cells; the HEAD's control word with 12 credits of VC4 and the header's first 16 bytes. -/
theorem test_msg_send_head : cellsOf 1000 = 18 ∧ (packetCell sendPkt false 0 18 4 12 false).take 20 =
    toBE 4 0x54300000 ++ toBE 4 0x100543E8 ++ toBE 4 0x02A3101F ++ toBE 4 0x07004200 ++ toBE 4 0x9C150000 := by decide +kernel

/-- 03, "a MSG_SEND head and tail": the TAIL's control word. -/
theorem test_msg_send_tail : (packetCell sendPkt false 17 18 0 0 false).take 4 = toBE 4 0x90004000 := by decide +kernel

/-- 00, the worked example of fibre 6 of LN13: its port, pipeline, die and register blocks. -/
theorem test_fibre_214 : lpFp 1714 = 214 ∧ lpPl 1714 = 53 ∧ lpDie 1714 = 6 ∧ regOffset .plnLnkCfg 1696 = 0x02838000 + 0x4000 ∧
    regOffset .lanFibCfg 214 = 0x03D16000 := by decide

/-- 08, "BF16: cancellation and a rounding tie": RNE keeps 0x3CC0; SR rounds up exactly from a draw of 2^31 on. -/
theorem test_bf16_tie : ∀ a, a = (([0x4049, 0xC048, 0x3C00, 0x3880].map (decodeScalar 1)).foldl (Acc.add 0 16) {}) →
    (encodeFloat 1 ⟨8, 7, 127, true, false, 255, 127⟩ false (a.result 0 1) none).1 = 0x3CC0 ∧
    (encodeFloat 1 ⟨8, 7, 127, true, false, 255, 127⟩ false (a.result 0 1) (some (2 ^ 31))).1 = 0x3CC1 ∧
    (encodeFloat 1 ⟨8, 7, 127, true, false, 255, 127⟩ false (a.result 0 1) (some (2 ^ 31 - 1))).1 = 0x3CC0 := by
  rintro a rfl; decide +kernel

/-- 08, "E4M3 with and without a wider carrier": both elements, saturated, as NaN, and in BF16. -/
theorem test_e4m3_carrier : ∀ xs, xs = [([0x7E, 0x7E, 0x5C].map (decodeScalar 3)).foldl (Acc.add 0 8) {}, ([0x01, 0x03, 0x82].map (decodeScalar 3)).foldl (Acc.add 0 8) {}] →
    (roundChunk ⟨0, 3, 1, false, false, false⟩ xs fun _ => 0) = ([0x7E, 0x02], { sat := 1 }) ∧
    (roundChunk ⟨0, 3, 1, false, true, false⟩ xs fun _ => 0) = ([0x7F, 0x02], { nan := 1 }) ∧
    (roundChunk ⟨0, 1, 1, false, false, false⟩ xs fun _ => 0).1 = [0x66, 0x44, 0x80, 0x3B] := by
  rintro xs rfl; decide +kernel

/-- 08, "MXFP4: a new block scale". -/
theorem test_mxfp4_scale : ∀ b, b = List.replicate 14 (0#8) →
    (roundChunk ⟨0, 9, 1, false, false, false⟩ ((List.range 32).map fun i => [decodeBlock 9 ([0x7F, 0x27, 0x09] ++ b),
      decodeBlock 9 ([0x80, 0x15, 0x03] ++ b)].foldl (fun a l => a.add 0 4 (l.getD i .nan)) {}) fun _ => 0).1 =
    [0x80, 0x27, 0x02] ++ b := by
  rintro b rfl; decide +kernel

/-- 10, "MEAN of an INT8 table": element 0 is 0x3F35. -/
theorem test_mean_int8 : (encodeFloat 1 ⟨8, 7, 127, true, false, 255, 127⟩ false (.val (17 * 2 ^ 149) 3) none).1 = 0x3F35 := by
  decide +kernel

/-- 11, "a hashed address": the stack and the HPA. -/
theorem test_hashed_address : hashedStack 0xF 0x234567 2 = 1 ∧
    hashedHpa [word (2 ^ 31 + 2 ^ 30 + 36 * 2 ^ 16 + 0x42), 0x30000, 0, 0xF, 0x4, 0x0] 0x2345678C0 = 0x148D1598C0 := by decide +kernel

/-- 12, "two channels mapped out": pseudo-channel and address of offset 0x12345678. -/
theorem test_hbm_place : hbmPlace 0x40000200 0x12345678 = (0, 0x4DAC78) := by decide +kernel

/-- 07 R202: at position 4 of the entries (3 bells, closed), (2 bells, open), the class closes in one bell. -/
theorem test_gate_turn : gateTurn [] [(3, 0), (2, 1)] 4 = [(1, 1), (3, 0), (1, 1)] ∧ gateRun 0 (gateTurn [] [(3, 0), (2, 1)] 4) = some 1 := by
  decide

/-- 03 R56: the four levels of the line. -/
theorem test_gray_levels : grayLevels [false, false, false, true, true, true, true, false] =
    [false, false, false, true, true, false, true, true] := by decide

/-- 15, "a tile wrong only when hot and busy": bin 19 and its register. -/
theorem test_sentinel_bin : senBin 91 82 = 19 ∧ regOffset .cupSenBin (binIdx 19 19) = 0x0180256C := by decide

/-- 02 R35: the bell period is 2.048 µs at reset, and an increment written by halves is in force with the high one. -/
theorem test_bell_period : State.reset.dev.period = 2048 ∧
    (((State.reset.dev.wr .timIncLo 0 0xA9930DAB).setInc 0xAA).time.inc) = 0xAAA9930DAB := by decide

/-- 04, "a spray choice": candidate 2 costs 30 and candidate 3 costs 10. -/
theorem test_spray_cost : ∀ d : Dev, d = { State.reset.dev.wrF .plnLnkCrdAvail (8 * 2 + 2) 16 0 5000 with keep := { lpSnap := [(18, 480), (26, 160)], lpDepth := [(18, 480), (26, 160)] } } →
    d.sprayCost 0 2 2 = 30 := by
  rintro d rfl; decide

/-- Table 15-8: the classes of three replays. -/
theorem test_replay_classes : senClass [1, 1, 1] = 0 ∧ senClass [0, 0, 1] = 1 ∧ senClass [0, 0, 0] = 2 ∧ senClass [0, 1, 0] = 3 := by
  decide

/-- Table 12-4: 86 °C enters level 1, which is left at 83 °C; 101 °C is critical. -/
theorem test_therm_levels : thermLevel 0 86 = 1 ∧ thermLevel 1 84 = 1 ∧ thermLevel 1 83 = 0 ∧ thermLevel 0 101 = 3 := by decide

/-- 03 R60: CRC-32C of the nine digits is 0xE3069283, and 03 R73: CRC-32 is 0xCBF43926 (the check values of the two codes). -/
theorem test_crcs : crc32c ([0x31, 0x32, 0x33, 0x34, 0x35, 0x36, 0x37, 0x38, 0x39]) = 0xE3069283 ∧
    crc32 ([0x31, 0x32, 0x33, 0x34, 0x35, 0x36, 0x37, 0x38, 0x39]) = 0xCBF43926 := by decide +kernel

/-- No row of the table gives bits, so no word spells a command. -/
theorem test_no_words : decodeTableWord 32 0x12345678 = none ∧ State.reset.withFetchWord 32 5 = State.reset := by
  exact ⟨rfl, rfl⟩

/-! Well-formedness: an ill-formed command for each check. -/

/-- A packet with each header field too wide in turn, and with more payload than its length says. -/
theorem test_pkt_fields : [{ op := 256 }, { hops := 16 }, { tclass := 8 }, { gen := 2 }, { rsvA := 2 }, { len := 4097 }, { did := 2 ^ 20 },
    { sid := 2 ^ 20 }, { tenant := 65536 }, { rsvB := 256 }, { flow := 65536 }, { tag := 65536 }, { opf := 2 ^ 64 }, { vc := 8 },
    ({ payload := [0] } : Pkt)].all (fun p => !(Instr.memRd 0 p).wellFormed) = true ∧ (Instr.memRd 0 {}).wellFormed = true := by decide

/-- A TS_IDENT with each field too wide in turn; records and groups of a wrong size. -/
theorem test_link_operands : [(⟨9, 0, 0, 0, 0, 0⟩ : Ident), ⟨0, 16, 0, 0, 0, 0⟩, ⟨0, 0, 65536, 0, 0, 0⟩, ⟨0, 0, 0, 2 ^ 64, 0, 0⟩,
    ⟨0, 0, 0, 0, 2 ^ 32, 0⟩, ⟨0, 0, 0, 0, 0, 2 ^ 32⟩].all (fun r => !identOk r) = true ∧
    (Instr.groupReceived 0 0 []).wellFormed = false ∧ (Instr.tsAck 0 65536 0 0).wellFormed = false := by decide

/-- Memory, offsets, differences and other operands out of their range. -/
theorem test_other_operands : offOk 2 = false ∧ offOk (2 ^ 26 + 2 ^ 28) = false ∧ hostOk (some (List.replicate 4097 0)) = false ∧
    runOk ⟨8, 0, []⟩ = false ∧ accessOk 0x100 9 = false ∧ vdmOk (.stage (2 ^ 27) [0]) = false ∧ cfgOk (.bar4Size 37) = false ∧
    (Instr.patrolScrub 0 (2 ^ 31) 0 false).wellFormed = false ∧ (Instr.stackTrainingDone 0 [32] 0).wellFormed = false ∧
    (Instr.combineIssue 0 (2 ^ 47)).wellFormed = false ∧ (Instr.verify .belfry (2 ^ 28)).wellFormed = false ∧
    (Instr.bar4Read 0 0 0).wellFormed = false ∧ (Instr.getDigests (.doe 0) 256).wellFormed = false ∧
    (Instr.resetDone 0 2048).wellFormed = false ∧ (Instr.d2dRetrain .belfry 0 0 256).wellFormed = false := by decide +kernel

/-! Witnesses. -/

/-- PortNumbering: the four breakouts of fibre port 214. -/
theorem wit_PortNumbering : ∀ b < 4, (State.reset.dev.wrF .plnFibCfg 214 1 0 b).rdF .plnFibCfg 214 1 0 = b := by decide

/-- O1: a state with a command in front. -/
theorem wit_StepRunsFrontCommand : ({ State.reset with pending := [.flush] } : State).pending = .flush :: [] := rfl

/-- O5: the state after reset meets the premises. -/
theorem wit_StepKeepsMemoryForm : Memory.wf State.reset.hbm = true ∧ step State.reset = .next (idle State.reset) := ⟨rfl, rfl⟩

/-- NoCommandTouchesTheQueue: a command that completes. -/
theorem wit_NoCommandTouchesTheQueue : exec .ppsInEdge State.reset = .next (State.reset.on Dev.ppsEdge) := rfl

/-- MemoryFrame: a row that stores nothing. -/
theorem wit_MemoryFrame : mayStore (.depthExchange) = false ∧ ∃ t, exec .depthExchange State.reset = .next t := ⟨rfl, _, rfl⟩

/-- ControlWritesNeedOwnership: Host A takes a step of fabric time after reset, holding no ownership. -/
theorem wit_ControlWritesNeedOwnership : controlWrite (.step .hostA) = some (.hostA, 0x10030) ∧ ownBlock 0 0x10030 = false ∧
    State.reset.dev.owns 0 = false ∧ State.reset.dev.recovery = false ∧ State.reset.dev.protect = false ∧
    State.reset.dev.link.lost = [] := by decide

/-- FabricTimeWrites: Belfry may write after reset; an enabled timeout, an enabled and a driven PPS_OUT. -/
theorem wit_FabricTimeWrites : State.reset.dev.granted .belfry 0x10024 = true ∧ State.reset.dev.granted .belfry 0x10030 = true ∧
    (State.reset.dev.wr .timHoldCfg 0 1).rdF .timHoldCfg 0 15 0 ≠ 0 ∧ (State.reset.dev.wr .timCtrl 0 8).rdB .timCtrl 0 3 = true ∧
    (State.reset.dev.drivePps true).time.ppsOut = true := by decide

/-- BellOfAQuietDevice: the device after reset. -/
theorem wit_BellOfAQuietDevice : Quiet State.reset.dev ∧ State.reset.dev.time.commits = [] ∧ State.reset.dev.time.skipped = 0 ∧
    State.reset.dev.link.ports = [] ∧ State.reset.dev.rng.rings = [] ∧ State.reset.dev.rng.reclaim.isNone = true ∧
    State.reset.dev.tab.bcQueue = [] ∧ State.reset.dev.tab.bcHeld.isNone = true ∧ State.reset.dev.sen.fences = [] ∧
    State.reset.dev.sen.rotate = [] ∧ State.reset.dev.sen.next = [] ∧ State.reset.dev.lan.planned = [] ∧
    State.reset.dev.boot.commit = false :=
  ⟨⟨rfl, rfl, rfl, rfl, rfl, rfl, rfl⟩, rfl, rfl, rfl, rfl, rfl, rfl, rfl, rfl, rfl, rfl, rfl, rfl⟩
/-- O2: the state after reset idles. -/
theorem wit_IdleAddsIncrement : State.reset.pending = [] ∧
    (State.reset.dev.regs.any fun e => e.1 % 512 == Reg.ocuSel.ctorIdx) = false := ⟨rfl, rfl⟩

/-- CommitStarts: Belfry commits domain 0 after reset. -/
theorem wit_CommitStarts : State.reset.dev.granted .belfry 0x10068 = true ∧ (1#32 : Word).toNat % 512 ≠ 0 ∧
    (∀ dom < 9, bit ((1#32 : Word).toNat % 512) dom = true → State.reset.dev.cmtBusy dom = false) ∧
    State.reset.dev.rd64 .timCmtTgtLo .timCmtTgtHi 0 = 0 := by decide
/-- CommitBusyOrLate, busy: domain 0 validates already. -/
theorem wit_CommitBusy : ∃ dom < 9, bit ((1#32 : Word).toNat % 512) dom = true ∧
    (State.reset.dev.startCommitAt 1 0).cmtBusy dom = true := ⟨0, by decide, by decide, by decide⟩
/-- CommitBusyOrLate, late: target 1 at bell 0. -/
theorem wit_CommitLate : (State.reset.dev.wr .timCmtTgtLo 0 1).rd64 .timCmtTgtLo .timCmtTgtHi 0 = 1 ∧
    State.reset.dev.time.bell = 0 := by decide

/-- CommitEnds: a commit of domain 0 with nothing staged validates; Belfry may cancel and discard. -/
theorem wit_CommitEnds : ((State.reset.dev.startCommitAt 1 0).time.commits.find? fun x => bit x.mask 0 && !x.pending) =
      some ⟨1, 0, [], false, .none, 0⟩ ∧
    State.reset.dev.granted .belfry 0x1006C = true ∧ State.reset.dev.granted .belfry 0x10070 = true := by decide
theorem wit_CommitEnds_valid : (verdict (commitBad (State.reset.dev.startCommitAt 1 0)
    ((State.reset.dev.startCommitAt 1 0).withChanges [])) 1).isEmpty = true := by decide

/-- RecordWritten: an event offered after reset. -/
theorem wit_RecordWritten : ((State.reset.dev.raise 8 0x0101 2 []).rcd.warn = false) ∧
    (SMap.getD (State.reset.dev.raise 8 0x0101 2 []).rcd.queues 8 []).length = 1 ∧
    firstGap (State.reset.dev.raise 8 0x0101 2 []).rcd.slots 0 = 0 := by decide
/-- PowerWarning: before and after the warning. -/
theorem wit_PowerWarning : State.reset.dev.rcd.warn = false ∧ State.reset.dev.pwrWarn.rcd.warn = true := by decide
/-- RecordsFlushed: a device with a store. -/
theorem wit_RecordsFlushed : ({ State.reset.dev with rcd := { present := true } } : Dev).rcd.present = true ∧
    ({ State.reset.dev with rcd := { present := true } } : Dev).rcd.warn = false ∧
    ({ State.reset.dev with rcd := { present := true } } : Dev).rcd.storeErr = false ∧
    ({ State.reset.dev with rcd := { present := true } } : Dev).rcd.failsIn = none ∧
    ({ State.reset.dev with rcd := { present := true, fault := some (0, true) } } : Dev).rcd.fault = some (0, true) ∧
    State.reset.dev.rcd.present = false ∧ State.reset.dev.rcd.storeErr = false ∧
    State.reset.dev.granted .belfry 0x40004 = true := by decide
/-- RecordFound: Belfry asks for sequence 1. -/
theorem wit_RecordFound : State.reset.dev.granted .belfry 0x40084 = true ∧ (1#32 : Word) ≠ 0 := by decide

/-- CounterCommandsOfOculus: Belfry may clear after reset. -/
theorem wit_CounterCommandsOfOculus : State.reset.dev.granted .belfry 0x118A400 = true ∧
    State.reset.dev.granted .belfry 0x1180000 = true := by decide
/-- CountersCleared: the register of port 0. -/
theorem wit_CountersCleared : ((regAt (regOffset .plnLnkCtrl 0)).map fun x => (x.1.reg, x.2)) = some (.plnLnkCtrl, 0) := by decide

/-- Ownership: free after reset, held by Host A after its claim, which Host B's fails against. -/
theorem wit_Ownership : State.reset.dev.rdB .hubOwn 0 31 = false ∧ (State.reset.dev.claim 0 5).owns 0 = true ∧
    (State.reset.dev.claim 0 5).owns 1 = false ∧ (State.reset.dev.claim 0 5).rdB .hubOwn 0 31 = true ∧
    (State.reset.dev.claim 0 5).rdF .hubOwn 0 15 0 = 5 := by decide

/-- HostPorts: a device after its ROM phase; a pending vector; a device not ready and a ready one with the link up. -/
theorem wit_HostPorts : (State.reset.dev.wrF .secBootStatus 0 31 28 6).rdF .secBootStatus 0 31 28 ≠ 0 ∧
    (State.reset.dev.wrB .hubMsixPba (0 * 64 + 5 / 32) (5 % 32) true).rdB .hubMsixPba (0 * 64 + 5 / 32) (5 % 32) = true ∧
    ((State.reset.dev.setHost 0 { up := true, msixEnable := true }).host 0).up = true ∧
    ((State.reset.dev.setHost 0 { up := true, msixEnable := true }).host 0).msixEnable = true ∧
    State.reset.dev.recovery = false ∧ State.reset.dev.isReady = false ∧
    (State.reset.dev.wrF .secBootStatus 0 31 28 6).isReady = true := by decide

/-- FunctionReset: no ring runs after reset. -/
theorem wit_FunctionReset : ∀ r, (State.reset.dev.ring r).run = none := fun _ => rfl
/-- HostMemoryWindow: an enabled window over an ACTIVE stack. -/
theorem wit_HostMemoryWindow : ∀ d, d = (((State.reset.dev.wrB .hubHostCfg 0 31 true).wrF .hbmStatus 0 2 0 2).wr .hbmStackSize 0 32) →
    d.recovery = false ∧ d.rdB .hubHostCfg 0 31 = true ∧ d.usable 64 4 = true ∧ d.boot.upd = none ∧ d.hbmWaits 64 4 1 = false ∧ d.badBlocks 64 4 = [] ∧
    64 + 4 ≤ 2 ^ (d.host 0).bar4Log ∧ d.rdF .hbmStackSize (64 / 2 ^ 36) 5 0 ≤ 32 ∧ State.reset.dev.rdB .hubHostCfg 0 31 = false := by
  rintro d rfl
  decide

/-- TrainingEnds: a port in FEC_ALIGN, one in HOLDOFF. -/
theorem wit_TrainingEnds : State.reset.dev.link.lost = [] ∧ (State.reset.dev.setLnk 0 1).training 0 = true ∧
    (State.reset.dev.setLnk 0 1).lnkState 0 = 1 ∧ (State.reset.dev.setLnk 0 6).lnkState 0 = 6 ∧
    State.reset.dev.isEth 0 = false := by decide
theorem wit_TrainingEnds_offset : State.reset.dev.granted .belfry (regOffset .plnLnkCtrl 0) = true := by decide

/-- LeavingDown: an enabled port of a fibre with 8 locked rings each way. -/
theorem wit_LeavingDown : ∀ d, d = (upto 18).foldl (fun (d : Dev) r => d.wrF .lanLaneStatus r 31 28 4) (State.reset.dev.wr .plnLnkCfg 0 1) →
    d.link.lost = [] ∧ d.lan.unfence.contains (lpFp 0) = false ∧ d.lnkState 0 = 0 ∧ d.canTrain 0 = true ∧
    (d.port 0).downBy = .reset := by
  rintro d rfl
  decide
/-- LinkAlignment: the eight lanes of a port in FEC_ALIGN, none aligned. -/
theorem wit_LinkAlignment : (State.reset.dev.setLnk 0 1).isEth 0 = false ∧ (State.reset.dev.setLnk 0 1).lnkState 0 = 1 ∧
    SMap.find? (State.reset.dev.setLnk 0 1).lan.rxMig (lpFp 0) = none ∧
    (SMap.getD (State.reset.dev.setLnk 0 1).link.lanes (lpFp 0 * 9 + 3) {}).aligned = false ∧
    ∃ pos ∈ (State.reset.dev.setLnk 0 1).positions 0, (State.reset.dev.setLnk 0 1).laneOf (lpFp 0) 1 pos ≠ 3 ∧
      (SMap.getD (State.reset.dev.setLnk 0 1).link.lanes (lpFp 0 * 9 + (State.reset.dev.setLnk 0 1).laneOf (lpFp 0) 1 pos) {}).aligned = false :=
  ⟨by decide, by decide, by decide, by decide, 0, by decide, by decide, by decide⟩
/-- LinkAlignment: a lane aligned by four good pairs that then receives two uncorrectable codewords. -/
theorem wit_LinkAlignment_aligned : (((((({} : Align).after true).after true).after true).after true).aligned = true) ∧
    ((none : Option (List Byte × Nat)).isSome && (none : Option (List Byte × Nat)).isSome) = false := by decide

/-- TrainingRecords: DESKEW with eight lanes missing, a record waiting; IDENT and PARAM. -/
theorem wit_TrainingRecords : (State.reset.dev.setLnk 0 2).lnkState 0 = 2 ∧ (State.reset.dev.setLnk 0 3).lnkState 0 = 3 ∧
    (State.reset.dev.setLnk 0 4).lnkState 0 = 4 ∧
    (((State.reset.dev.setLnk 0 2).positions 0).all fun pos =>
      ([3] : List Nat).contains ((State.reset.dev.setLnk 0 2).laneOf (lpFp 0) 1 pos)) = false ∧
    ((((State.reset.dev.setLnk 0 2).sendRecord 0 0 1 []).port 0).sending.any fun r => r.typ == 1 && r.seq == 0) = true := by
  decide
theorem wit_TrainingRecords_ident : (State.reset.dev.setLnk 0 3).identCheck 0 ⟨0, 0, 1, 0, 1 * 2 ^ 8, 0⟩ = 0 ∧
    (State.reset.dev.setLnk 0 3).identCheck 0 ⟨0, 0, 1, 0, 2 ^ 13 + 1 * 2 ^ 8, 0⟩ = 4 := by decide

/-- Replays: an ACTIVE port that holds one group, its replay asked for or queued. -/
theorem wit_Replays : ∀ d, d = ((State.reset.dev.setLnk 0 5).setPort 0 { unacked := [(7, [])], replayReq := some 7, resend := [(7, [])] }) →
    d.link.lost = [] ∧ (d.port 0).replayReq = some 7 ∧ ((d.port 0).unacked.any fun g => g.1 == 7) = true ∧ d.lnkState 0 = 5 ∧
    (d.port 0).unacked ≠ [] ∧ (d.port 0).stalls < 7 ∧ d.isEth 0 = false ∧ d.lan.stopped.contains 0 = false ∧
    SMap.find? d.lan.mig (lpFp 0) = none ∧ (d.port 0).resend ≠ [] ∧ (d.port 0).pairHalf = [] := by
  rintro d rfl
  decide

/-- LinkService: an ACTIVE port, an enabled Ethernet port. -/
theorem wit_LinkService : Quiet (State.reset.dev.setLnk 0 5) ∧ (State.reset.dev.setLnk 0 5).lnkState 0 = 5 ∧
    (State.reset.dev.setLnk 0 5).held? 0 = false ∧ (State.reset.dev.setLnk 0 5).inService 0 = true ∧
    (State.reset.dev.setLnk 0 5).rdB .plnFwdLpStatus 0 0 = false ∧
    (State.reset.dev.setLnk 0 5).rdF .plnFwdLpStatus 0 31 8 = 0 ∧
    ((State.reset.dev.wrB .plnFibCfg 0 2 true).wr .plnLnkCfg 0 1).isEth 0 = true ∧
    ((State.reset.dev.wrB .plnFibCfg 0 2 true).wr .plnLnkCfg 0 1).lpEnabled 0 = true :=
  ⟨⟨rfl, rfl, rfl, rfl, rfl, rfl, rfl⟩, by decide, by decide, by decide, by decide, by decide, by decide, by decide⟩

/-- Forwarding: a grant, a draining generation, an ACTIVE port with nothing to send. -/
theorem wit_Forwarding : State.reset.dev.granted .belfry (regOffset .plnFwdCtrl 0) = true ∧
    (State.reset.dev.wr .plnFwdGenStatus 0 6).genState 0 0 = 2 ∧
    (State.reset.dev.setLnk 0 5).inService 0 = true ∧
    (State.reset.dev.setLnk 0 5).isEth 0 = false ∧ ((State.reset.dev.setLnk 0 5).port 0).txCells.length < 8 * 8 ∧
    (((State.reset.dev.setLnk 0 5).fillControl 0).chooseVc 0).2 = none := by decide

/-- HeadLookups: a LAT_TOL head to the link-local address waits on VC6. -/
theorem wit_HeadLookups : ∀ (h : Held) (d : Dev), h = { pkt := { op := 0x73, vc := 6, did := linkLocal, opf := 0 }, lp := some 0, die := 0, pl := 0, solo := some 0 } →
    d = (State.reset.dev.newHeld h).2 → (d.oldest 0 6 fun p => p == Phase.head || p == Phase.wait || p == Phase.waitEngine) = some (0, h) ∧
    d.held 0 = some h ∧ d.heldBehind 0 6 = false ∧ headMalformed h = false ∧ consumable h.pkt.op = true ∧
    answerNeed h.pkt.op = none := by
  rintro h d rfl rfl
  decide
/-- MeshLinks: dies 0 and 1 after reset. -/
theorem wit_MeshLinks : State.reset.dev.rdB .d2dStatus (0 * 8 + 1) 1 = false ∧
    State.reset.dev.granted .belfry (regOffset .d2dCtrl 0) = true ∧ bit 2 1 = true := by decide

/-- CongestionControl: a limiter of die 0, a packet staged for spilling, one in HBM. -/
theorem wit_CongestionControl : (SMap.getD ([(0, [⟨5, 0, 2, 400, 800, 3, 0⟩])] : SMap (List Limiter)) 0 [])[0]? = some ⟨5, 0, 2, 400, 800, 3, 0⟩ ∧
    ([⟨5, 0, 2, 400, 800, 3, 0⟩] : List Limiter).any (fun l => l.did == 5 && l.flow == 0 && l.vc == bits (2 * 2 ^ 45) 47 45) = true ∧
    State.reset.dev.poolRoom 0 .spill 0 = true ∧
    (State.reset.dev.putHeld 3 { pkt := {}, lp := none, die := 0, pl := 0, done := true, spill := .stage }).held 3 =
      some { pkt := {}, lp := none, die := 0, pl := 0, done := true, spill := .stage } := by decide
/-- CongestionControl: a spill region with room for a packet of one cell. -/
theorem wit_CongestionControl_region : ∀ d, d = (State.reset.dev.wrF .hbmStatus 0 2 0 2).wr .kepSpillSize 0 1 →
    d.spillRoom 0 1 = true ∧ d.spillCells 0 1 = [0] ∧ d.spillHpa 0 0 + 64 ≤ 2 ^ 41 ∧ d.badBlocks (d.spillHpa 0 0) 64 = [] ∧
    d.stackUp (d.spillHpa 0 0 / 2 ^ 36) = true := by
  rintro d rfl
  decide

/-- EthernetFrames: a frame open with no bytes, and a full bucket. -/
theorem wit_EthernetFrames : ((State.reset.dev.putHeld 3 { pkt := {}, lp := some 0, die := 0, pl := 0, phase := .gone, frame := some ⟨0, false, 0, 0, 0, 0, false, 0⟩ }).keep.pkts.find? fun e => e.2.lp == some 0 && e.2.frame.isSome && !e.2.done).isSome = true ∧
    ¬ ((SMap.getD State.reset.dev.mgt.bucket 0 (Bucket.full 16384 0)).refill 1000 16384 0).tok < (cellsOf 44 * 64 * byteUnit : Nat) := by decide

/-- BroadcastCommands: a flush of the first next-hop group, from reset. -/
theorem wit_BroadcastCommands : ∀ d, d = ((State.reset.dev.wr .bcTapKey 1 1)) → d.granted .belfry 0x80000 = true ∧
    SMap.find? d.tab.busy 8 = none ∧ d.bcForm (d.tapCmdOf 8 6 (word (2 ^ 24))) = 0 ∧ (d.tapCmdOf 8 6 (word (2 ^ 24))).k 1 ≠ 0 ∧
    d.tab.bcQueue.length < 4096 := by
  rintro d rfl
  decide
/-- TapEnds: TAP 0 busy. -/
theorem wit_TapEnds : SMap.find? (dieRun State.reset 0 (State.reset.dev.tapCmdOf 0 7 0)).dev.tab.busy 0 = some 2 ∧
    (dieRun State.reset 0 (State.reset.dev.tapCmdOf 0 7 0)).dev.granted .belfry 0x10A0000 = true := by decide

/-- DieTapReads: a grant, an idle TAP, an entry in range, an accepted write, a flush range, an enabled LET. -/
theorem wit_DieTapReads : ∀ d, d = ((State.reset.dev.wr .tapKey 1 1).wrB .plnLetBaseHi 0 31 true) →
    d.granted .belfry 0x10A0000 = true ∧ SMap.find? d.tab.busy 0 = none ∧
    (d.tapCmdOf 0 0 (word (2 ^ 24))).table = 1 ∧ (d.tapCmdOf 0 0 (word (2 ^ 24))).k 0 < tableSlots 1 ∧
    d.entBad 0 1 0 0 0 = false ∧ (d.readEnt 0 1 0 0 0).length ≤ 16 ∧
    d.formErr 0 0 12 0 ((d.tapCmdOf 0 1 (word (12 * 2 ^ 24))).data.take 2) = 0 ∧ (d.tapCmdOf 0 1 (word (12 * 2 ^ 24))).table = 12 ∧
    (d.tapCmdOf 0 6 (word (12 * 2 ^ 24))).k 1 ≠ 0 ∧ (d.tapCmdOf 0 5 (word (3 * 2 ^ 24))).table = 3 ∧ d.letOn 0 = true ∧
    d.tapPaused 0 (d.tapCmdOf 0 5 (word (3 * 2 ^ 24))) = false ∧
    badRouteKey (d.tapCmdOf 0 4 0) = false := by
  rintro d rfl
  decide
/-- DieTapReads: a route that SEARCH finds. -/
theorem wit_DieTapReads_route : (State.reset.dev.putEnt 0 0 0 5 ((State.reset.dev.tapCmdOf 0 4 0).routeKey ++ [7])).routeSlot 0
    (State.reset.dev.tapCmdOf 0 4 0).routeKey = some 5 := by decide

/-- TablesKeptUp: a LET with an expired entry, a learned key waiting, an echo waiting, a frame waiting for its LET entry. -/
theorem wit_TablesKeptUp : ∀ d : Dev, d = (((State.reset.dev.wrB .plnLetBaseHi 0 31 true).wrF .plnLetCfg 0 15 0 1).wrF .hbmStatus 0 2 0 2) →
    d.letOn 0 = true ∧ d.letExpired 0 [2 ^ 29, 0, 0, 0, 0, 0, 65535 * 2 ^ 16, 0] = true ∧ d.letAddr 0 0 + 32 ≤ 2 ^ 41 ∧ d.letDead 0 = false ∧ d.classPaused (d.letStack 0) 1 = false := by
  rintro d rfl
  decide
/-- TablesKeptUp: a learned key of an enabled LET, not there yet, finds room; a frame that waits finds it missing. -/
theorem wit_TablesKeptUp_learn : ∀ s : State, s = (State.reset.on fun d => (((d.wrB .plnLetBaseHi 0 31 true).wrF .hbmStatus 0 2 0 2))) →
    (letFind s 0 (letKey 0 1 2 3)).2 = none ∧ (letPlace s 0 [2 ^ 29, 1, 2, 0, 0, 0, 0, 0]).2.isSome = true := by
  rintro s rfl
  decide +kernel

/-- GroupCommands: ring 0 holds a GROUP_DEACTIVATE of its RESIDENT group, or a BARRIER that may be armed. -/
theorem wit_GroupCommands : ∀ s : State, s = { State.reset with dev := groupDev 2 } → s.dev.mayStart 0 = true ∧
    fetchDesc s 0 (some (descBytes [0x21 * 2 ^ 24])) = (s, .inr (descBytes [0x21 * 2 ^ 24])) ∧
    s.dev.descCode 0 (descBytes [0x21 * 2 ^ 24]) = 0 ∧ dKind (descBytes [0x21 * 2 ^ 24]) = 0x21 ∧ s.dev.started 0 = 0 ∧
    s.dev.rGrpEn 0 = true ∧ s.dev.rGroup 0 = 0 ∧ s.dev.gState 0 = 2 ∧
    fetchDesc s 0 (some (descBytes [0xC0 * 2 ^ 24 + 5 * 2 ^ 20 + 32])) = (s, .inr (descBytes [0xC0 * 2 ^ 24 + 5 * 2 ^ 20 + 32])) ∧
    s.dev.descCode 0 (descBytes [0xC0 * 2 ^ 24 + 5 * 2 ^ 20 + 32]) = 0 ∧ s.dev.gRing 0 = 0 ∧
    (∀ o, o = opOf 0 0 (descBytes [0xC0 * 2 ^ 24 + 5 * 2 ^ 20 + 32]) → s.dev.opCode 0 (descBytes [0xC0 * 2 ^ 24 + 5 * 2 ^ 20 + 32]) o = 0 ∧
      s.dev.mayArm 0 = true) := by
  rintro s rfl
  simp only [forall_eq]
  decide
/-- GroupCommands: ring 0 holds a GROUP_ACTIVATE of its DORMANT group, a leaf with no child bit missing. -/
theorem wit_GroupCommands_activate : ∀ s : State, s = { State.reset with dev :=
      (((groupDev 1).wrB .cupCfg 0 0 true).wrB .colRecBaseHi 0 31 true).wrF .plnLnkStatus 3 3 0 5 } →
    fetchDesc s 0 (some (descBytes [0x20 * 2 ^ 24])) = (s, .inr (descBytes [0x20 * 2 ^ 24])) ∧
    s.dev.descCode 0 (descBytes [0x20 * 2 ^ 24]) = 0 ∧ s.dev.gState 0 = 1 ∧ s.dev.rGroup 0 = 0 := by
  rintro s rfl
  decide

/-- Contributions: a RESIDENT group below a parent, port 3, with one armed operation whose chunk 0 went up. -/
theorem wit_Contributions : ∀ d : Dev, d = ((groupDev 2).setGrp 0 { kids := [5], armed := [{ oneChunk 3 with sent := [(0, {})] }] }).wrF .secBootStatus 0 31 28 6 →
    d.gState 0 = 2 ∧ d.gRoot 0 = false ∧ d.parentLp 0 = 3 ∧ d.isReady = true ∧
    ((d.grp 0).armed.find? fun o => o.seq % 2 ^ 19 == 0).isSome = true ∧ (d.take 3 {}).1 = d ∧
    d.downTo 0 (oneChunk 3) 0
      = some [5] ∧
    (match d.upCheck 0 5 [5] { opf := 2 ^ 23 } with
      | .discard => true
      | _ => false) = true := by
  rintro d rfl
  decide
/-- Contributions: chunk 0 of an ALLREDUCE has the endpoint child's part; a second one duplicates it, and it may close. -/
theorem wit_Contributions_chunk : ∀ d : Dev, d = ((((groupDev 2).setGrp 0 { kids := [5], armed := [oneChunk 0], chunks := [⟨0, 0, 0, 0, [5], 1, [], 0⟩] }).wrF .secBootStatus 0 31 28 6).wrB .plnLnkStatus 5 12 true) →
    (match d.upCheck 0 5 [5] { payload := List.replicate (fmtBytes 0 32) 0 } with
      | .dup => true
      | _ => false) = true ∧
    ((d.grp 0).chunks.find? fun k => k.seq == 0 && k.chunk == 0).isSome = true ∧ d.nchild 0 = 1 ∧ d.frozen (d.gRing 0 / 2048) = false := by
  rintro d rfl
  decide

/-- EarlyEnds: a RESIDENT group with an endpoint child, port 5, and a chip parent, port 3. -/
theorem wit_EarlyEnds : ∀ d : Dev, d = ((groupDev 2).setGrp 0 { kids := [5], chunks := [⟨0, 0, 0, 0, [], 0, [], 0⟩] }).wrB .plnLnkStatus 5 12 true →
    d.gState 0 = 2 ∧ d.gRoot 0 = false ∧ d.parentLp 0 = 3 ∧ d.farEndpoint 5 = true ∧ d.farEndpoint 3 = false ∧
    (d.grp 0).kids.contains 5 = true ∧ d.recordAt 0 = none ∧ d.nchild 0 = 1 := by
  rintro d rfl
  decide

/-- EmbeddingLookups: a lookup before READY is refused; a lookup of no index has read everything. -/
theorem wit_EmbeddingLookups : State.reset.dev.take 0 {} = (State.reset.dev, {}) ∧
    (match (State.reset.dev.embParity 0 0).lookupCheck 0 {} with
      | .inl n => n.code
      | .inr _ => 0) = 2 ∧
    State.reset.dev.frozen 0 = false ∧ (gather State.reset 0 [] {}).2 = [] ∧ gatherFail [] = none ∧ gatherFail [.inl cPage] = some (true, 0) := by decide
/-- EmbeddingLookups: a READY die with table 0, a serving tile and rows to give admits a lookup of one row. -/
theorem wit_EmbeddingLookups_taken : ∀ d : Dev, d = (((State.reset.dev.putEnt 10 0 0 0 [word (2 ^ 31), 8, 0]).wrF .secBootStatus 0 31 28 6).wrF .embAdmDflt 0 14 0 8) →
    (match d.lookupCheck 0 { opf := 2 ^ 32, payload := [0, 0, 0, 0] } with
      | .inl n => n.code
      | .inr (ct, slot) => 100 + ct + slot) = 100 := by
  rintro d rfl
  decide

/-- EmbeddingUpdates: a refusal before READY; table 0 IDLE, then OPEN with its staging mapped, and under commit. -/
theorem wit_EmbeddingUpdates : (match State.reset.dev.updCheck {} with
      | some n => n.code
      | none => 0) = 2 ∧
    ∀ p : Pkt, p = { opf := 2 ^ 50, payload := List.replicate 8 0 } →
      (tableState.dev.updCheck p).isNone = true ∧ tableState.dev.batchState 0 = 0 ∧
      (∀ u, u = (tableState.on fun d => d.setBatch 0 1) → (u.dev.updCheck p).isNone = true ∧ u.dev.batchState 0 ≠ 0 ∧
        stageMissing u (u.dev.embDesc 0) = false ∧ stagePaused u (u.dev.embDesc 0) = false) ∧
      (tableState.dev.setBatch 0 2).batchState 0 = 2 ∧ usedEntries tableState (tableState.dev.embDesc 0) = [] ∧ (tableState.dev.setBatch 0 2).frozen 0 = false := by
  refine ⟨by decide, ?_⟩
  rintro p rfl
  simp only [forall_eq]
  decide +kernel
/-- EmbeddingUpdates: an ADD of one pair, row 0, element 0, FP32 value 1, finds an entry. -/
theorem wit_EmbeddingUpdates_add : ∀ (p : Pkt) (ws : List Word) (s : State), p = { opf := 2 ^ 16, payload := [0, 0, 0, 0, 0, 0, 1, 0, 0, 0, 0x80, 0x3F] } →
    s = (tableState.on fun d => d.wrF .embAdmDflt 0 14 0 8) → ws = s.dev.embDesc 0 → (s.dev.updCheck p).isNone = true ∧
    ((addPairs p).getD []).length = 1 ∧ s.dev.embAdmit 0 0 1 true = 0 ∧
    (∀ x, x = ((upto 1).zip ((addPairs p).getD [])).foldl (placePair ws) (s, {}) → x.2.taken.length = 1 ∧ x.2.refused.isNone = true ∧
      x.2.failed.isNone = true ∧ x.2.waits = false ∧ (readable x.1 ws x.2.taken ((addPairs p).getD [])).2 = none) := by
  rintro p ws s rfl rfl rfl
  simp only [forall_eq]
  decide +kernel

/-- SnapshotsAndUnits: ring 0 holds a RESTORE of table 0, IDLE with a VALID snapshot. -/
theorem wit_SnapshotsAndUnits : ∀ s : State, s = (State.reset.on fun _ => (ringDev.putEnt 10 0 0 0 [word (2 ^ 31), 8, 0]).setSnap 0 2) → s.dev.mayStart 0 = true ∧
    fetchDesc s 0 (some (descBytes [0x11 * 2 ^ 24])) = (s, .inr (descBytes [0x11 * 2 ^ 24])) ∧
    s.dev.descCode 0 (descBytes [0x11 * 2 ^ 24]) = 0 ∧ s.dev.started 0 = 0 ∧ tdValid (s.dev.embDesc 0) = true ∧
    s.dev.batchState 0 = 0 ∧ s.dev.snapState 0 = 2 ∧ s.dev.frozen 0 = false := by
  rintro s rfl
  decide
/-- SnapshotsAndUnits: the copied bitmap of table 0 is cleared, its granule copied, its mirror and restore read and written. -/
theorem wit_SnapshotsAndUnits_pool : ∀ ws, ws = tableState.dev.embDesc 0 → tdSnapEn ws = true ∧ tdGranules ws = 1 ∧
    (poolClear tableState 0 0 (bitmapAt ws 0) 2 1).2 = 0 ∧ (copyGranule tableState ws 0).2 = 0 ∧
    (match (poolRead tableState 0 0 (tdSnap ws) 32 3).2 with
      | .inr bs => bs.length == 32
      | .inl _ => false) = true ∧ tableState.dev.frozen (tdHome ws) = false ∧ (poolWrite tableState 0 0 (tdBase ws) (List.replicate 32 0) 3).2 = 0 ∧ tdBytes ws = 32 := by
  rintro ws rfl
  decide +kernel

/-- MemoryRequests: a read before READY is refused, and a fence on a READY rack port is answered. -/
theorem wit_MemoryRequests : State.reset.dev.take 0 {} = (State.reset.dev, {}) ∧ State.reset.dev.memHeld 0 {} = false ∧
    State.reset.dev.mem.waiting.any (fun x => x.lp == 0) = false ∧
    (match (memCheck State.reset 0 { op := 0x20 } none).2 with
      | .inl no => no.code
      | .inr _ => 0) = 2 ∧ (State.reset.dev.moveResv 0 {}).isSome = true ∧ (State.reset.dev.takeReq 0 { op := 0x20 }).2.lp = 0 ∧
    (match (memCheck (State.reset.on fun d => (d.wrF .secBootStatus 0 31 28 6).wrB .plnFibCfg 0 3 true) 0 { op := 0x26, did := linkLocal } none).2 with
      | .inl no => 10 * no.code + no.sub
      | .inr .fence => 1000
      | .inr _ => 0) = 1000 := by decide

/-- MemoryAccesses: a whole store alone at HPA 64, and the same waiting in combine mode, in a stack that is up. -/
theorem wit_MemoryAccesses : ∀ (e : MemEnt) (d : Dev), e = ⟨0, { op := 0x22, payload := List.replicate 64 1 }, {}, 0, none, 64, 0, false, true, some 5, 0, [], none, none, false⟩ →
    d = (((State.reset.dev.wrF .hbmStatus 0 2 0 2).wr .hbmStackSize 0 32).putMem 5 e) →
    d.runOf 5 = [(5, e)] ∧ d.frozen 0 = false ∧ d.usable 64 64 = true ∧ mStore e.p = true ∧ storeMask e.p e.addr = 2 ^ 64 - 1 ∧ d.runWaits 5 [(5, e)] e = false ∧
    (∀ f c, f = { e with run := none } → c = { d.putMem 5 f with mem := { ents := [(5, f)], hot := [(0, 0, 1)] } } →
      c.frozen 0 = false ∧ runFrom (c.lineQueue (0, 0, 1)) = [(5, f)] ∧ (c.lineEnts (0, 0, 1)).any (fun e => e.2.run.isSome) = false) := by
  rintro e d rfl rfl
  refine ⟨by decide, by decide, by decide, by decide, by decide, by decide, ?_⟩
  rintro f c rfl rfl
  decide

/-- MemoryPeers: a read issued to the peer at port 0, its answer, a quarantined entry, and a fence that waited. -/
theorem wit_MemoryPeers : ∀ (e : MemEnt) (d : Dev), e = ⟨0, { op := 0x20 }, {}, 0, some 0, 64, 0, false, true, some 5, 0, [], none, none, false⟩ →
    d = State.reset.dev.putMem 5 e → d.runOf 5 = [(5, e)] ∧ peerFit [(5, e)] e = (0x28, 64) ∧ mRead e.p = true ∧
    State.reset.dev.runOf 6 = [] ∧ SMap.find? (d.putMem 5 { e with quar := true }).mem.ents 5 = some { e with quar := true } ∧
    (memGo State.reset ⟨0, { op := 0x26 }, {}, 0, 0, none, false⟩).2 = true := by
  rintro e d rfl rfl
  decide

/-- StackReadings: stack 0 in service with scrubbing on. -/
theorem wit_StackReadings : ∀ d, d = ((State.reset.dev.wrF .hbmStatus 0 2 0 2).wr .hbmStackSize 0 32).wr .hbmScrubCfg 0 24 →
    d.stackState 0 = 2 ∧ d.rdF .hbmScrubCfg 0 15 0 ≠ 0 ∧ d.usable (7 * 32) 32 = true ∧ d.hbmWaits (7 * 32) 32 3 = false ∧
    d.ue.contains 7 = false ∧ d.ce.contains 7 = false ∧ d.mem.later = [] ∧ d.ce = [] ∧ State.reset.dev.stackState 0 ≠ 2 ∧
    d.rdB .grdStatus 0 31 = false := by
  rintro d rfl
  decide

/-- StackLifecycle: stack 0 in service and in training, on a READY device. -/
theorem wit_StackLifecycle : Quiet (State.reset.dev.wrF .hbmStatus 0 2 0 2) ∧ (State.reset.dev.wrF .hbmStatus 0 2 0 2).stackState 0 = 2 ∧
    ((State.reset.dev.wrF .hbmStatus 0 2 0 2).wr .hbmStackSize 0 32).usable (0 * 2 ^ 36 + 5 % 2 ^ 36) 1 = true ∧
    (State.reset.dev.wrF .hbmStatus 0 2 0 2).granted .belfry (regOffset .hbmCtrl 0) = true ∧
    ((State.reset.dev.wrF .hbmStatus 0 2 0 1).wrF .secBootStatus 0 31 28 6).isReady = true ∧
    ((State.reset.dev.wrF .hbmStatus 0 2 0 1).wrF .secBootStatus 0 31 28 6).stackState 0 = 1 := by
  refine ⟨⟨rfl, rfl, rfl, rfl, rfl, rfl, rfl⟩, ?_⟩; decide

/-- ControlIgnored: Host A resumes ring 0, which is ACTIVE, and a doorbell suspends ring 1, which is IDLE. -/
theorem wit_ControlIgnored : ringDev.rState 0 = 1 ∧ ringDev.rValid 0 = true ∧ ringDev.recovery = false ∧
    bit (ringDev.rw 0 0) 20 = true ∧
    ∀ d : Dev, d = (State.reset.dev.putEnt 9 0 0 1 [word (2 ^ 31 + 2 ^ 22)]).wrF .secBootStatus 0 31 28 6 →
      d.rState 1 = 0 ∧ d.rValid 1 = true ∧ d.isReady = true ∧ bit (d.rw 1 0) 22 = true ∧ 0 = d.rf 1 6 19 0 ∧
      bits (2 ^ 50 + 2 * 2 ^ 48 + 2 ^ 28) 49 48 = 2 ∧ bits ((2 ^ 50 + 2 * 2 ^ 48 + 2 ^ 28) % 2 ^ 32) 31 28 = 1 := by
  refine ⟨by decide, by decide, by decide, by decide, ?_⟩
  rintro d rfl
  decide

/-- Doorbells: ring 0 of Host A, ACTIVE with a descriptor; IDLE after its state is cleared; SUSPENDED. -/
theorem wit_Doorbells : ringDev.recovery = false ∧ ringDev.rValid 0 = true ∧ bit (ringDev.rw 0 0) 20 = true ∧
    bit (ringDev.rw 0 0) 21 = false ∧ idxSub 1 (ringDev.cqHead 0) > idxSub (ringDev.cqTail 0) (ringDev.cqHead 0) ∧
    idxSub 0 (ringDev.cqHead 0) ≤ idxSub (ringDev.cqTail 0) (ringDev.cqHead 0) ∧ (ringDev.ring 0).recs = [] ∧
    ∀ d e : Dev, d = ringDev.setRState 0 0 → e = ringDev.setRing 0 { run := some { idx := 0, desc := [], live := true } } →
      d.rState 0 = 0 ∧ d.rReclaimed 0 = false ∧ d.startedFrom 0 ≤ idxSub (2 % 2 ^ 16) (d.postedFrom 0) ∧
      idxSub (2 % 2 ^ 16) (d.postedFrom 0) ≤ 2 ^ d.sqLog2 0 ∧ idxSub (2 % 2 ^ 16) (d.sqHead 0) ≠ 0 ∧
      e.started 0 ≠ 0 ∧ e.rState 0 = 1 ∧ e.inFlight 0 = true ∧ d.entBad 0 9 0 0 0 = false ∧ (d.ring 0).recs = [] := by
  refine ⟨by decide, by decide, by decide, by decide, by decide, by decide, by decide, ?_⟩
  rintro d e rfl rfl
  decide

/-- Descriptors: ring 0 holds a FILL of 32 bytes of host memory, or a descriptor of a reserved kind. -/
theorem wit_Descriptors : ∀ s : State, s = (State.reset.on fun _ => ringDev) → s.dev.mayStart 0 = true ∧
    (∀ x, x = descBytes [0x02 * 2 ^ 24 + 2 * 2 ^ 16, 0, 0, 0, 0, 0, 0, 32] → fetchDesc s 0 (some x) = (s, .inr x) ∧ s.dev.descCode 0 x = 0 ∧
      dKind x = 0x02 ∧ dTotal x = 32) ∧ s.dev.started 0 = 0 ∧ descMask (dKind (descBytes [0xFF * 2 ^ 24])) = [] := by
  rintro s rfl
  simp only [forall_eq]
  decide

/-- Messages: no get outstanding; a get of ring 0's unit; a put of no bytes that the pool takes. -/
theorem wit_Messages : SMap.find? State.reset.dev.rng.gets 0 = none ∧ State.reset.dev.underReclaim 0 = false ∧
    ∀ d : Dev, d = ({ State.reset.dev with rng := { gets := [(7, ⟨0, 0, 64⟩)] } }).setRing 0 { run := some { idx := 0, desc := [], get := some 7 } } →
      SMap.find? d.rng.gets 7 = some ⟨0, 0, 64⟩ ∧ ((d.ring 0).run.map (·.get)) = some (some 7) := by
  refine ⟨by decide, by decide, ?_⟩
  rintro d rfl
  decide
/-- Messages: a put and a get in a mapped page. -/
theorem wit_Messages_pool : (poolWrite poolState 0 0 64 [1, 2] 3).2 = 0 ∧
    (match (poolRead poolState 0 0 64 2 3).2 with
      | .inr bs => bs == [0, 0]
      | .inl _ => false) = true := by decide +kernel

/-- Reclaims: Belfry may start after reset; a reclaim that has begun; a tenant that is reclaimed. -/
theorem wit_Reclaims : State.reset.dev.granted .belfry 0x200 = true ∧ State.reset.dev.granted .belfry 0x214 = true ∧
    State.reset.dev.rdB .hubReclaimStatus 0 31 = false ∧ fld (2#32 + 2 ^ 31) 15 0 = 2 ∧ wbit (2#32 + 2 ^ 31) 31 = true ∧
    (scrubTenant { State.reset with dev := { State.reset.dev with rng := { reclaim := some ⟨2, true, true, 0, true⟩ } } } 2).2 = 0 ∧
    ({ reclaimed := [2] } : RngSt).reclaimed.contains 2 = true := by decide

/-- LanternRings: ring 0 in each state it leaves, its line 0, and its port ACTIVE. -/
theorem wit_LanternRings : ∀ d : Dev, d = State.reset.dev.wrF .plnLnkStatus 0 3 0 5 →
    (d.setHeater 0 1).ringSt 0 = 1 ∧ 16 - (d.setHeater 0 1).rdF .lanLaneStatus 0 27 24 = 16 ∧ (d.setHeater 0 2).ringSt 0 = 2 ∧
    (d.setHeater 0 3).ringSt 0 = 3 ∧ (d.setHeater 0 4).ringSt 0 = 4 ∧
    (d.setHeater 0 4).lnkState ((d.setHeater 0 4).posLp 0 ((d.setHeater 0 4).posOf 0 0 0)) = 5 ∧
    d.granted .belfry (regOffset .lanFibCtrl 0) = true ∧ d.lnkState 8 ≠ 5 ∧
    (d.positions 8).contains 3 = true ∧ d.spareFree (lpFp 8) 1 = true ∧ d.migUses (lpFp 8) 1 = false ∧
    d.rdB .lanElsStatus (d.srcUsed 0) 27 = false ∧ (d.wrB .lanElsStatus 0 27 true).rdF .lanLaneStatus 0 27 24 = 0 ∧
    (d.wrB .lanElsStatus 0 27 true).rdB .lanElsStatus ((d.wrB .lanElsStatus 0 27 true).srcUsed 0) 27 = true := by
  rintro d rfl
  decide

/-- LanternFibres: a free spare; a migration that waits, dual or done; a retry of a faded line; fibres in PROBE and OPEN; a
module STARTING with light at every tap. -/
theorem wit_LanternFibres : State.reset.dev.spareFree 0 1 = true ∧
    (State.reset.dev.positions 0).contains 3 = true ∧ (State.reset.dev.wrF .plnLnkStatus 0 3 0 5).lnkState 0 = 5 ∧
    (∀ d : Dev, d = ({ State.reset.dev with lan := { State.reset.dev.lan with mig := [(0, ⟨0, 3, 5, some 5, false, false, false⟩)], retry := [(1, 2)] } } : Dev) →
      SMap.find? d.lan.mig 0 = some ⟨0, 3, 5, some 5, false, false, false⟩ ∧ (d.setMig 0 1).rdF .lanFibStatus 0 18 16 = 1 ∧
      SMap.find? d.lan.retry 1 = some 2) ∧
    (∀ d : Dev, d = (State.reset.dev.wrF .plnLnkStatus 8 3 0 5).wrB .lanElsFade 0 18 true →
      d.migCan 1 2 = true ∧ d.rdB .lanElsFade (d.srcUsed 1) 18 = true) ∧
    (State.reset.dev.setSpare 0 0 3).sparePos 0 0 = 3 ∧ State.reset.dev.ringSt (ringNo 0 0 3) ≠ 5 ∧
    (State.reset.dev.setEye 0 2).eye 0 = 2 ∧ (State.reset.dev.setEye 0 1).eye 0 = 1 ∧
    (State.reset.dev.setSrc 0 2).srcState 0 = 2 ∧
    ((upto 16).foldl (fun d k => Dev.wr d .lanMonSrc k 0x40) State.reset.dev).tapsPresent 0 = true := by
  refine ⟨by decide, by decide, by decide, ?_, ?_, by decide, by decide, by decide, by decide, by decide, by decide⟩
  · rintro d rfl
    decide
  · rintro d rfl
    decide

/-- ResetsBegin: the device after reset, one with a capture area in an ACTIVE stack, and a die reset that runs. -/
theorem wit_ResetsBegin : State.reset.dev.granted .belfry 0x310 = true ∧ State.reset.dev.recovery = false ∧
    State.reset.dev.flt.running = [] ∧ Quiet State.reset.dev ∧ State.reset.dev.canCapture = false ∧
    State.reset.dev.rdB .hubMbxStatus 0 31 = false ∧ State.reset.dev.boot.upd.isNone = true ∧
    ((State.reset.dev.wrF .hbmStatus 0 2 0 2).wrB .hubCapBaseHi 0 31 true).canCapture = true ∧
    State.reset.dev.rdB .grdStatus 0 31 = false ∧ State.reset.dev.protect = false ∧ State.reset.dev.lpEnabled (7 * 8 + 3) = false ∧
    (State.reset.dev.wrF .hbmStatus 3 2 0 2).stackState 3 = 2 ∧
    (⟨2, 5 / 8, 0, true, false⟩ : Running).dom = 2 := by
  refine ⟨?_, ?_, ?_, ⟨rfl, rfl, rfl, rfl, rfl, rfl, rfl⟩, ?_⟩ <;> decide
/-- ResetsBegin: an enabled port of a fibre with 8 locked rings each way. -/
theorem wit_ResetsBegin_port : ∀ d, d = (upto 18).foldl (fun (d : Dev) r => d.wrF .lanLaneStatus r 31 28 4) (State.reset.dev.wr .plnLnkCfg 0 1) →
    d.created 0 = true ∧ d.lan.unfence.contains (lpFp 0) = false ∧ d.lnkState 0 = 0 ∧ d.canTrain 0 = true := by
  rintro d rfl
  decide

/-- ResetsEnd: a capture before a reset of die 1's compute, with tile 9 and ring 2048 of that die. -/
theorem wit_ResetsEnd_frozen : ∀ (r : Running) (d : Dev), r = ⟨2, 1, 0, true, false⟩ → d = { State.reset.dev with flt := { running := [r] } } →
    r ∈ d.flt.running ∧ r.capture = true ∧ r.dom = 2 ∧ r.target = (1 : Fin 8).val ∧ (9 : Fin 64).val / 8 = 1 ∧
    (2048 : Fin 16384).val / 2048 = 1 ∧ d.frozen 1 = true ∧ d.frozen 0 = false ∧ d.entBad 1 9 0 1 0 = false := by
  rintro r d rfl rfl
  decide
/-- ResetsEnd: the device after reset with a reset running; one with a capture area in an ACTIVE stack; the engines' rows
named stand for rings and tiles of the die. -/
theorem wit_ResetsEnd : Quiet State.reset.dev ∧ State.reset.dev.sen.samples = [] ∧ State.reset.dev.emb.lookups = [] ∧
    State.reset.dev.granted .belfry 0x328 = true ∧ State.reset.dev.recovery = false ∧ State.reset.dev.capServed = false ∧
    (State.reset.dev.wrF .hbmStatus 0 2 0 2).capServed = true ∧
    ({ (State.reset.dev.wrF .hbmStatus 0 2 0 2).wrB .hubCapBaseHi 0 31 true with flt := { running := [⟨1, 5, 0, false, false⟩] } } : Dev).canCapture = true ∧
    State.reset.dev.flt.running = [] ∧ State.reset.dev.rdB .grdStatus 0 31 = false ∧ State.reset.dev.rdB .hubFlsStatus 0 31 = false ∧ State.reset.dev.protect = false ∧
    State.reset.dev.boot.flash.forced = false := by
  refine ⟨⟨rfl, rfl, rfl, rfl, rfl, rfl, rfl⟩, rfl, rfl, ?_⟩; decide

/-- Watchdogs: a tile that holds a lookup, a ring that runs a descriptor, a head that waits, a running Belfry. -/
theorem wit_Watchdogs : (∀ d : Dev, d = { (State.reset.dev.wr .cupWdtCfg 0 100) with emb := { lookups := [(0, ⟨0, {}, {}, [], 5, 3⟩)] } } →
      d.rdF .cupWdtCfg (5 / 8) 15 0 ≠ 0 ∧ d.gathers 5 = true ∧ d.flt.running = [] ∧ d.protect = false ∧ d.sen.samples = []) ∧
    (∀ d : Dev, d = (ringDev.wr .rngWdtCfg 0 5).setRing 0 { (ringDev.ring 0) with run := some { idx := 0, desc := [] } } →
      d.rdF .rngWdtCfg (0 / 2048) 15 0 ≠ 0 ∧ d.rState 0 = rActive ∧ ((d.ring 0).run.map (·.tripped)) = some false ∧
      d.rdB .rngWdtCfg (0 / 2048) 31 = false) ∧
    (∀ d : Dev, d = ((State.reset.dev.wrF .hubBwdtCfg 0 15 0 10).wrB .hubMbxBelfry 0 31 true) →
      d.rdF .hubBwdtCfg 0 15 0 ≠ 0 ∧ d.rdB .hubMbxBelfry 0 31 = true ∧ d.flt.running = [] ∧ d.flt.trips = [] ∧
      d.granted .belfry 0x304 = true) := by
  refine ⟨?_, ?_, ?_⟩ <;> (rintro d rfl; decide)

/-- SentinelRole: tile 1 of die 0 serves, no tile of die 1 does; tile 0 of die 0 has the role. -/
theorem wit_SentinelRole : ∀ d, d = (State.reset.dev.wr .cupCfg 1 1).wrB .cupStatus 0 1 true →
    d.nextRole 0 = some 1 ∧ d.gathers 1 = false ∧ d.sentinel 0 = some 0 ∧ ((upto 8).foldl (fun (d : Dev) i => d.wr .cupCfg i 0) d).nextRole 0 = none ∧
    d.granted .belfry (regOffset .cupSenCtrl 0) = true := by
  rintro d rfl
  decide
/-- FencingAndPatterns: an entry queued, and a serving tile with idle patterns on. -/
theorem wit_FencingAndPatterns : State.reset.dev.granted .belfry 0x500 = true ∧ State.reset.dev.fenced 5 = false ∧
    State.reset.dev.rdB .hubMbxBelfry 0 30 = false ∧
    ∀ d : Dev, d = { ((State.reset.dev.wr .cupCfg 5 1).wr .cupSenCfg 0 1024) with sen := { pack := some 2, logQueue := [(5, true)] } } →
      d.sen.logQueue = [(5, true)] ∧ d.sen.log.length < 64 ∧ d.sen.pack = some 2 ∧ d.rdB .cupSenCfg (5 / 8) 10 = true ∧
      d.serving 5 = true ∧ d.openSlots 5 ≠ [] ∧ d.frozen (5 / 8) = false ∧ SMap.find? d.sen.fences 5 = none := by
  refine ⟨by decide, by decide, by decide, ?_⟩
  rintro d rfl
  decide

/-- SentinelOutcomes: a rounded sample, one with two replays that equalled S, and one whose tiles are all full. -/
theorem wit_SentinelOutcomes : ∀ x : Sample, x = ⟨false, 0, 3, 0, 32, 1, 0, 5, .replaying, 4, [1, 1], [], {}, [0], [1]⟩ →
    ∀ d : Dev, d = { (State.reset.dev.wr .cupCfg 2 1) with sen := { samples := [(0, x)] } } →
    SMap.find? d.sen.samples (0 * 8 + 0) = some x ∧ d.frozen 0 = false ∧ (d.replayTile x).isSome = true ∧
    (d.replayTile { x with outs := [0, 0] }).isSome = true ∧ (((upto 8).foldl (fun (d : Dev) i => d.wr .cupCfg i 0) d).replayTile x).isSome = false ∧
    d.fenced x.ct = false ∧ SMap.find? d.sen.fences x.ct = none ∧
    (d.replayTile { x with outs := [] }).isSome = true ∧ ({ x with stage := .rounded } : Sample).stage = .rounded := by
  rintro x rfl d rfl
  decide

/-- StartUp: a board without flash; PRELOAD with an empty table; LINKS with an enable left and with a fibre that may open. -/
theorem wit_StartUp : (⟨false, 0, true, 0, 2, 9, false, none⟩ : PowerUp).flash = false ∧ State.reset.dev.boot.flash.forced = false ∧
    (∀ d : Dev, d = State.reset.dev.wrF .secBootStatus 0 31 28 3 → d.phase = 3 ∧ d.boot.commit = false ∧ d.protect = false ∧
      d.boot.stuck = false ∧ d.nextSection.isNone = true ∧ d.time.commits = [] ∧ d.configBytes = []) ∧
    (∀ d : Dev, d = { State.reset.dev.wrF .secBootStatus 0 31 28 4 with boot := { enables := [3] } } → d.phase = 4 ∧
      d.boot.commit = false ∧ d.time.commits = [] ∧ (d.boot.enables.any fun lp => lpDie lp == 0) = true ∧
      (d.boot.enables.any fun lp => lpDie lp == 1) = false) ∧
    (∀ d : Dev, d = (((State.reset.dev.wrF .secBootStatus 0 31 28 4).wr .plnLnkCfg 0 1).setSrc 0 3) → d.canOpen 0 = true) ∧
    (State.reset.dev.wrF .secBootStatus 0 31 28 5).phase = 5 := by
  refine ⟨rfl, rfl, ?_, ?_, ?_, by decide⟩ <;> (rintro d rfl; decide)

/-- UpdateCommands: no operation after reset; one of 16 bytes with no staging area, and with one in an ACTIVE stack. -/
theorem wit_UpdateCommands : State.reset.dev.granted .belfry 0x90028 = true ∧ State.reset.dev.boot.upd.isNone = true ∧
    State.reset.dev.stageWaits 16 = false ∧ (stagedBytes State.reset 16).2 = none ∧
    (stagedBytes (State.reset.on fun d => ((d.wrF .hbmStatus 0 2 0 2).wr .hbmStackSize 0 32).wrB .secStageBaseHi 0 31 true) 16).2 =
      some (List.replicate 16 0) ∧
    leAt (List.replicate 16 0) 0 4 ≠ 0x4B414D44 ∧ leAt (List.replicate 16 0) 0 4 ≠ 0x50524F56 := by decide

/-- MailboxAndMessages: a READY device with Host A's link up and an operator session over its DOE, its half idle or busy. -/
theorem wit_MailboxAndMessages : ∀ d, d = ((State.reset.dev.wrF .secBootStatus 0 31 28 6).setHost 0 { State.reset.dev.host 0 with up := true }).setSpdm
      (.doe 0) ⟨3, 2, true⟩ →
    d.chanReady (.doe 0) = true ∧ d.phase = 6 ∧ (d.spdm (.doe 0)).session = 2 ∧ (d.spdm (.doe 0)).operator = true ∧
    (d.spdm (.doe 1)).session ≠ 2 ∧ Partner.hostA.host = some 0 ∧ d.protect = false ∧ d.recovery = false ∧ d.link.lost = [] ∧
    (word (2 ^ 31 + 16)).toNat / 2 ^ 31 = 1 ∧ d.rdB .hubMbxStatus 0 31 = false ∧ d.rdB .hubMbxBelfry 0 30 = false ∧
    d.rdF .hubMbxReq (0 * 1024) 7 0 ∈ [0x00, 0x01, 0x7E] ∧ d.rdB .hubMbxIrq 0 31 = false ∧
    (d.wrB .hubMbxStatus 0 31 true).rdB .hubMbxStatus 0 31 = true ∧ d.belfryHeld = false ∧
    (d.wrB .hubMbxBelfry 0 30 true).rdB .hubMbxBelfry 0 30 = true ∧ d.mgt.queue.length < 256 := by
  rintro d rfl
  decide

/-- SpdmSessions: a READY device with Host A's link up; a session over its DOE at each stage, and an I3C bus. -/
theorem wit_SpdmSessions : ∀ d, d = ((State.reset.dev.wrF .secBootStatus 0 31 28 6).setHost 0 { State.reset.dev.host 0 with up := true }) →
    d.chanReady (.doe 0) = true ∧ d.chanReady (.i3c 1) = true ∧ d.phase ≠ 0 ∧ d.rdB .secStatus 0 7 = false ∧
    ((d.setSpdm (.doe 0) { step := 1 }).spdm (.doe 0)).step = 1 ∧ ((d.setSpdm (.doe 0) { step := 2 }).spdm (.doe 0)).step = 2 ∧
    ((d.setSpdm (.doe 0) { step := 3, session := 1 }).spdm (.doe 0)) = { step := 3, session := 1 } ∧
    ((d.setSpdm (.doe 0) { step := 3, session := 2 }).spdm (.doe 0)).session = 2 ∧ (d.wr .secBootStatus 0 0).phase = 0 := by
  rintro d rfl
  decide

/-- PowerUnits: a gated tile and a stack in self-refresh, each in an exit; an ACTIVE port. -/
theorem wit_PowerUnits : (∀ d : Dev, d = { State.reset.dev.wrF .hbmStatus 1 2 0 3 with pwr := { states := [(2053, 2), (2121, 2)], exits := [(2053, 0), (2121, 0)] } } →
      d.pwrState (unitNo (.tile 5)) ≠ 0 ∧ d.fenced 5 = false ∧ SMap.find? d.pwr.exits (unitNo (.tile 5)) = some 0 ∧
      SMap.find? d.pwr.exits (unitNo (.stack 1)) = some 0 ∧ d.stackState 1 = 3 ∧ d.stackManaged 1 = true) ∧
    ((State.reset.dev.wr .plnLnkCfg 0 1).wrF .plnLnkStatus 0 3 0 5).nativeActive 0 = true ∧
    State.reset.dev.nativeActive 0 = false := by
  refine ⟨?_, by decide, by decide⟩
  rintro d rfl
  decide

/-- ThermalProtection: the device after reset; 60 °C and 112 °C on sensor 0. -/
theorem wit_ThermalProtection : (60 : Int) < tripLevel 0 ∧ tripLevel 0 ≤ 112 ∧ State.reset.dev.rdB .grdStatus 0 31 = false ∧
    State.reset.dev.protect = false ∧ State.reset.dev.railNominal 0 * 9 ≤ State.reset.dev.railNominal 0 * 10 ∧
    State.reset.dev.railNominal 0 * 11 < 65535 * 10 := by decide

/-- RegisterReads: a hole, an RC counter, a low half with its high half latched for Host B. -/
theorem wit_RegisterReads : State.reset.dev.decodes .hostA 0x31C = true ∧
    (regAt 0x318).map (fun x => (x.1.reg, x.2)) = some (.hubResetDrop, 0) ∧ regAt 0x7FC = none ∧
    (regAt 0x1140080).map (fun x => (x.1.reg, x.2)) = some (.hbmBytesLo, 0) ∧ highHalf .hbmBytesLo = some .hbmBytesHi ∧
    SMap.find? State.reset.dev.latch (latchKey .hostB (rk .hbmBytesLo 0)) = none ∧
    SMap.find? (SMap.insert (latchKey .hostB (rk .hbmBytesHi 0)) 7#32 []) (latchKey .hostB (rk .hbmBytesHi 0)) = some 7#32 := by
  decide +kernel
/-- RegisterWrites: Belfry's writes after reset, a hole, and Host A without ownership. -/
theorem wit_RegisterWrites : State.reset.dev.link.lost = [] ∧ (rowOf .evrCfg).isSome = true ∧ (rowOf .timStepLo).isSome = true ∧ (rowOf .timHoldCfg).isSome = true ∧ (rowOf .timStepHi).isSome = true ∧
    State.reset.dev.granted .belfry 0x10028 = true ∧ State.reset.dev.granted .belfry 0x1002C = true ∧ SMap.find? State.reset.dev.halves (rk .timStepLo 0) = none ∧
    State.reset.dev.granted .belfry 0x40000 = true ∧ regAt 0x7FC = none ∧ State.reset.dev.granted .belfry 0x7FC = true ∧
    Partner.hostA.host = some 0 ∧ ownBlock 0 0x7FC = false ∧ State.reset.dev.owns 0 = false ∧ State.reset.dev.recovery = false ∧
    State.reset.dev.protect = false := by decide +kernel

end Sys2Proof.Tests
end

/-! PROOFS of 00_scope: how lanterns, fibres, pipelines and logical ports are numbered, and which ports a breakout
creates. -/

namespace Sys2Proof.Machine

/-! Numbers. -/

/-- The pipeline of a fibre port's block of eight: four to a Lantern, four fibres to each. -/
theorem lpPl_fibre (lantern fibre : Nat) {lane : Nat} (h : lane < 8) :
    lpPl ((lantern * 16 + fibre) * 8 + lane) = lantern * 4 + fibre / 4 := by
  rw [lpPl]
  omega

theorem lpFp_block (fp : Nat) {p : Nat} (h : p < 8) : lpFp (fp * 8 + p) = fp := by
  rw [lpFp]
  omega

/-- Numbering by pipelines (4 to a Lantern) and by die and k (8 to a die) name the same pipeline exactly as R10 says. -/
theorem pipeline_eq_iff (n k lantern : Nat) {fibre : Nat} (hf : fibre < 16) :
    lantern * 4 + fibre / 4 = n * 8 + k ↔
      lantern = 2 * n + k / 4 ∧ 4 * (k % 4) ≤ fibre ∧ fibre ≤ 4 * (k % 4) + 3 := by
  omega

/-! Breakouts. A field is narrower than the power of two of its width, so PLN_FIB_CFG's breakout is one of four. -/

theorem fld_lt (w : Word) (hi lo : Nat) : fld w hi lo < 2 ^ (hi + 1 - lo) := Nat.mod_lt _ (Nat.two_pow_pos _)

theorem Dev.rdF_lt (d : Dev) (r : Reg) (i hi lo : Nat) : d.rdF r i hi lo < 2 ^ (hi + 1 - lo) := fld_lt _ _ _

/-- A breakout creates the numbers of the block that stand on a multiple of its lanes. -/
theorem Dev.created_block (d : Dev) (fp : Nat) {p : Nat} (h : p < 8) :
    d.created (fp * 8 + p) = true ↔ d.fibLanes fp ∣ p := by
  have hp : (fp * 8 + p) % 8 = p := by omega
  rw [Dev.created, lpFp_block fp h, hp, beq_iff_eq, Nat.dvd_iff_mod_eq_zero]

/-- Table 0-5: the ports of a block that stand on a multiple of the lanes of breakout b. -/
theorem lanes_dvd_iff {b : Nat} (hb : b < 4) (p : Fin 8) :
    8 / 2 ^ b ∣ p.val ↔
      (b = 0 ∧ p = 0) ∨ (b = 1 ∧ (p = 0 ∨ p = 4)) ∨ (b = 2 ∧ (p = 0 ∨ p = 2 ∨ p = 4 ∨ p = 6)) ∨ b = 3 := by
  revert p
  interval_cases b <;> decide

/-- Settles O1: a block of eight lies in one pipeline, counted by Lantern and by die; a breakout creates the multiples
of its lanes. -/
theorem portNumbering : Obligations.PortNumbering := by
  unfold Obligations.PortNumbering
  refine ⟨fun n k lantern fibre lane => ?_, fun d fp p => ?_⟩
  · rw [lpPl_fibre _ _ lane.isLt]
    exact pipeline_eq_iff _ _ _ fibre.isLt
  · rw [d.created_block _ p.isLt, Dev.fibLanes]
    exact lanes_dvd_iff (d.rdF_lt _ _ _ _) p

end Sys2Proof.Machine

/-! PROOFS of 13_rings_and_tenants: control commands that Table 13-3 does not list for the ring's state (R343). -/

namespace Sys2Proof.Machine

/-! The three commands where the state table does not list them. -/

/-- Table 13-3 does not list the control command cmd (1 SUSPEND, 2 RESUME, 3 CANCEL with its all bit) for ring r as it
stands. -/
def Dev.CtrlUnlisted (d : Dev) (r cmd : Nat) (all : Bool) : Prop :=
  (cmd = 1 ∧ d.rState r ≠ 1) ∨
    (cmd = 2 ∧ (d.rReclaimed r = true ∨ (d.rState r ≠ 3 ∧ d.rState r ≠ 4 ∧ d.rState r ≠ 6))) ∨
    (cmd = 3 ∧ (d.rState r = 0 ∨ 5 ≤ d.rState r) ∧ ¬ (d.rState r = 6 ∧ all = true))

/-- A control command ignored: RNG_CTRL_IGN of the ring's die counts it. -/
def ctrlIgnored (s : State) (r : Nat) : State := s.on fun d => d.bump .rngCtrlIgn (r / 2048)

theorem ringSuspendCmd_unlisted {s : State} {r : Nat} {all : Bool} (h : s.dev.CtrlUnlisted r 1 all) :
    ringSuspendCmd s r = ctrlIgnored s r := by
  have hst : s.dev.rState r ≠ rActive := by simpa [Dev.CtrlUnlisted, rActive] using h
  exact if_neg hst

theorem ringResume_unlisted {s : State} {r : Nat} {all : Bool} (h : s.dev.CtrlUnlisted r 2 all) :
    ringResume s r = ctrlIgnored s r := by
  have hst : s.dev.rReclaimed r = true ∨ (s.dev.rState r ≠ 3 ∧ s.dev.rState r ≠ 4 ∧ s.dev.rState r ≠ 6) := by
    simpa [Dev.CtrlUnlisted] using h
  refine if_neg ?_
  rintro ⟨hrec, hgo⟩
  rcases hst with hr | ⟨h3, h4, h6⟩
  · simp [hr] at hrec
  · exact hgo.elim h3 fun hgo => hgo.elim h4 h6

theorem ringCancel_unlisted {s : State} {r : Nat} {all : Bool} (h : s.dev.CtrlUnlisted r 3 all) :
    ringCancel s r all = ctrlIgnored s r := by
  obtain ⟨hout, herr⟩ : (s.dev.rState r = 0 ∨ 5 ≤ s.dev.rState r) ∧ ¬(s.dev.rState r = rError ∧ all = true) := by
    simpa [Dev.CtrlUnlisted, rError] using h
  have hrun : ¬(1 ≤ s.dev.rState r ∧ s.dev.rState r ≤ 4) := by omega
  exact (if_neg hrun).trans (if_neg herr)

/-- A control word (R347) whose cmd and all fields give a command that the table does not list. -/
theorem ringCtrl_unlisted {s : State} {r w : Nat} (h : s.dev.CtrlUnlisted r (bits w 31 28) (bit w 0)) :
    ringCtrl s r w = ctrlIgnored s r := by
  have hcmd : bits w 31 28 = 1 ∨ bits w 31 28 = 2 ∨ bits w 31 28 = 3 := h.imp And.left (Or.imp And.left And.left)
  rw [ringCtrl]
  rcases hcmd with hc | hc | hc <;> rw [hc] at h ⊢
  · exact ringSuspendCmd_unlisted h
  · exact ringResume_unlisted h
  · exact ringCancel_unlisted h

/-! The two ways a command reaches its ring: a host's doorbell page (R346) and RING_DOORBELL (R348). -/

/-- A valid ring's context is not bad, so meeting it does nothing (05 R125). -/
theorem Dev.ringMeets_of_valid {d : Dev} {r : Nat} (h : d.rValid r = true) : d.ringMeets r = d := by
  have hbad : d.entBad (r / 2048) 9 0 (r / 2048) (r % 2048) = false := by simp_all [Dev.rValid]
  simp [Dev.ringMeets, Dev.meets, hbad]

theorem dbWrite_enabled {who : Partner} {h r : Nat} (f : State → State) {s : State} (hwho : who.host = some h)
    (hrec : s.dev.recovery = false) (hval : s.dev.rValid r = true) (hen : bit (s.dev.rw r 0) (20 + h) = true) :
    dbWrite who r f s = f s := by
  simp [dbWrite, State.on, hwho, hrec, hval, hen, Dev.ringMeets_of_valid hval]

/-- Taking a packet changes only what the engines are handed. -/
theorem Dev.take_eq_keep (d : Dev) (lp : Nat) (p : Pkt) : ∃ k, (d.take lp p).1 = { d with keep := k } := by
  rw [Dev.take, Dev.takeHanded]
  split
  · exact ⟨d.keep, rfl⟩
  · exact ⟨_, rfl⟩

/-- A RING_DOORBELL of kind CTRL that the ring takes acts as its word, the packet taken. -/
theorem ringDoorbell_ctrl {s : State} {lp r : Nat} {p : Pkt} (hr : p.opf / 2 ^ 50 % 2 ^ 14 = r)
    (hkind : bits p.opf 49 48 = 2) (hdid : p.did = linkLocal ∨ p.did = s.dev.selfDid (lpDie lp))
    (hready : s.dev.isReady = true) (hval : s.dev.rValid r = true) (hen : bit (s.dev.rw r 0) 22 = true)
    (hsid : p.sid = s.dev.rf r 6 19 0) (hten : p.tenant = s.dev.rTenant r) :
    ∃ k, ringDoorbell s lp p = ringCtrl { s with dev := { s.dev with keep := k } } r (p.opf % 2 ^ 32) := by
  obtain ⟨k, hk⟩ := s.dev.take_eq_keep lp p
  have hmeet : Dev.ringMeets { s.dev with keep := k } r = { s.dev with keep := k } := Dev.ringMeets_of_valid hval
  have hok : ((p.did == linkLocal || p.did == s.dev.selfDid (lpDie lp)) && s.dev.isReady && s.dev.rValid r &&
      bit (s.dev.rw r 0) 22 && p.sid == s.dev.rf r 6 19 0 && p.tenant == s.dev.rTenant r) = true := by
    simp [hdid, hready, hval, hen, hsid, hten]
  refine ⟨k, ?_⟩
  rw [ringDoorbell, hr, hk, hmeet, hkind]
  exact if_neg (by rw [Bool.not_eq_true', Bool.not_eq_false]; exact hok)

/-! What an ignored command leaves. -/

/-- RNG_CTRL_IGN of the die has counted one command; the tables with the ring contexts, the ring, collective and embedding
engines, HBM and every other register stand. -/
def OnlyCtrlIgn (s t : State) (die : Nat) : Prop :=
  t.dev.rdN .rngCtrlIgn die = min 0xFFFFFFFF (s.dev.rdN .rngCtrlIgn die + 1) ∧
    t.dev.tab = s.dev.tab ∧ t.dev.rng = s.dev.rng ∧ t.dev.col = s.dev.col ∧ t.dev.emb = s.dev.emb ∧ t.hbm = s.hbm ∧
    SameRegsBut s t fun r k => r == .rngCtrlIgn && k == die

theorem ctrlIgnored_onlyCtrlIgn (s : State) (k : KeepSt) (r : Nat) :
    OnlyCtrlIgn s (ctrlIgnored { s with dev := { s.dev with keep := k } } r) (r / 2048) := by
  refine ⟨Dev.rdN_bump_same _ _ _, rfl, rfl, rfl, rfl, rfl, fun q i hq => Dev.rd_bump_other _ ?_⟩
  rintro ⟨rfl, rfl⟩
  simp at hq

/-- A host's control command (R343) that the table does not list for the ring. -/
theorem exec_hostCtrl_unlisted {who : Partner} {h cmd : Nat} {ring : Fin 16384} {all : Bool} {i : Instr} {s : State}
    (hi : (cmd, i) ∈ [(1, Instr.suspend who ring), (2, .resume who ring), (3, .cancel who ring all)])
    (hun : s.dev.CtrlUnlisted ring cmd all) (hwho : who.host = some h) (hrec : s.dev.recovery = false)
    (hval : s.dev.rValid ring = true) (hen : bit (s.dev.rw ring 0) (20 + h) = true) :
    exec i s = .next (ctrlIgnored s ring) := by
  have hdb : ∀ f : State → State, dbWrite who ring f s = f s := fun f => dbWrite_enabled f hwho hrec hval hen
  simp only [List.mem_cons, Prod.mk.injEq, List.not_mem_nil, or_false] at hi
  obtain ⟨rfl, rfl⟩ | ⟨rfl, rfl⟩ | ⟨rfl, rfl⟩ := hi
  · exact congrArg Host.Outcome.next ((hdb _).trans (ringSuspendCmd_unlisted hun))
  · exact congrArg Host.Outcome.next ((hdb _).trans (ringResume_unlisted hun))
  · exact congrArg Host.Outcome.next ((hdb _).trans (ringCancel_unlisted hun))

/-- A RING_DOORBELL that the ring takes with a control word that the table does not list for the ring. -/
theorem exec_ringDoorbell_unlisted {s : State} {lp : Fin 2048} {r : Nat} {p : Pkt} (hr : p.opf / 2 ^ 50 % 2 ^ 14 = r)
    (hkind : bits p.opf 49 48 = 2)
    (hun : s.dev.CtrlUnlisted r (bits (p.opf % 2 ^ 32) 31 28) (bit (p.opf % 2 ^ 32) 0))
    (hdid : p.did = linkLocal ∨ p.did = s.dev.selfDid (lpDie lp))
    (hready : s.dev.isReady = true) (hval : s.dev.rValid r = true) (hen : bit (s.dev.rw r 0) 22 = true)
    (hsid : p.sid = s.dev.rf r 6 19 0) (hten : p.tenant = s.dev.rTenant r) :
    ∃ k, exec (.ringDoorbell lp p) s = .next (ctrlIgnored { s with dev := { s.dev with keep := k } } r) := by
  obtain ⟨k, hk⟩ := ringDoorbell_ctrl hr hkind hdid hready hval hen hsid hten
  exact ⟨k, congrArg Host.Outcome.next (hk.trans (ringCtrl_unlisted hun))⟩

/-- Settles O42: each command takes its ignored branch, reached through the doorbell page or through RING_DOORBELL. -/
theorem controlIgnored : Obligations.ControlIgnored := by
  unfold Obligations.ControlIgnored
  rintro who h ring lp p cmd all i s hun hval
    (⟨hwho, hrec, hen, hi⟩ | ⟨rfl, hr, hkind, rfl, rfl, hdid, hready, hen, hsid, hten⟩)
  · exact ⟨_, exec_hostCtrl_unlisted hi hun hwho hrec hval hen, ctrlIgnored_onlyCtrlIgn s s.dev.keep ring⟩
  · obtain ⟨k, hk⟩ := exec_ringDoorbell_unlisted hr hkind hun hdid hready hval hen hsid hten
    exact ⟨_, hk, ctrlIgnored_onlyCtrlIgn s k ring⟩

end Sys2Proof.Machine
